-- ==== Sys2Proof/Word.lean ====
section
/-! DEFINITION. The machine's words, and the headers of packets that its steps carry. -/

namespace Sys2Proof

/-- A general register, a control register, a physical address (R15, R196, R206). -/
abbrev Word := BitVec 64

/-- A virtual address or a pointer register (R8, R196). -/
abbrev Ptr := BitVec 80

/-- One byte of memory (R6). -/
abbrev Byte := BitVec 8

/-- A vector register: VW = 2,048 bits (R196, R206). -/
abbrev Vec := BitVec 2048

/-- A predicate register: one bit for each byte lane (R196). -/
abbrev Pred := BitVec 256

/-- An element of accumulator memory (R64, R66, R183). -/
abbrev Acc := BitVec 36

/-- The number of a core: CORELOC[25:0] as R162 lays it out: kind, module, die, cluster, core. -/
abbrev Loc := Nat

/-- R404: what a fabric flit carries beside its sequence number, but for its CRC and FEC. -/
structure FlitRest where
  vc : BitVec 4
  ack : BitVec 12
  nak : Bool
  cred : BitVec 16
  payload : List Byte
deriving DecidableEq, Repr

/-- R413: the message that an Ethernet packet belongs to: its peer, its number there, its length in bytes. -/
structure EthMessage where
  peer : Nat
  number : Nat
  total : Nat
deriving DecidableEq, Repr

end Sys2Proof
end

