-- ==== Sys2Proof/Syntax.lean ====
section
/-! DEFINITION. The instructions and steps of the module, one constructor for each row of the opcode table.

The encoded rows carry their fields as they stand in the word (R199); which register file a field names is
checked by `Instr.wellFormed` and by the decoder (R197). The rows without an encoding are the steps of the other
agents (R99-R137 and the chapters of each unit); their arguments name the unit or the transaction concerned. -/

namespace Sys2Proof

/-- One row of the opcode table each. -/
inductive Instr where
  /-- MOVI (R226). Places a 16-bit field at a nibble position in a cleared register, optionally sign-extended. -/
  | movi (d : BitVec 5) (sel : BitVec 1) (n : BitVec 4) (imm : BitVec 16)
  /-- MOVK (R226). Overwrites a 16-bit field of G[d] keeping all other bits. -/
  | movk (d : BitVec 5) (n : BitVec 4) (imm : BitVec 16)
  /-- FADD (R235). Scalar floating-point addition rounded once, flags to FSTAT. -/
  | fadd (d : BitVec 5) (a : BitVec 5) (b : BitVec 5) (r : BitVec 3) (t : BitVec 3)
  /-- FSUB (R235). Scalar floating-point subtraction rounded once. -/
  | fsub (d : BitVec 5) (a : BitVec 5) (b : BitVec 5) (r : BitVec 3) (t : BitVec 3)
  /-- FMUL (R235). Scalar floating-point multiplication rounded once. -/
  | fmul (d : BitVec 5) (a : BitVec 5) (b : BitVec 5) (r : BitVec 3) (t : BitVec 3)
  /-- FDIV (R235). Scalar floating-point division rounded once. -/
  | fdiv (d : BitVec 5) (a : BitVec 5) (b : BitVec 5) (r : BitVec 3) (t : BitVec 3)
  /-- FSQRT (R235). Scalar floating-point square root rounded once. -/
  | fsqrt (d : BitVec 5) (a : BitVec 5) (r : BitVec 3) (t : BitVec 3)
  /-- FMAC (R235). Fused multiply-add into G[d] with one rounding. -/
  | fmac (d : BitVec 5) (a : BitVec 5) (b : BitVec 5) (r : BitVec 3) (t : BitVec 3)
  /-- FMIN (R235). Scalar floating-point minimum under R189. -/
  | fmin (d : BitVec 5) (a : BitVec 5) (b : BitVec 5) (t : BitVec 3)
  /-- FMAX (R235). Scalar floating-point maximum under R189. -/
  | fmax (d : BitVec 5) (a : BitVec 5) (b : BitVec 5) (t : BitVec 3)
  /-- FCMP (R236). Writes 1 when the floating-point relation holds, else 0. -/
  | fcmp (d : BitVec 5) (a : BitVec 5) (b : BitVec 5) (c : BitVec 3) (t : BitVec 3)
  /-- FCVT (R237). Converts between scalar formats, rounding under the mode. -/
  | fcvt (d : BitVec 5) (a : BitVec 5) (sel : BitVec 3) (r : BitVec 3) (t : BitVec 3)
  /-- FCLASS (R238). Writes a one-hot class mask of the operand. -/
  | fclass (d : BitVec 5) (a : BitVec 5) (t : BitVec 3)
  /-- BEQ (R240). Branches when G[a] equals G[b]. -/
  | beq (a : BitVec 5) (b : BitVec 5) (o : BitVec 12)
  /-- BNE (R240). Branches when G[a] differs from G[b]. -/
  | bne (a : BitVec 5) (b : BitVec 5) (o : BitVec 12)
  /-- BLT (R240). Branches when G[a] is less than G[b] signed. -/
  | blt (a : BitVec 5) (b : BitVec 5) (o : BitVec 12)
  /-- BGE (R240). Branches when G[a] is at least G[b] signed. -/
  | bge (a : BitVec 5) (b : BitVec 5) (o : BitVec 12)
  /-- BLTN (R240). Branches when G[a] is less than G[b] unsigned. -/
  | bltn (a : BitVec 5) (b : BitVec 5) (o : BitVec 12)
  /-- BGEN (R240). Branches when G[a] is at least G[b] unsigned. -/
  | bgen (a : BitVec 5) (b : BitVec 5) (o : BitVec 12)
  /-- J (R241). Jumps PC-relative by a 26-bit word offset. -/
  | j (o : BitVec 26)
  /-- CALL (R241). Jumps PC-relative and writes the return offset to g31. -/
  | call (o : BitVec 26)
  /-- JR (R242). Jumps to the SP1 offset in G[a]. -/
  | jr (a : BitVec 5)
  /-- CALLR (R242). Jumps to G[a] and writes the return offset to g31. -/
  | callr (a : BitVec 5)
  /-- RET (R242). Jumps to the offset in g31. -/
  | ret
  /-- LD_N8 (R269). Loads one byte, zero-extended, on path C. -/
  | ldN8 (d : BitVec 5) (p : BitVec 3) (m : BitVec 2) (x : BitVec 3) (imm : BitVec 13)
  /-- LD_I8 (R269). Loads one byte, sign-extended. -/
  | ldI8 (d : BitVec 5) (p : BitVec 3) (m : BitVec 2) (x : BitVec 3) (imm : BitVec 13)
  /-- LD_N16 (R269). Loads two bytes, zero-extended. -/
  | ldN16 (d : BitVec 5) (p : BitVec 3) (m : BitVec 2) (x : BitVec 3) (imm : BitVec 13)
  /-- LD_I16 (R269). Loads two bytes, sign-extended. -/
  | ldI16 (d : BitVec 5) (p : BitVec 3) (m : BitVec 2) (x : BitVec 3) (imm : BitVec 13)
  /-- LD_N32 (R269). Loads four bytes, zero-extended. -/
  | ldN32 (d : BitVec 5) (p : BitVec 3) (m : BitVec 2) (x : BitVec 3) (imm : BitVec 13)
  /-- LD_I32 (R269). Loads four bytes, sign-extended. -/
  | ldI32 (d : BitVec 5) (p : BitVec 3) (m : BitVec 2) (x : BitVec 3) (imm : BitVec 13)
  /-- LD_I64 (R269). Loads eight bytes; a read from another module parks the task. -/
  | ldI64 (d : BitVec 5) (p : BitVec 3) (m : BitVec 2) (x : BitVec 3) (imm : BitVec 13)
  /-- LDP (R269). Loads a 16-byte pointer image into a p register. -/
  | ldp (d : BitVec 5) (p : BitVec 3) (m : BitVec 2) (x : BitVec 3) (imm : BitVec 13)
  /-- ST_8 (R269). Stores one byte on path C. -/
  | st8 (d : BitVec 5) (p : BitVec 3) (m : BitVec 2) (x : BitVec 3) (imm : BitVec 13)
  /-- ST_16 (R269). Stores two bytes. -/
  | st16 (d : BitVec 5) (p : BitVec 3) (m : BitVec 2) (x : BitVec 3) (imm : BitVec 13)
  /-- ST_32 (R269). Stores four bytes. -/
  | st32 (d : BitVec 5) (p : BitVec 3) (m : BitVec 2) (x : BitVec 3) (imm : BitVec 13)
  /-- ST_64 (R269). Stores eight bytes; a store to another module is posted. -/
  | st64 (d : BitVec 5) (p : BitVec 3) (m : BitVec 2) (x : BitVec 3) (imm : BitVec 13)
  /-- STP (R269). Stores a pointer as 16 bytes, bytes 10-15 zero. -/
  | stp (d : BitVec 5) (p : BitVec 3) (m : BitVec 2) (x : BitVec 3) (imm : BitVec 13)
  /-- VLD (R255). Loads a whole vector register from any address. -/
  | vld (d : BitVec 5) (p : BitVec 3) (m : BitVec 2) (x : BitVec 3) (imm : BitVec 13)
  /-- VST (R255). Stores a whole vector register to any address. -/
  | vst (d : BitVec 5) (p : BitVec 3) (m : BitVec 2) (x : BitVec 3) (imm : BitVec 13)
  /-- LDA (R271). Acquire load at a scope. -/
  | lda (d : BitVec 5) (a : BitVec 5) (sel : BitVec 3) (z : BitVec 3) (x : BitVec 3)
  /-- STL (R271). Release store at a scope, waiting for posted stores at module or domain scope. -/
  | stl (a : BitVec 5) (b : BitVec 5) (sel : BitVec 3) (z : BitVec 3) (x : BitVec 3)
  /-- AMO_ADD (R273). Atomic add at the home, returning the old value. -/
  | amoAdd (d : BitVec 5) (a : BitVec 5) (b : BitVec 5) (z : BitVec 2) (x : BitVec 3)
  /-- AMO_AND (R273). Atomic AND at the home. -/
  | amoAnd (d : BitVec 5) (a : BitVec 5) (b : BitVec 5) (z : BitVec 2) (x : BitVec 3)
  /-- AMO_OR (R273). Atomic OR at the home. -/
  | amoOr (d : BitVec 5) (a : BitVec 5) (b : BitVec 5) (z : BitVec 2) (x : BitVec 3)
  /-- AMO_XOR (R273). Atomic XOR at the home. -/
  | amoXor (d : BitVec 5) (a : BitVec 5) (b : BitVec 5) (z : BitVec 2) (x : BitVec 3)
  /-- AMO_MIN (R273). Atomic signed minimum at the home. -/
  | amoMin (d : BitVec 5) (a : BitVec 5) (b : BitVec 5) (z : BitVec 2) (x : BitVec 3)
  /-- AMO_MAX (R273). Atomic signed maximum at the home. -/
  | amoMax (d : BitVec 5) (a : BitVec 5) (b : BitVec 5) (z : BitVec 2) (x : BitVec 3)
  /-- AMO_MINN (R273). Atomic unsigned minimum at the home. -/
  | amoMinn (d : BitVec 5) (a : BitVec 5) (b : BitVec 5) (z : BitVec 2) (x : BitVec 3)
  /-- AMO_MAXN (R273). Atomic unsigned maximum at the home. -/
  | amoMaxn (d : BitVec 5) (a : BitVec 5) (b : BitVec 5) (z : BitVec 2) (x : BitVec 3)
  /-- AMO_SWAP (R273). Atomic swap at the home. -/
  | amoSwap (d : BitVec 5) (a : BitVec 5) (b : BitVec 5) (z : BitVec 2) (x : BitVec 3)
  /-- CAS (R273). Atomic compare-and-swap of 4 or 8 bytes. -/
  | cas (d : BitVec 5) (a : BitVec 5) (b : BitVec 5) (z : BitVec 2) (x : BitVec 3)
  /-- CAS2 (R273). Atomic 16-byte compare-and-swap on register pairs. -/
  | cas2 (d : BitVec 5) (a : BitVec 5) (b : BitVec 5) (x : BitVec 3)
  /-- FAMO_ADD (R273). Atomic floating-point add under RNE, flags to FSTAT on reply. -/
  | famoAdd (d : BitVec 5) (a : BitVec 5) (b : BitVec 5) (z : BitVec 2) (x : BitVec 3)
  /-- FENCE (R114). Orders earlier path C events of classes pred before later ones of classes succ at a scope. -/
  | fence (sel : BitVec 3) (p : BitVec 2) (q : BitVec 2)
  /-- XFENCE (R115). Orders earlier events on path P before later events on path Q at a scope. -/
  | xfence (sel : BitVec 3) (p : BitVec 3) (q : BitVec 3)
  /-- WAIT (R276). Stalls until each outstanding class count is at most its immediate. -/
  | wait (l : BitVec 6) (sel : BitVec 6) (c : BitVec 5) (t : BitVec 5) (m : BitVec 4)
  /-- WAITK_IMM (R278). Stalls until the counter's C reaches a command number given as a 15-bit immediate. -/
  | waitkImm (nhi : BitVec 10) (k : BitVec 3) (nlo : BitVec 5)
  /-- WAITK_REG (R278). Stalls until the counter's C reaches the command number in G[a]. -/
  | waitkReg (a : BitVec 5) (k : BitVec 3)
  /-- WAITB_IMM (R278). Stalls until fewer than n commands on the counter are unfinished. -/
  | waitbImm (nhi : BitVec 10) (k : BitVec 3) (nlo : BitVec 5)
  /-- WAITB_REG (R278). Stalls until fewer than G[a] commands on the counter are unfinished. -/
  | waitbReg (a : BitVec 5) (k : BitVec 3)
  /-- KSET (R279). Waits for I = C, sets both to G[a] and re-evaluates armed triggers. -/
  | kset (a : BitVec 5) (k : BitVec 3)
  /-- KGET (R279). Writes I and C of the counter into G[a]. -/
  | kget (a : BitVec 5) (k : BitVec 3)
  /-- TRIG (R281). Latches a trigger block and arms it on a counter threshold. -/
  | trig (a : BitVec 5) (b : BitVec 5) (k : BitVec 3)
  /-- UNTRIG (R282). Disarms the thread's triggers armed on kC from a block address. -/
  | untrig (b : BitVec 5) (k : BitVec 3)
  /-- BMOV (R286). Moves a block in 64-byte-bounded pieces on path C. -/
  | bmov (d : BitVec 5) (a : BitVec 5) (b : BitVec 5)
  /-- BSET (R286). Fills a block with a repeated 8-byte pattern in pieces. -/
  | bset (d : BitVec 5) (a : BitVec 5) (b : BitVec 5)
  /-- RPT (R287). Repeats the following k words G[a] times. -/
  | rpt (a : BitVec 5) (k : BitVec 5)
  /-- CP_COPY (R290). Copy-engine command copying rows on path X. -/
  | cpCopy (a : BitVec 5) (b : BitVec 5) (k : BitVec 3)
  /-- CP_FILL (R290). Copy-engine command filling rows with a byte pattern. -/
  | cpFill (a : BitVec 5) (b : BitVec 5) (k : BitVec 3)
  /-- CP_ROWS (R290). Copy-engine indexed gather of rows. -/
  | cpRows (a : BitVec 5) (b : BitVec 5) (k : BitVec 3) (imm : BitVec 5)
  /-- CP_SCAT (R290). Copy-engine indexed scatter of rows, optionally adding. -/
  | cpScat (a : BitVec 5) (b : BitVec 5) (k : BitVec 3) (imm : BitVec 5)
  /-- TCFG (R293). Defines n tile descriptors from a memory block. -/
  | tcfg (a : BitVec 5) (b : BitVec 5) (c : BitVec 5)
  /-- TDEF (R293). Defines one tile descriptor from two g registers. -/
  | tdef (a : BitVec 5) (b : BitVec 5) (c : BitVec 5)
  /-- TFILL (R294). Fills a tile from memory on path X, optionally expanding 2:4 sparsity. -/
  | tfill (a : BitVec 5) (b : BitVec 5) (k : BitVec 3) (o : BitVec 1) (c : BitVec 5)
  /-- TDRAIN (R294). Drains a tile to memory on path X, optionally releasing it. -/
  | tdrain (a : BitVec 5) (b : BitVec 5) (k : BitVec 3) (o : BitVec 1) (c : BitVec 5)
  /-- TREL (R293). Sets a tile entry undefined. -/
  | trel (a : BitVec 5)
  /-- TSTAT (R295). Returns a tile descriptor with STATE and PINS in two registers. -/
  | tstat (a : BitVec 5) (b : BitVec 5)
  /-- TSWAP (R296). Exchanges a tile's bytes with the same tile of a partner core. -/
  | tswap (a : BitVec 5) (b : BitVec 5) (k : BitVec 3)
  /-- JOIN (R298). Joins a group object by one atomic, returning the starting generation. -/
  | join (a : BitVec 5) (b : BitVec 5) (sel : BitVec 3)
  /-- LEAVE (R298). Leaves a group object, possibly completing or dissolving it. -/
  | leave (b : BitVec 5)
  /-- GBAR (R299). Group barrier arrival with release and acquire at the object's scope. -/
  | gbar (b : BitVec 5)
  /-- SPAWN (R300). Sends a message with the caller's identity and payload to a core. -/
  | spawn (a : BitVec 5) (b : BitVec 5)
  /-- TID (R301). Writes a selected identity field. -/
  | tid (a : BitVec 5) (sel : BitVec 3)
  /-- DONE (R302). Waits for posted stores and commands, discards triggers and frees the slot. -/
  | done
  /-- MX_MAC (R317). Matrix command adding a 32x32 product into an accumulator tile. -/
  | mxMac (u : BitVec 1) (v : BitVec 1) (t : BitVec 1) (a : BitVec 5) (b : BitVec 5) (k : BitVec 3) (sel : BitVec 1) (c : BitVec 4)
  /-- MX_MACB (R317). Matrix command adding a block-scaled product. -/
  | mxMacb (u : BitVec 1) (v : BitVec 1) (t : BitVec 1) (a : BitVec 5) (b : BitVec 5) (k : BitVec 3) (sel : BitVec 1) (c : BitVec 4)
  /-- MX_ZERO (R319). Sets every element of an accumulator tile to zero. -/
  | mxZero (k : BitVec 3) (c : BitVec 4)
  /-- MX_LD (R320). Loads rows into an accumulator tile with exact conversion. -/
  | mxLd (a : BitVec 5) (k : BitVec 3) (c : BitVec 4)
  /-- MX_ST (R320). Drains rows of an accumulator tile to memory on path M. -/
  | mxSt (a : BitVec 5) (k : BitVec 3) (c : BitVec 4)
  /-- MX_HAND (R321). Converts a tile into a slot of the hand-off queue toward the NI. -/
  | mxHand (k : BitVec 3) (c : BitVec 4)
  /-- MX_RD (R322). Reads one converted accumulator row into a vector register. -/
  | mxRd (v : BitVec 5) (g : BitVec 5) (c : BitVec 4)
  /-- MX_PROG (R324). Reads MXPROG after earlier matrix commands complete. -/
  | mxProg (d : BitVec 5)
  /-- MX_PROG_CLR (R324). Reads MXPROG and clears PART bits named in G[b]. -/
  | mxProgClr (d : BitVec 5) (b : BitVec 5)
  /-- MX_SEND (R327). Sends a matrix command to another core's unit under a capability. -/
  | mxSend (a : BitVec 5) (b : BitVec 5) (k : BitVec 3)
  /-- ETW (R305). Writes an engine register of a selector. -/
  | etw (sel : BitVec 3) (a : BitVec 5) (n : BitVec 5) (p : BitVec 1)
  /-- ETR (R305). Reads an engine register of a selector. -/
  | etr (sel : BitVec 3) (a : BitVec 5) (n : BitVec 5) (p : BitVec 1)
  /-- VADD_F (R248). Vector floating-point addition per active lane. -/
  | vaddF (d : BitVec 5) (a : BitVec 5) (b : BitVec 5) (q : BitVec 3) (f : BitVec 5)
  /-- VSUB_F (R248). Vector floating-point subtraction. -/
  | vsubF (d : BitVec 5) (a : BitVec 5) (b : BitVec 5) (q : BitVec 3) (f : BitVec 5)
  /-- VMUL_F (R248). Vector floating-point multiplication. -/
  | vmulF (d : BitVec 5) (a : BitVec 5) (b : BitVec 5) (q : BitVec 3) (f : BitVec 5)
  /-- VFMA (R248). Vector fused multiply-add into vD with one rounding. -/
  | vfma (d : BitVec 5) (a : BitVec 5) (b : BitVec 5) (q : BitVec 3) (f : BitVec 5)
  /-- VMIN_F (R248). Vector floating-point minimum. -/
  | vminF (d : BitVec 5) (a : BitVec 5) (b : BitVec 5) (q : BitVec 3) (f : BitVec 5)
  /-- VMAX_F (R248). Vector floating-point maximum. -/
  | vmaxF (d : BitVec 5) (a : BitVec 5) (b : BitVec 5) (q : BitVec 3) (f : BitVec 5)
  /-- VDIV (R248). Vector floating-point division. -/
  | vdiv (d : BitVec 5) (a : BitVec 5) (b : BitVec 5) (q : BitVec 3) (f : BitVec 5)
  /-- VSQRT (R248). Vector floating-point square root. -/
  | vsqrt (d : BitVec 5) (a : BitVec 5) (q : BitVec 3) (f : BitVec 5)
  /-- VADD_I (R249). Vector integer addition, wrapping. -/
  | vaddI (d : BitVec 5) (a : BitVec 5) (b : BitVec 5) (q : BitVec 3) (f : BitVec 3)
  /-- VSUB_I (R249). Vector integer subtraction. -/
  | vsubI (d : BitVec 5) (a : BitVec 5) (b : BitVec 5) (q : BitVec 3) (f : BitVec 3)
  /-- VMUL_I (R249). Vector integer multiplication. -/
  | vmulI (d : BitVec 5) (a : BitVec 5) (b : BitVec 5) (q : BitVec 3) (f : BitVec 3)
  /-- VMIN_I (R249). Vector integer minimum. -/
  | vminI (d : BitVec 5) (a : BitVec 5) (b : BitVec 5) (q : BitVec 3) (f : BitVec 3)
  /-- VMAX_I (R249). Vector integer maximum. -/
  | vmaxI (d : BitVec 5) (a : BitVec 5) (b : BitVec 5) (q : BitVec 3) (f : BitVec 3)
  /-- VABS_I (R249). Vector integer absolute value on signed formats. -/
  | vabsI (d : BitVec 5) (a : BitVec 5) (q : BitVec 3) (f : BitVec 3)
  /-- VNEG_I (R249). Vector integer negation on signed formats. -/
  | vnegI (d : BitVec 5) (a : BitVec 5) (q : BitVec 3) (f : BitVec 3)
  /-- VAND (R249). Vector bitwise AND. -/
  | vand (d : BitVec 5) (a : BitVec 5) (b : BitVec 5) (q : BitVec 3) (f : BitVec 3)
  /-- VOR (R249). Vector bitwise OR. -/
  | vor (d : BitVec 5) (a : BitVec 5) (b : BitVec 5) (q : BitVec 3) (f : BitVec 3)
  /-- VXOR (R249). Vector bitwise XOR. -/
  | vxor (d : BitVec 5) (a : BitVec 5) (b : BitVec 5) (q : BitVec 3) (f : BitVec 3)
  /-- VSHL (R249). Vector shift left. -/
  | vshl (d : BitVec 5) (a : BitVec 5) (b : BitVec 5) (q : BitVec 3) (f : BitVec 3)
  /-- VSHR (R249). Vector logical shift right. -/
  | vshr (d : BitVec 5) (a : BitVec 5) (b : BitVec 5) (q : BitVec 3) (f : BitVec 3)
  /-- VSRA (R249). Vector arithmetic shift right. -/
  | vsra (d : BitVec 5) (a : BitVec 5) (b : BitVec 5) (q : BitVec 3) (f : BitVec 3)
  /-- VEXP2 (R250). Vector correctly rounded 2^x. -/
  | vexp2 (d : BitVec 5) (a : BitVec 5) (q : BitVec 3) (f : BitVec 5)
  /-- VLOG2 (R250). Vector correctly rounded log2 x. -/
  | vlog2 (d : BitVec 5) (a : BitVec 5) (q : BitVec 3) (f : BitVec 5)
  /-- VRCP (R250). Vector correctly rounded reciprocal. -/
  | vrcp (d : BitVec 5) (a : BitVec 5) (q : BitVec 3) (f : BitVec 5)
  /-- VRSQRT (R250). Vector correctly rounded reciprocal square root. -/
  | vrsqrt (d : BitVec 5) (a : BitVec 5) (q : BitVec 3) (f : BitVec 5)
  /-- VTANH (R250). Vector correctly rounded tanh. -/
  | vtanh (d : BitVec 5) (a : BitVec 5) (q : BitVec 3) (f : BitVec 5)
  /-- VABS_F (R250). Vector floating-point absolute value. -/
  | vabsF (d : BitVec 5) (a : BitVec 5) (q : BitVec 3) (f : BitVec 5)
  /-- VNEG_F (R250). Vector floating-point negation. -/
  | vnegF (d : BitVec 5) (a : BitVec 5) (q : BitVec 3) (f : BitVec 5)
  /-- VCVT (R250). Converts every lane between equal-size formats. -/
  | vcvt (d : BitVec 5) (a : BitVec 5) (sel : BitVec 5) (p : BitVec 2) (f : BitVec 5)
  /-- VWIDEN (R250). Converts one part of the source lanes to wider lanes. -/
  | vwiden (d : BitVec 5) (a : BitVec 5) (sel : BitVec 5) (p : BitVec 2) (f : BitVec 5)
  /-- VNARROW (R250). Converts source lanes into one part of narrower destination lanes. -/
  | vnarrow (d : BitVec 5) (a : BitVec 5) (sel : BitVec 5) (p : BitVec 2) (f : BitVec 5)
  /-- VCMP (R252). Sets predicate bits per element to a comparison result. -/
  | vcmp (d : BitVec 5) (a : BitVec 5) (b : BitVec 5) (q : BitVec 3) (c : BitVec 3) (f : BitVec 5)
  /-- VBOUND (R252). Sets predicate bits where G[a] + i < G[b]. -/
  | vbound (d : BitVec 5) (a : BitVec 5) (b : BitVec 5) (e : BitVec 2)
  /-- QAND (R252). Bitwise AND of predicates. -/
  | qand (d : BitVec 5) (a : BitVec 5) (b : BitVec 5)
  /-- QOR (R252). Bitwise OR of predicates. -/
  | qor (d : BitVec 5) (a : BitVec 5) (b : BitVec 5)
  /-- QXOR (R252). Bitwise XOR of predicates. -/
  | qxor (d : BitVec 5) (a : BitVec 5) (b : BitVec 5)
  /-- QNOT (R252). Bitwise NOT of a predicate. -/
  | qnot (d : BitVec 5) (a : BitVec 5)
  /-- QCNT (R252). Counts active elements of a predicate. -/
  | qcnt (d : BitVec 5) (a : BitVec 5) (e : BitVec 2)
  /-- QFIRST (R252). Writes the index of the lowest active element, or L. -/
  | qfirst (d : BitVec 5) (a : BitVec 5) (e : BitVec 2)
  /-- VMOV (R254). Copies bytes of va to vd under a predicate. -/
  | vmov (d : BitVec 5) (a : BitVec 5) (q : BitVec 3)
  /-- VDUP (R254). Broadcasts G[a] into lanes. -/
  | vdup (d : BitVec 5) (a : BitVec 5) (q : BitVec 3) (e : BitVec 3)
  /-- VGET (R254). Extracts lane G[b] into a g register. -/
  | vget (d : BitVec 5) (a : BitVec 5) (b : BitVec 5) (e : BitVec 3)
  /-- VSET (R254). Inserts G[a] into lane G[b]. -/
  | vset (d : BitVec 5) (a : BitVec 5) (b : BitVec 5) (e : BitVec 3)
  /-- VSEL (R254). Selects bytes of va or vb by a predicate. -/
  | vsel (d : BitVec 5) (a : BitVec 5) (b : BitVec 5) (sel : BitVec 3)
  /-- VPERM (R254). Permutes lanes of va by indices in vb. -/
  | vperm (d : BitVec 5) (a : BitVec 5) (b : BitVec 5) (q : BitVec 3) (e : BitVec 3)
  /-- VZIP_LO (R254). Interleaves the low halves of va and vb. -/
  | vzipLo (d : BitVec 5) (a : BitVec 5) (b : BitVec 5) (q : BitVec 3) (e : BitVec 3)
  /-- VZIP_HI (R254). Interleaves the high halves of va and vb. -/
  | vzipHi (d : BitVec 5) (a : BitVec 5) (b : BitVec 5) (q : BitVec 3) (e : BitVec 3)
  /-- VUNZIP_EVEN (R254). Takes even lanes of the concatenation. -/
  | vunzipEven (d : BitVec 5) (a : BitVec 5) (b : BitVec 5) (q : BitVec 3) (e : BitVec 3)
  /-- VUNZIP_ODD (R254). Takes odd lanes of the concatenation. -/
  | vunzipOdd (d : BitVec 5) (a : BitVec 5) (b : BitVec 5) (q : BitVec 3) (e : BitVec 3)
  /-- VSLIDE_UP (R254). Slides lanes up by G[b]. -/
  | vslideUp (d : BitVec 5) (a : BitVec 5) (b : BitVec 5) (q : BitVec 3) (e : BitVec 3)
  /-- VSLIDE_DN (R254). Slides lanes down by G[b], filling zero. -/
  | vslideDn (d : BitVec 5) (a : BitVec 5) (b : BitVec 5) (q : BitVec 3) (e : BitVec 3)
  /-- VTRN_EVEN (R254). Transposes even lane pairs. -/
  | vtrnEven (d : BitVec 5) (a : BitVec 5) (b : BitVec 5) (q : BitVec 3) (e : BitVec 3)
  /-- VTRN_ODD (R254). Transposes odd lane pairs. -/
  | vtrnOdd (d : BitVec 5) (a : BitVec 5) (b : BitVec 5) (q : BitVec 3) (e : BitVec 3)
  /-- VSUM (R254). Pairwise-tree sum of active lanes into lane 0. -/
  | vsum (d : BitVec 5) (a : BitVec 5) (f : BitVec 5) (q : BitVec 3)
  /-- VMAXR (R254). Tree maximum of active lanes into lane 0. -/
  | vmaxr (d : BitVec 5) (a : BitVec 5) (f : BitVec 5) (q : BitVec 3)
  /-- VMINR (R254). Tree minimum of active lanes into lane 0. -/
  | vminr (d : BitVec 5) (a : BitVec 5) (f : BitVec 5) (q : BitVec 3)
  /-- VSCAN (R254). Left-to-right prefix sum of active lanes. -/
  | vscan (d : BitVec 5) (a : BitVec 5) (f : BitVec 5) (q : BitVec 3)
  /-- VWIDTH (R254). Writes the lane count for an element size. -/
  | vwidth (d : BitVec 5) (e : BitVec 3)
  /-- VLDX (R257). Indexed vector gather load. -/
  | vldx (d : BitVec 5) (a : BitVec 5) (b : BitVec 5) (q : BitVec 3) (z : BitVec 2) (x : BitVec 3)
  /-- VSTX (R257). Indexed vector scatter store. -/
  | vstx (d : BitVec 5) (a : BitVec 5) (b : BitVec 5) (q : BitVec 3) (z : BitVec 2) (x : BitVec 3)
  /-- VLDW (R257). Strided vector load. -/
  | vldw (d : BitVec 5) (a : BitVec 5) (b : BitVec 5) (q : BitVec 3) (z : BitVec 2) (x : BitVec 3)
  /-- VSTW (R257). Strided vector store. -/
  | vstw (d : BitVec 5) (a : BitVec 5) (b : BitVec 5) (q : BitVec 3) (z : BitVec 2) (x : BitVec 3)
  /-- VLDT (R257). Transposing load of eight elements per row into eight registers. -/
  | vldt (d : BitVec 5) (a : BitVec 5) (b : BitVec 5) (q : BitVec 3) (z : BitVec 2) (x : BitVec 3)
  /-- VLDT_TILE (R257). Transposing load from a tile into eight registers. -/
  | vldtTile (d : BitVec 5) (a : BitVec 5) (b : BitVec 5) (q : BitVec 3) (z : BitVec 2)
  /-- VBIND (R260). Binds v28-v31 to a read or write stream on path X. -/
  | vbind (d : BitVec 5) (a : BitVec 5) (k : BitVec 3) (z : BitVec 2)
  /-- VFREE (R260). Unbinds a stream register. -/
  | vfree (d : BitVec 5)
  /-- SND (R334). Sends an active message with payload from g registers. -/
  | snd (a : BitVec 5) (b : BitVec 5) (c : BitVec 3) (p : BitVec 5)
  /-- SNDV (R334). Sends an active message with payload from a vector register. -/
  | sndv (a : BitVec 5) (b : BitVec 5) (c : BitVec 3) (h : BitVec 5)
  /-- SNDZ (R336). NI command sending the 2:4 largest lanes as scatter-adds into a rank's region. -/
  | sndz (a : BitVec 5) (v : BitVec 5) (k : BitVec 3) (f : BitVec 1) (x : BitVec 5)
  /-- LBK (R335). Queues an 80-byte message image in the core's own inbox as loop-back. -/
  | lbk (a : BitVec 5)
  /-- NMC (R337). NI multicast to participants, optionally recorded on the tape. -/
  | nmc (x : BitVec 5) (sel : BitVec 5) (k : BitVec 3) (r : BitVec 1) (h : BitVec 5)
  /-- NGT (R337). NI indexed gather, optionally recorded. -/
  | ngt (x : BitVec 5) (sel : BitVec 5) (k : BitVec 3) (r : BitVec 1) (h : BitVec 5)
  /-- NSC (R337). NI indexed scatter or scatter-add, optionally recorded. -/
  | nsc (x : BitVec 5) (sel : BitVec 5) (k : BitVec 3) (r : BitVec 1) (h : BitVec 5)
  /-- NA2A (R337). NI routed all-to-all of rows, optionally recorded. -/
  | na2a (x : BitVec 5) (sel : BitVec 5) (k : BitVec 3) (r : BitVec 1) (h : BitVec 5)
  /-- COLL (R349). Collective reduction on a configured tree. -/
  | coll (d : BitVec 5) (sel : BitVec 5) (k : BitVec 3) (o : BitVec 2) (t : BitVec 4)
  /-- CCFG (R348). Records a collective tree for the calling rank at its NI. -/
  | ccfg (b : BitVec 5) (t : BitVec 4)
  /-- TREPLAY (R344). Replays a tape entry as its transpose with f32 or A36 accumulation. -/
  | treplay (h : BitVec 5) (b : BitVec 5)
  /-- TFREE (R347). Frees a tape entry and its lists. -/
  | tfree (h : BitVec 5)
  /-- TINFO (R347). Reads eight bytes of a tape header. -/
  | tinfo (d : BitVec 5) (h : BitVec 5) (w : BitVec 3)
  /-- XPOST_TX (R350). Ethernet put from a local buffer to a peer window. -/
  | xpostTx (b : BitVec 5) (k : BitVec 3)
  /-- XPOST_RX (R350). Arms a local receive buffer for one matching message. -/
  | xpostRx (b : BitVec 5) (k : BitVec 3)
  /-- XFETCH (R350). Ethernet get from a peer window into a local buffer. -/
  | xfetch (b : BitVec 5) (k : BitVec 3)
  /-- XPATH (R351). Reads round-trip time, marking and allowance of an entropy path. -/
  | xpath (d : BitVec 5) (e : BitVec 5)
  /-- STV_MAP (R364). Latches and checks an index map and sets STVMAP and STVST. -/
  | stvMap (a : BitVec 5) (k : BitVec 3)
  /-- STV_INIT (R365). Sets the state vector to a basis state. -/
  | stvInit (a : BitVec 5) (k : BitVec 3)
  /-- STV_GATE (R366). Applies a controlled unitary after any needed remaps. -/
  | stvGate (a : BitVec 5) (k : BitVec 3)
  /-- STV_SWAP (R367). Exchanges the positions of two qubits. -/
  | stvSwap (a : BitVec 5) (b : BitVec 5) (k : BitVec 3)
  /-- STV_PROB (R368). Sums squared magnitudes of matching amplitudes in f64. -/
  | stvProb (a : BitVec 5) (b : BitVec 5) (k : BitVec 3) (c : BitVec 5)
  /-- STV_FIX (R369). Zeroes non-matching amplitudes and scales the rest. -/
  | stvFix (a : BitVec 5) (b : BitVec 5) (k : BitVec 3) (c : BitVec 5)
  /-- STV_NORM (R368). Normalises the state vector and writes the old norm. -/
  | stvNorm (a : BitVec 5) (k : BitVec 3)
  /-- STV_AMP (R370). Copies one amplitude to memory. -/
  | stvAmp (a : BitVec 5) (b : BitVec 5) (k : BitVec 3)
  /-- CRR (R377). Reads a control register. -/
  | crr (d : BitVec 5) (c : BitVec 11)
  /-- CRW (R377). Writes a control register. -/
  | crw (a : BitVec 5) (c : BitVec 11)
  /-- CRS (R377). Sets bits of a control register, returning the old value. -/
  | crs (d : BitVec 5) (a : BitVec 5) (c : BitVec 11)
  /-- CRC (R377). Clears bits of a control register, returning the old value. -/
  | crc (d : BitVec 5) (a : BitVec 5) (c : BitVec 11)
  /-- TRAP (R382). Traps SYSCALL with the immediate as outcome. -/
  | trap (n : BitVec 8)
  /-- BRK (R382). Traps BREAK with the immediate as outcome. -/
  | brk (n : BitVec 8)
  /-- ERET (R383). Returns from a trap to EPC and may re-form an alloy. -/
  | eret
  /-- IDLE (R384). Stalls until a word differs from G[b]. -/
  | idle (a : BitVec 3) (sel : BitVec 3) (b : BitVec 5)
  /-- SAFE (R385). Safe point at which a requested pre-emption stops the task. -/
  | safe (n : BitVec 8)
  /-- HALT (R386). Stops the slot with registers kept and sends a fault message. -/
  | halt
  /-- TLBI (R39). Invalidates translations of an address range at a scope. -/
  | tlbi (c : BitVec 5) (sel : BitVec 3) (z : BitVec 4) (a : BitVec 3)
  /-- TLBI_CTX (R39). Invalidates all translations of a context at a scope. -/
  | tlbiCtx (c : BitVec 5) (sel : BitVec 3)
  /-- TLBSYNC (R42). Waits for acknowledgement of earlier tlbi operations of the scope. -/
  | tlbsync (sel : BitVec 3)
  /-- ALLOY (R394). Starts forming an alloy of 2, 4 or 8 cores. -/
  | alloy (d : BitVec 5) (n : BitVec 2)
  /-- PART (R396). Gathers registers to the leader and ends the alloy. -/
  | part
  /-- ASTAT (R397). Writes the current alloy size and member index. -/
  | astat (d : BitVec 5)
  /-- TRC (R389). Hands a trace record to the cluster trace unit. -/
  | trc (a : BitVec 5) (t : BitVec 11)
  /-- PCM_EN (R389). Enables PC-match entry e. -/
  | pcmEn (e : BitVec 4)
  /-- PCM_DIS (R389). Disables PC-match entry e. -/
  | pcmDis (e : BitVec 4)
  /-- PCM_RET (R389). Returns from the shadow context to the matched instruction. -/
  | pcmRet
  /-- ADD (R224). Writes G[d] the 64-bit wrapping sum of G[a] and G[b]. -/
  | add (d : BitVec 5) (a : BitVec 5) (b : BitVec 5)
  /-- SUB (R224). Writes G[d] the 64-bit wrapping difference G[a] minus G[b]. -/
  | sub (d : BitVec 5) (a : BitVec 5) (b : BitVec 5)
  /-- AND (R224). Writes G[d] the bitwise AND of G[a] and G[b]. -/
  | and (d : BitVec 5) (a : BitVec 5) (b : BitVec 5)
  /-- OR (R224). Writes G[d] the bitwise OR of G[a] and G[b]. -/
  | or (d : BitVec 5) (a : BitVec 5) (b : BitVec 5)
  /-- XOR (R224). Writes G[d] the bitwise XOR of G[a] and G[b]. -/
  | xor (d : BitVec 5) (a : BitVec 5) (b : BitVec 5)
  /-- ANDN (R224). Writes G[d] G[a] AND NOT G[b]. -/
  | andn (d : BitVec 5) (a : BitVec 5) (b : BitVec 5)
  /-- ORN (R224). Writes G[d] G[a] OR NOT G[b]. -/
  | orn (d : BitVec 5) (a : BitVec 5) (b : BitVec 5)
  /-- SLL (R224). Shifts G[a] left by G[b][5:0]. -/
  | sll (d : BitVec 5) (a : BitVec 5) (b : BitVec 5)
  /-- SRL (R224). Shifts G[a] logically right by G[b][5:0]. -/
  | srl (d : BitVec 5) (a : BitVec 5) (b : BitVec 5)
  /-- SRA (R224). Shifts G[a] arithmetically right by G[b][5:0]. -/
  | sra (d : BitVec 5) (a : BitVec 5) (b : BitVec 5)
  /-- ROL (R224). Rotates G[a] left by G[b][5:0]. -/
  | rol (d : BitVec 5) (a : BitVec 5) (b : BitVec 5)
  /-- ROR (R224). Rotates G[a] right by G[b][5:0]. -/
  | ror (d : BitVec 5) (a : BitVec 5) (b : BitVec 5)
  /-- SLT (R224). Writes 1 when G[a] is less than G[b] signed, else 0. -/
  | slt (d : BitVec 5) (a : BitVec 5) (b : BitVec 5)
  /-- SLTN (R224). Writes 1 when G[a] is less than G[b] unsigned, else 0. -/
  | sltn (d : BitVec 5) (a : BitVec 5) (b : BitVec 5)
  /-- MIN (R224). Writes the signed minimum of G[a] and G[b]. -/
  | min (d : BitVec 5) (a : BitVec 5) (b : BitVec 5)
  /-- MAX (R224). Writes the signed maximum of G[a] and G[b]. -/
  | max (d : BitVec 5) (a : BitVec 5) (b : BitVec 5)
  /-- MINN (R224). Writes the unsigned minimum of G[a] and G[b]. -/
  | minn (d : BitVec 5) (a : BitVec 5) (b : BitVec 5)
  /-- MAXN (R224). Writes the unsigned maximum of G[a] and G[b]. -/
  | maxn (d : BitVec 5) (a : BitVec 5) (b : BitVec 5)
  /-- CLZ (R224). Counts leading zero bits of G[a]. -/
  | clz (d : BitVec 5) (a : BitVec 5)
  /-- CTZ (R224). Counts trailing zero bits of G[a]. -/
  | ctz (d : BitVec 5) (a : BitVec 5)
  /-- POP (R224). Counts one bits of G[a]. -/
  | pop (d : BitVec 5) (a : BitVec 5)
  /-- SEXT_8 (R224). Sign-extends G[a][7:0]. -/
  | sext8 (d : BitVec 5) (a : BitVec 5)
  /-- SEXT_16 (R224). Sign-extends G[a][15:0]. -/
  | sext16 (d : BitVec 5) (a : BitVec 5)
  /-- SEXT_32 (R224). Sign-extends G[a][31:0]. -/
  | sext32 (d : BitVec 5) (a : BitVec 5)
  /-- ZEXT_8 (R224). Zero-extends G[a][7:0]. -/
  | zext8 (d : BitVec 5) (a : BitVec 5)
  /-- ZEXT_16 (R224). Zero-extends G[a][15:0]. -/
  | zext16 (d : BitVec 5) (a : BitVec 5)
  /-- ZEXT_32 (R224). Zero-extends G[a][31:0]. -/
  | zext32 (d : BitVec 5) (a : BitVec 5)
  /-- BSWAP (R224). Reverses the eight bytes of G[a]. -/
  | bswap (d : BitVec 5) (a : BitVec 5)
  /-- ADDI (R225). Adds a sign-extended 16-bit immediate to G[a]. -/
  | addi (d : BitVec 5) (a : BitVec 5) (imm : BitVec 16)
  /-- ANDI (R225). ANDs G[a] with a zero-extended 16-bit immediate. -/
  | andi (d : BitVec 5) (a : BitVec 5) (imm : BitVec 16)
  /-- ORI (R225). ORs G[a] with a zero-extended 16-bit immediate. -/
  | ori (d : BitVec 5) (a : BitVec 5) (imm : BitVec 16)
  /-- XORI (R225). XORs G[a] with a zero-extended 16-bit immediate. -/
  | xori (d : BitVec 5) (a : BitVec 5) (imm : BitVec 16)
  /-- SLLI (R227). Shifts G[a] left by an immediate. -/
  | slli (d : BitVec 5) (a : BitVec 5) (h : BitVec 6)
  /-- SRLI (R227). Shifts G[a] logically right by an immediate. -/
  | srli (d : BitVec 5) (a : BitVec 5) (h : BitVec 6)
  /-- SRAI (R227). Shifts G[a] arithmetically right by an immediate. -/
  | srai (d : BitVec 5) (a : BitVec 5) (h : BitVec 6)
  /-- SLTI (R227). Writes 1 when G[a] is below a sign-extended 12-bit immediate, signed. -/
  | slti (d : BitVec 5) (a : BitVec 5) (imm : BitVec 12)
  /-- SLTNI (R227). Writes 1 when G[a] is below a sign-extended 12-bit immediate, unsigned. -/
  | sltni (d : BitVec 5) (a : BitVec 5) (imm : BitVec 12)
  /-- MUL (R229). Writes the low 64 bits of the product. -/
  | mul (d : BitVec 5) (a : BitVec 5) (b : BitVec 5)
  /-- MULH (R229). Writes the high 64 bits of the signed product. -/
  | mulh (d : BitVec 5) (a : BitVec 5) (b : BitVec 5)
  /-- MULHN (R229). Writes the high 64 bits of the unsigned product. -/
  | mulhn (d : BitVec 5) (a : BitVec 5) (b : BitVec 5)
  /-- DIV (R229). Writes the signed quotient rounded toward zero, with fixed borderline results. -/
  | div (d : BitVec 5) (a : BitVec 5) (b : BitVec 5)
  /-- DIVN (R229). Writes the unsigned quotient. -/
  | divn (d : BitVec 5) (a : BitVec 5) (b : BitVec 5)
  /-- REM (R229). Writes the signed remainder. -/
  | rem (d : BitVec 5) (a : BitVec 5) (b : BitVec 5)
  /-- REMN (R229). Writes the unsigned remainder. -/
  | remn (d : BitVec 5) (a : BitVec 5) (b : BitVec 5)
  /-- PADD (R231). Adds a sign-extended integer to an 80-bit pointer modulo 2^80. -/
  | padd (d : BitVec 5) (a : BitVec 5) (b : BitVec 5)
  /-- PSET (R231). Forms a pointer from G[a] and G[b][15:0]. -/
  | pset (d : BitVec 5) (a : BitVec 5) (b : BitVec 5)
  /-- PGET (R231). Writes the low 64 bits of a pointer. -/
  | pget (d : BitVec 5) (a : BitVec 5)
  /-- PGETH (R231). Writes the high 16 bits of a pointer, zero-extended. -/
  | pgeth (d : BitVec 5) (a : BitVec 5)
  /-- PDIFF (R231). Writes the low 64 bits of the difference of two pointers. -/
  | pdiff (d : BitVec 5) (a : BitVec 5) (b : BitVec 5)
  /-- UNDEFINED_WORD (R203). Issue of a word that is not an instruction traps ZERO_WORD or ILLEGAL. -/
  | undefinedWord (w : BitVec 32)
  /-- INVALIDATE (R39). A unit receiving an invalidation drops matching entries, restarts walks and acknowledges. -/
  | invalidate (inv : Nat)
  /-- INVALIDATE_ACK (R42). Arrival of a unit's acknowledgement of a tlbi, which may end a tlbsync wait. -/
  | invalidateAck (inv : Nat)
  /-- HOME_PERFORM (R74). A read, write or atomic is performed at its home controller and answered. -/
  | homePerform (req : Nat)
  /-- REMOTE_REQUEST (R79). A request from another module is served at the target under the requester's context. -/
  | remoteRequest (req : Nat)
  /-- REMOTE_REPLY (R169). A remote reply is written into the parking record and a continuation is sent. -/
  | remoteReply (req : Nat)
  /-- REMOTE_TIMEOUT (R82). A remote transaction with no reply within TMO ends NO_REPLY. -/
  | remoteTimeout (req : Nat)
  /-- STORE_ACK (R86). A target's acknowledgement or failure of a posted store reaches the NI. -/
  | storeAck (req : Nat)
  /-- MESSAGE_ARRIVAL (R171). A message arrives at an inbox and is queued, diverted, redirected or refused. -/
  | messageArrival (msg : Nat)
  /-- MESSAGE_ACK (R164). An inbox acknowledgement releases the sender's held later message. -/
  | messageAck (msg : Nat)
  /-- MESSAGE_RETRY (R171). Every 1 us the sending NI retries a refused message. -/
  | messageRetry (msg : Nat)
  /-- MESSAGE_SELECT (R159). A free slot takes an eligible message by channel, sender and age. -/
  | messageSelect (loc : Nat)
  /-- MESSAGE_AGING (R160). Each 2^16 ck of age raises a queued message's channel by one. -/
  | messageAging (loc : Nat)
  /-- HOTNESS_DECAY (R91). Every 2^(n-1) ms every hotness counter shifts right by one. -/
  | hotnessDecay (die : Nat)
  /-- HOTCFG_CLR (R91). Writing CLR starts zeroing the hotness table. -/
  | hotcfgClr (die : Nat)
  /-- HOTCFG_CLEAR_DONE (R91). Clearing of the hotness table ends and BUSY falls. -/
  | hotcfgClearDone (die : Nat)
  /-- MIG_START (R94). START checks the slot's frames and begins copying. -/
  | migStart (die : Nat) (slot : Nat)
  /-- MIG_COMMIT (R96). COMMIT makes the destination authoritative in one instant and starts forwarding. -/
  | migCommit (die : Nat) (slot : Nat)
  /-- MIG_RELEASE (R94). RELEASE drops forwarding and returns the slot to idle. -/
  | migRelease (die : Nat) (slot : Nat)
  /-- MIG_ABORT (R94). ABORT abandons a copying or copied migration. -/
  | migAbort (die : Nat) (slot : Nat)
  /-- MIG_GRANULE_COPIED (R94). A 4 KiB granule is written at the destination and DONE4K advances. -/
  | migGranuleCopied (die : Nat) (slot : Nat)
  /-- MIG_COPY_ERROR (R94). An unreachable destination or source error returns the slot to idle with ERR. -/
  | migCopyError (die : Nat) (slot : Nat) (unreachable : Bool)
  /-- PARKCFG_APPLY (R67). A pending PARKCFG write takes effect when no slot is occupied. -/
  | parkcfgApply (cl : Nat)
  /-- EXB_WRITE (R56). A write to EXB waits for earlier stores, then refetches under the new boundary. -/
  | exbWrite (loc : Nat) (value : BitVec 64)
  /-- CTXALW_WRITE (R19). A write to CTXALW takes effect from the hallmark core and is dropped and counted otherwise. -/
  | ctxalwWrite (loc : Nat) (value : BitVec 64)
  /-- EPCFG_WRITE (R412). A write of EPCFG checks CTX against CTXALW and latches the range. -/
  | epcfgWrite (die : Nat) (loc : Nat) (value : BitVec 64)
  /-- ENGINE_COMPLETION (R117). An engine command completes and its counter's completed prefix advances. -/
  | engineCompletion (cmd : Nat)
  /-- BARRIER_ARRIVAL (R283). A command arrives at its completion barrier object by one atomic. -/
  | barrierArrival (cmd : Nat)
  /-- TILE_FILL_COMPLETE (R59). The last byte of a fill performs and the tile turns ready, or empty on fault. -/
  | tileFillComplete (cmd : Nat)
  /-- TILE_DRAIN_COMPLETE (R59). The last byte of a drain performs and the tile turns ready or empty. -/
  | tileDrainComplete (cmd : Nat)
  /-- TSWAP_EXCHANGE (R296). Both partners have accepted and the tiles are exchanged. -/
  | tswapExchange (cmd : Nat)
  /-- TSWAP_TIMEOUT (R296). No partner within TMO returns both tiles to ready with a fault record. -/
  | tswapTimeout (cmd : Nat)
  /-- PREEMPT_REQUEST (R174). Writing PRECTL.REQ requests or withdraws pre-emption of a slot. -/
  | preemptRequest (loc : Nat) (slot : Nat)
  /-- FORCED_STOP (R177). SAFEDL expiry stops the thread, writes a full record and reports SAFE_DEADLINE. -/
  | forcedStop (loc : Nat) (slot : Nat)
  /-- PARKRES (R174). Writing PARKRES marks a slot occupied and queues its continuation. -/
  | parkres (loc : Nat) (park : Nat)
  /-- SLOTCTL_RESUME (R387). RESUME restarts a stopped slot at PC. -/
  | slotctlResume (loc : Nat) (slot : Nat)
  /-- SLOTCTL_DISCARD (R387). DISCARD ends the slot's task as done does, without waiting. -/
  | slotctlDiscard (loc : Nat) (slot : Nat)
  /-- IBXPOP (R170). Writing IBXPOP removes the oldest diverted message. -/
  | ibxpop (loc : Nat)
  /-- IBX_END (R170). Writing END ends diverted mode when no diverted message remains. -/
  | ibxEnd (loc : Nat)
  /-- LAUNCH (R167). The dispatcher accepts a launch message and queues or refuses it. -/
  | launch (die : Nat)
  /-- LAUNCH_DISTRIBUTE (R167). The dispatcher places a pending launch and sends one message per rank. -/
  | launchDistribute (die : Nat)
  /-- HELD_LAUNCH_REREAD (R167). The dispatcher re-reads each held queue head at most every 256 ck. -/
  | heldLaunchReread (die : Nat)
  /-- FREE_SLOT_PUBLISH (R172). Every 10 us each dispatcher publishes its free task slots. -/
  | freeSlotPublish (die : Nat)
  /-- TEAM_MIGRATION (R173). An overloaded die moves one rank to an advertising die. -/
  | teamMigration (die : Nat) (target : Nat) (team : Nat) (rank : Nat)
  /-- ALLOY_FORMED (R394). The group falls free, registers are distributed and the alloy stands. -/
  | alloyFormed (loc : Nat) (slot : Nat)
  /-- ALLOY_TIMEOUT (R394). ALTMO expires before the group falls free; redirect is undone with status 1. -/
  | alloyTimeout (loc : Nat) (slot : Nat)
  /-- ALLOY_MEMBER_FREE (R396). A parted member is freed once its load-store queue is empty. -/
  | alloyMemberFree (loc : Nat)
  /-- STREAM_CHUNK_ARRIVAL (R261). A read stream's chunk arrives or a write stream's chunk performs. -/
  | streamChunkArrival (loc : Nat) (slot : Nat) (reg : Nat)
  /-- DISPATCH_SERVE (R161). The compute unit starts the next command of a dispatch queue round-robin. -/
  | dispatchServe (cl : Nat) (unit : Nat)
  /-- MX_SEND_ARRIVAL (R327). A sent matrix command arrives and is checked against MXCAPCFG. -/
  | mxSendArrival (cmd : Nat)
  /-- SWAGE_COMMAND_START (R360). The coordinating engine starts the next swage command on a map. -/
  | swageCommandStart (cmd : Nat)
  /-- COLL_CONTRIBUTION (R349). A child's node value arrives and is combined. -/
  | collContribution (cmd : Nat)
  /-- COLL_TIMEOUT (R349). A disagreeing tree times out and members receive fault records. -/
  | collTimeout (cmd : Nat)
  /-- SNDZ_ARRIVAL (R336). The receiving NI performs the selected lanes' additions. -/
  | sndzArrival (cmd : Nat)
  /-- ETH_PACKET_ARRIVAL (R413). An arriving put or get is placed in a window or a matched receive, or refused. -/
  | ethPacketArrival (die : Nat) (msg : EthMessage) (get : Bool) (key : BitVec 64) (roff : BitVec 64) (len : Nat) (off : Nat) (data : List (BitVec 8))
  /-- ETH_TIMEOUT (R350). A peer not responding within TMO leaves a fault record. -/
  | ethTimeout (cmd : Nat)
  /-- HOST_BAR0_WRITE (R414). A host write to BAR 0 sends a message to a dispatcher or is dropped. -/
  | hostBar0Write (module : Nat) (off : Nat) (data : List (BitVec 8))
  /-- FLIT_RECEIVE (R405). A flit is checked, accepted in order or discarded with NAK. -/
  | flitReceive (module : Nat) (port : Nat) (seq : BitVec 12) (rest : FlitRest) (good : Bool)
  /-- NAK_RECEIVE (R405). A sender receiving NAK replays from the next sequence. -/
  | nakReceive (module : Nat) (port : Nat) (seq : BitVec 12)
  /-- ACK_TIMEOUT (R405). No ACK within the timeout replays from the oldest unacknowledged flit. -/
  | ackTimeout (module : Nat) (port : Nat)
  /-- LANE_FAILURE (R406). A lane fails and the link erases it, retrains narrower or goes down. -/
  | laneFailure (module : Nat) (port : Nat) (lane : Nat)
  /-- RETRAIN_COMPLETE (R407). A retrain ends and unacknowledged flits replay at the new width. -/
  | retrainComplete (module : Nat) (port : Nat)
  /-- DECLARED_UNREACHABLE (R403). No route to a module for 1 ms declares it unreachable. -/
  | declaredUnreachable (module : Nat)
  /-- MODULE_REJOIN (R40). A rejoining module drops all TLB and walk-cache entries before carrying traffic. -/
  | moduleRejoin (module : Nat)
  /-- HEATER_RETUNE (R409). Every 100 us the bench firmware retunes every ring heater. -/
  | heaterRetune (module : Nat) (port : Nat) (lane : Nat) (saturated : Bool)
  /-- SPARE_TUNED (R409). The spare ring locks and the lane rejoins at a flit boundary. -/
  | spareTuned (module : Nat) (port : Nat)
  /-- OCS_ANNOUNCE (R410). A circuit-switch reconfiguration is announced and senders quiesce. -/
  | ocsAnnounce (module : Nat) (port : Nat)
  /-- OCS_QUIESCED (R410). All drain markers are acknowledged and the link goes dark. -/
  | ocsQuiesced (module : Nat) (port : Nat)
  /-- OCS_RELOCK (R410). Rings retune and the link trains after the dark interval. -/
  | ocsRelock (module : Nat) (port : Nat)
  /-- OCS_TABLE_SWAP (R410). Each router replaces its routing table in one step. -/
  | ocsTableSwap (module : Nat) (port : Nat)
  /-- OCS_DARK_TIMEOUT (R410). A dark interval beyond 100 ms ends the announcement. -/
  | ocsDarkTimeout (module : Nat) (port : Nat)
  /-- ASSIGN (R420). Mailbox ASSIGN assigns a context a key slot and valid entry. -/
  | assign (module : Nat)
  /-- RETIRE (R420). Mailbox RETIRE invalidates a context and destroys its key. -/
  | retire (module : Nat)
  /-- SWITCH (R420). Mailbox SWITCH spills tape headers and clears stores, or reverses it. -/
  | switch (module : Nat)
  /-- QUOTE (R422). Mailbox QUOTE writes a signed quote. -/
  | quote (module : Nat)
  /-- HEALTH (R421). Mailbox HEALTH writes a signed health report. -/
  | health (module : Nat)
  /-- MODULE_RESET (R417). Reset clears stores and boots the hallmark and bench firmware. -/
  | moduleReset (module : Nat)
  /-- SRAM_SCRUB (R423). Every 10 ms on-chip stores are scrubbed. -/
  | sramScrub (die : Nat)
  /-- HBM_PATROL_SCRUB (R423). Every 24 h HBM is patrol-scrubbed. -/
  | hbmPatrolScrub (die : Nat)
  /-- REGISTER_PARITY_ERROR (R423). A register parity error re-issues from the shadow copy or stops the slot. -/
  | registerParityError (loc : Nat) (slot : Nat) (hard : Bool)
  /-- UNIT_FAILURE (R426). A failed core, cluster or die is stopped and its threads end. -/
  | unitFailure (loc : Nat) (kind : Nat)
  /-- ACCT_BOUNDARY (R431). At each assay boundary link counts are snapshotted to a record or skipped. -/
  | acctBoundary (die : Nat)
  /-- TRACE_SAMPLE (R433). Every 2^SPER ck a sample record is written for each running slot. -/
  | traceSample (cl : Nat)
  /-- TRCPTR_WRITE (R432). Any write to TRCPTR zeroes NEXT and DROPS. -/
  | trcptrWrite (cl : Nat)
  /-- IDLE_RECHECK (R384). A waiting idle re-reads its word after a write or every 256 ck. -/
  | idleRecheck (loc : Nat) (slot : Nat)
  /-- REGISTER_WRITE (R436). A write to a register with no row of its own, checked by R12, size and privilege. -/
  | registerWrite (loc : Nat) (user : Bool) (pa : BitVec 64) (value : BitVec 64)
  /-- KEPT_COPY_DROPPED (R210). A control block copy kept by an engine or dispatcher is dropped once 1 ms has passed since it was read from memory. -/
  | keptCopyDropped (loc : Nat)
  /-- HBM_CHANNEL_RETIRED (R426). An HBM channel is found failed and retired, so its units fault ACCESS 0x10 and HBMRET rises until the next reset re-forms the interleave. -/
  | hbmChannelRetired (die : Nat) (chan : Nat)
deriving DecidableEq, Repr

end Sys2Proof
end

