-- ==== Sys2Proof/WellFormed.lean ====
section
/-! DEFINITION. Which instruction terms name registers that exist (R196, R197) and stand in a word of the table. -/

namespace Sys2Proof

/-- The row has an encoding of its own (R199-R203); the other rows are steps of the part. -/
def Instr.encoded : Instr → Bool
  | .movi _ _ _ _ => true
  | .movk _ _ _ => true
  | .fadd _ _ _ _ _ => true
  | .fsub _ _ _ _ _ => true
  | .fmul _ _ _ _ _ => true
  | .fdiv _ _ _ _ _ => true
  | .fsqrt _ _ _ _ => true
  | .fmac _ _ _ _ _ => true
  | .fmin _ _ _ _ => true
  | .fmax _ _ _ _ => true
  | .fcmp _ _ _ _ _ => true
  | .fcvt _ _ _ _ _ => true
  | .fclass _ _ _ => true
  | .beq _ _ _ => true
  | .bne _ _ _ => true
  | .blt _ _ _ => true
  | .bge _ _ _ => true
  | .bltn _ _ _ => true
  | .bgen _ _ _ => true
  | .j _ => true
  | .call _ => true
  | .jr _ => true
  | .callr _ => true
  | .ret => true
  | .ldN8 _ _ _ _ _ => true
  | .ldI8 _ _ _ _ _ => true
  | .ldN16 _ _ _ _ _ => true
  | .ldI16 _ _ _ _ _ => true
  | .ldN32 _ _ _ _ _ => true
  | .ldI32 _ _ _ _ _ => true
  | .ldI64 _ _ _ _ _ => true
  | .ldp _ _ _ _ _ => true
  | .st8 _ _ _ _ _ => true
  | .st16 _ _ _ _ _ => true
  | .st32 _ _ _ _ _ => true
  | .st64 _ _ _ _ _ => true
  | .stp _ _ _ _ _ => true
  | .vld _ _ _ _ _ => true
  | .vst _ _ _ _ _ => true
  | .lda _ _ _ _ _ => true
  | .stl _ _ _ _ _ => true
  | .amoAdd _ _ _ _ _ => true
  | .amoAnd _ _ _ _ _ => true
  | .amoOr _ _ _ _ _ => true
  | .amoXor _ _ _ _ _ => true
  | .amoMin _ _ _ _ _ => true
  | .amoMax _ _ _ _ _ => true
  | .amoMinn _ _ _ _ _ => true
  | .amoMaxn _ _ _ _ _ => true
  | .amoSwap _ _ _ _ _ => true
  | .cas _ _ _ _ _ => true
  | .cas2 _ _ _ _ => true
  | .famoAdd _ _ _ _ _ => true
  | .fence _ _ _ => true
  | .xfence _ _ _ => true
  | .wait _ _ _ _ _ => true
  | .waitkImm _ _ _ => true
  | .waitkReg _ _ => true
  | .waitbImm _ _ _ => true
  | .waitbReg _ _ => true
  | .kset _ _ => true
  | .kget _ _ => true
  | .trig _ _ _ => true
  | .untrig _ _ => true
  | .bmov _ _ _ => true
  | .bset _ _ _ => true
  | .rpt _ _ => true
  | .cpCopy _ _ _ => true
  | .cpFill _ _ _ => true
  | .cpRows _ _ _ _ => true
  | .cpScat _ _ _ _ => true
  | .tcfg _ _ _ => true
  | .tdef _ _ _ => true
  | .tfill _ _ _ _ _ => true
  | .tdrain _ _ _ _ _ => true
  | .trel _ => true
  | .tstat _ _ => true
  | .tswap _ _ _ => true
  | .join _ _ _ => true
  | .leave _ => true
  | .gbar _ => true
  | .spawn _ _ => true
  | .tid _ _ => true
  | .done => true
  | .mxMac _ _ _ _ _ _ _ _ => true
  | .mxMacb _ _ _ _ _ _ _ _ => true
  | .mxZero _ _ => true
  | .mxLd _ _ _ => true
  | .mxSt _ _ _ => true
  | .mxHand _ _ => true
  | .mxRd _ _ _ => true
  | .mxProg _ => true
  | .mxProgClr _ _ => true
  | .mxSend _ _ _ => true
  | .etw _ _ _ _ => true
  | .etr _ _ _ _ => true
  | .vaddF _ _ _ _ _ => true
  | .vsubF _ _ _ _ _ => true
  | .vmulF _ _ _ _ _ => true
  | .vfma _ _ _ _ _ => true
  | .vminF _ _ _ _ _ => true
  | .vmaxF _ _ _ _ _ => true
  | .vdiv _ _ _ _ _ => true
  | .vsqrt _ _ _ _ => true
  | .vaddI _ _ _ _ _ => true
  | .vsubI _ _ _ _ _ => true
  | .vmulI _ _ _ _ _ => true
  | .vminI _ _ _ _ _ => true
  | .vmaxI _ _ _ _ _ => true
  | .vabsI _ _ _ _ => true
  | .vnegI _ _ _ _ => true
  | .vand _ _ _ _ _ => true
  | .vor _ _ _ _ _ => true
  | .vxor _ _ _ _ _ => true
  | .vshl _ _ _ _ _ => true
  | .vshr _ _ _ _ _ => true
  | .vsra _ _ _ _ _ => true
  | .vexp2 _ _ _ _ => true
  | .vlog2 _ _ _ _ => true
  | .vrcp _ _ _ _ => true
  | .vrsqrt _ _ _ _ => true
  | .vtanh _ _ _ _ => true
  | .vabsF _ _ _ _ => true
  | .vnegF _ _ _ _ => true
  | .vcvt _ _ _ _ _ => true
  | .vwiden _ _ _ _ _ => true
  | .vnarrow _ _ _ _ _ => true
  | .vcmp _ _ _ _ _ _ => true
  | .vbound _ _ _ _ => true
  | .qand _ _ _ => true
  | .qor _ _ _ => true
  | .qxor _ _ _ => true
  | .qnot _ _ => true
  | .qcnt _ _ _ => true
  | .qfirst _ _ _ => true
  | .vmov _ _ _ => true
  | .vdup _ _ _ _ => true
  | .vget _ _ _ _ => true
  | .vset _ _ _ _ => true
  | .vsel _ _ _ _ => true
  | .vperm _ _ _ _ _ => true
  | .vzipLo _ _ _ _ _ => true
  | .vzipHi _ _ _ _ _ => true
  | .vunzipEven _ _ _ _ _ => true
  | .vunzipOdd _ _ _ _ _ => true
  | .vslideUp _ _ _ _ _ => true
  | .vslideDn _ _ _ _ _ => true
  | .vtrnEven _ _ _ _ _ => true
  | .vtrnOdd _ _ _ _ _ => true
  | .vsum _ _ _ _ => true
  | .vmaxr _ _ _ _ => true
  | .vminr _ _ _ _ => true
  | .vscan _ _ _ _ => true
  | .vwidth _ _ => true
  | .vldx _ _ _ _ _ _ => true
  | .vstx _ _ _ _ _ _ => true
  | .vldw _ _ _ _ _ _ => true
  | .vstw _ _ _ _ _ _ => true
  | .vldt _ _ _ _ _ _ => true
  | .vldtTile _ _ _ _ _ => true
  | .vbind _ _ _ _ => true
  | .vfree _ => true
  | .snd _ _ _ _ => true
  | .sndv _ _ _ _ => true
  | .sndz _ _ _ _ _ => true
  | .lbk _ => true
  | .nmc _ _ _ _ _ => true
  | .ngt _ _ _ _ _ => true
  | .nsc _ _ _ _ _ => true
  | .na2a _ _ _ _ _ => true
  | .coll _ _ _ _ _ => true
  | .ccfg _ _ => true
  | .treplay _ _ => true
  | .tfree _ => true
  | .tinfo _ _ _ => true
  | .xpostTx _ _ => true
  | .xpostRx _ _ => true
  | .xfetch _ _ => true
  | .xpath _ _ => true
  | .stvMap _ _ => true
  | .stvInit _ _ => true
  | .stvGate _ _ => true
  | .stvSwap _ _ _ => true
  | .stvProb _ _ _ _ => true
  | .stvFix _ _ _ _ => true
  | .stvNorm _ _ => true
  | .stvAmp _ _ _ => true
  | .crr _ _ => true
  | .crw _ _ => true
  | .crs _ _ _ => true
  | .crc _ _ _ => true
  | .trap _ => true
  | .brk _ => true
  | .eret => true
  | .idle _ _ _ => true
  | .safe _ => true
  | .halt => true
  | .tlbi _ _ _ _ => true
  | .tlbiCtx _ _ => true
  | .tlbsync _ => true
  | .alloy _ _ => true
  | .part => true
  | .astat _ => true
  | .trc _ _ => true
  | .pcmEn _ => true
  | .pcmDis _ => true
  | .pcmRet => true
  | .add _ _ _ => true
  | .sub _ _ _ => true
  | .and _ _ _ => true
  | .or _ _ _ => true
  | .xor _ _ _ => true
  | .andn _ _ _ => true
  | .orn _ _ _ => true
  | .sll _ _ _ => true
  | .srl _ _ _ => true
  | .sra _ _ _ => true
  | .rol _ _ _ => true
  | .ror _ _ _ => true
  | .slt _ _ _ => true
  | .sltn _ _ _ => true
  | .min _ _ _ => true
  | .max _ _ _ => true
  | .minn _ _ _ => true
  | .maxn _ _ _ => true
  | .clz _ _ => true
  | .ctz _ _ => true
  | .pop _ _ => true
  | .sext8 _ _ => true
  | .sext16 _ _ => true
  | .sext32 _ _ => true
  | .zext8 _ _ => true
  | .zext16 _ _ => true
  | .zext32 _ _ => true
  | .bswap _ _ => true
  | .addi _ _ _ => true
  | .andi _ _ _ => true
  | .ori _ _ _ => true
  | .xori _ _ _ => true
  | .slli _ _ _ => true
  | .srli _ _ _ => true
  | .srai _ _ _ => true
  | .slti _ _ _ => true
  | .sltni _ _ _ => true
  | .mul _ _ _ => true
  | .mulh _ _ _ => true
  | .mulhn _ _ _ => true
  | .div _ _ _ => true
  | .divn _ _ _ => true
  | .rem _ _ _ => true
  | .remn _ _ _ => true
  | .padd _ _ _ => true
  | .pset _ _ _ => true
  | .pget _ _ => true
  | .pgeth _ _ => true
  | .pdiff _ _ _ => true
  | .undefinedWord _ => false
  | .invalidate _ => false
  | .invalidateAck _ => false
  | .homePerform _ => false
  | .remoteRequest _ => false
  | .remoteReply _ => false
  | .remoteTimeout _ => false
  | .storeAck _ => false
  | .messageArrival _ => false
  | .messageAck _ => false
  | .messageRetry _ => false
  | .messageSelect _ => false
  | .messageAging _ => false
  | .hotnessDecay _ => false
  | .hotcfgClr _ => false
  | .hotcfgClearDone _ => false
  | .migStart _ _ => false
  | .migCommit _ _ => false
  | .migRelease _ _ => false
  | .migAbort _ _ => false
  | .migGranuleCopied _ _ => false
  | .migCopyError _ _ _ => false
  | .parkcfgApply _ => false
  | .exbWrite _ _ => false
  | .ctxalwWrite _ _ => false
  | .epcfgWrite _ _ _ => false
  | .engineCompletion _ => false
  | .barrierArrival _ => false
  | .tileFillComplete _ => false
  | .tileDrainComplete _ => false
  | .tswapExchange _ => false
  | .tswapTimeout _ => false
  | .preemptRequest _ _ => false
  | .forcedStop _ _ => false
  | .parkres _ _ => false
  | .slotctlResume _ _ => false
  | .slotctlDiscard _ _ => false
  | .ibxpop _ => false
  | .ibxEnd _ => false
  | .launch _ => false
  | .launchDistribute _ => false
  | .heldLaunchReread _ => false
  | .freeSlotPublish _ => false
  | .teamMigration _ _ _ _ => false
  | .alloyFormed _ _ => false
  | .alloyTimeout _ _ => false
  | .alloyMemberFree _ => false
  | .streamChunkArrival _ _ _ => false
  | .dispatchServe _ _ => false
  | .mxSendArrival _ => false
  | .swageCommandStart _ => false
  | .collContribution _ => false
  | .collTimeout _ => false
  | .sndzArrival _ => false
  | .ethPacketArrival _ _ _ _ _ _ _ _ => false
  | .ethTimeout _ => false
  | .hostBar0Write _ _ _ => false
  | .flitReceive _ _ _ _ _ => false
  | .nakReceive _ _ _ => false
  | .ackTimeout _ _ => false
  | .laneFailure _ _ _ => false
  | .retrainComplete _ _ => false
  | .declaredUnreachable _ => false
  | .moduleRejoin _ => false
  | .heaterRetune _ _ _ _ => false
  | .spareTuned _ _ => false
  | .ocsAnnounce _ _ => false
  | .ocsQuiesced _ _ => false
  | .ocsRelock _ _ => false
  | .ocsTableSwap _ _ => false
  | .ocsDarkTimeout _ _ => false
  | .assign _ => false
  | .retire _ => false
  | .switch _ => false
  | .quote _ => false
  | .health _ => false
  | .moduleReset _ => false
  | .sramScrub _ => false
  | .hbmPatrolScrub _ => false
  | .registerParityError _ _ _ => false
  | .unitFailure _ _ => false
  | .acctBoundary _ => false
  | .traceSample _ => false
  | .trcptrWrite _ => false
  | .idleRecheck _ _ => false
  | .registerWrite _ _ _ _ => false
  | .keptCopyDropped _ => false
  | .hbmChannelRetired _ _ => false

/-- R197: every 5-bit field that names a file of eight registers holds a number below 8. R337: a transfer without
REC names no handle register. R236: a vector comparison has one of the five conditions. Other fields may hold any value;
what an entry refuses of them is refused by its meaning. -/
def Instr.wellFormed : Instr → Bool
  | .movi _ _ _ _ => true
  | .movk _ _ _ => true
  | .fadd _ _ _ _ _ => true
  | .fsub _ _ _ _ _ => true
  | .fmul _ _ _ _ _ => true
  | .fdiv _ _ _ _ _ => true
  | .fsqrt _ _ _ _ => true
  | .fmac _ _ _ _ _ => true
  | .fmin _ _ _ _ => true
  | .fmax _ _ _ _ => true
  | .fcmp _ _ _ _ _ => true
  | .fcvt _ _ _ _ _ => true
  | .fclass _ _ _ => true
  | .beq _ _ _ => true
  | .bne _ _ _ => true
  | .blt _ _ _ => true
  | .bge _ _ _ => true
  | .bltn _ _ _ => true
  | .bgen _ _ _ => true
  | .j _ => true
  | .call _ => true
  | .jr _ => true
  | .callr _ => true
  | .ret => true
  | .ldN8 _ _ _ _ _ => true
  | .ldI8 _ _ _ _ _ => true
  | .ldN16 _ _ _ _ _ => true
  | .ldI16 _ _ _ _ _ => true
  | .ldN32 _ _ _ _ _ => true
  | .ldI32 _ _ _ _ _ => true
  | .ldI64 _ _ _ _ _ => true
  | .ldp d _ _ _ _ => decide (d.toNat < 8)
  | .st8 _ _ _ _ _ => true
  | .st16 _ _ _ _ _ => true
  | .st32 _ _ _ _ _ => true
  | .st64 _ _ _ _ _ => true
  | .stp d _ _ _ _ => decide (d.toNat < 8)
  | .vld _ _ _ _ _ => true
  | .vst _ _ _ _ _ => true
  | .lda _ a _ _ _ => decide (a.toNat < 8)
  | .stl a _ _ _ _ => decide (a.toNat < 8)
  | .amoAdd _ a _ _ _ => decide (a.toNat < 8)
  | .amoAnd _ a _ _ _ => decide (a.toNat < 8)
  | .amoOr _ a _ _ _ => decide (a.toNat < 8)
  | .amoXor _ a _ _ _ => decide (a.toNat < 8)
  | .amoMin _ a _ _ _ => decide (a.toNat < 8)
  | .amoMax _ a _ _ _ => decide (a.toNat < 8)
  | .amoMinn _ a _ _ _ => decide (a.toNat < 8)
  | .amoMaxn _ a _ _ _ => decide (a.toNat < 8)
  | .amoSwap _ a _ _ _ => decide (a.toNat < 8)
  | .cas _ a _ _ _ => decide (a.toNat < 8)
  | .cas2 _ a _ _ => decide (a.toNat < 8)
  | .famoAdd _ a _ _ _ => decide (a.toNat < 8)
  | .fence _ _ _ => true
  | .xfence _ _ _ => true
  | .wait _ _ _ _ _ => true
  | .waitkImm _ _ _ => true
  | .waitkReg _ _ => true
  | .waitbImm _ _ _ => true
  | .waitbReg _ _ => true
  | .kset _ _ => true
  | .kget _ _ => true
  | .trig _ b _ => decide (b.toNat < 8)
  | .untrig b _ => decide (b.toNat < 8)
  | .bmov d a _ => decide (d.toNat < 8 ∧ a.toNat < 8)
  | .bset d _ _ => decide (d.toNat < 8)
  | .rpt _ _ => true
  | .cpCopy a b _ => decide (a.toNat < 8 ∧ b.toNat < 8)
  | .cpFill a _ _ => decide (a.toNat < 8)
  | .cpRows a b _ imm => decide (a.toNat < 8 ∧ b.toNat < 8 ∧ imm.toNat < 8)
  | .cpScat a b _ imm => decide (a.toNat < 8 ∧ b.toNat < 8 ∧ imm.toNat < 8)
  | .tcfg _ b _ => decide (b.toNat < 8)
  | .tdef _ _ _ => true
  | .tfill _ b _ _ _ => decide (b.toNat < 8)
  | .tdrain _ b _ _ _ => decide (b.toNat < 8)
  | .trel _ => true
  | .tstat _ _ => true
  | .tswap _ _ _ => true
  | .join _ b _ => decide (b.toNat < 8)
  | .leave b => decide (b.toNat < 8)
  | .gbar b => decide (b.toNat < 8)
  | .spawn _ _ => true
  | .tid _ _ => true
  | .done => true
  | .mxMac _ _ _ _ _ _ _ _ => true
  | .mxMacb _ _ _ _ _ _ _ _ => true
  | .mxZero _ _ => true
  | .mxLd a _ _ => decide (a.toNat < 8)
  | .mxSt a _ _ => decide (a.toNat < 8)
  | .mxHand _ _ => true
  | .mxRd _ _ _ => true
  | .mxProg _ => true
  | .mxProgClr _ _ => true
  | .mxSend _ b _ => decide (b.toNat < 8)
  | .etw _ a _ p => decide ((p = 0#1 ∨ a.toNat < 8))
  | .etr _ a _ p => decide ((p = 0#1 ∨ a.toNat < 8))
  | .vaddF _ _ _ _ _ => true
  | .vsubF _ _ _ _ _ => true
  | .vmulF _ _ _ _ _ => true
  | .vfma _ _ _ _ _ => true
  | .vminF _ _ _ _ _ => true
  | .vmaxF _ _ _ _ _ => true
  | .vdiv _ _ _ _ _ => true
  | .vsqrt _ _ _ _ => true
  | .vaddI _ _ _ _ _ => true
  | .vsubI _ _ _ _ _ => true
  | .vmulI _ _ _ _ _ => true
  | .vminI _ _ _ _ _ => true
  | .vmaxI _ _ _ _ _ => true
  | .vabsI _ _ _ _ => true
  | .vnegI _ _ _ _ => true
  | .vand _ _ _ _ _ => true
  | .vor _ _ _ _ _ => true
  | .vxor _ _ _ _ _ => true
  | .vshl _ _ _ _ _ => true
  | .vshr _ _ _ _ _ => true
  | .vsra _ _ _ _ _ => true
  | .vexp2 _ _ _ _ => true
  | .vlog2 _ _ _ _ => true
  | .vrcp _ _ _ _ => true
  | .vrsqrt _ _ _ _ => true
  | .vtanh _ _ _ _ => true
  | .vabsF _ _ _ _ => true
  | .vnegF _ _ _ _ => true
  | .vcvt _ _ _ _ _ => true
  | .vwiden _ _ _ _ _ => true
  | .vnarrow _ _ _ _ _ => true
  | .vcmp d _ _ _ c _ => decide (d.toNat < 8 ∧ c.toNat < 5)
  | .vbound d _ _ _ => decide (d.toNat < 8)
  | .qand d a b => decide (d.toNat < 8 ∧ a.toNat < 8 ∧ b.toNat < 8)
  | .qor d a b => decide (d.toNat < 8 ∧ a.toNat < 8 ∧ b.toNat < 8)
  | .qxor d a b => decide (d.toNat < 8 ∧ a.toNat < 8 ∧ b.toNat < 8)
  | .qnot d a => decide (d.toNat < 8 ∧ a.toNat < 8)
  | .qcnt _ a _ => decide (a.toNat < 8)
  | .qfirst _ a _ => decide (a.toNat < 8)
  | .vmov _ _ _ => true
  | .vdup _ _ _ _ => true
  | .vget _ _ _ _ => true
  | .vset _ _ _ _ => true
  | .vsel _ _ _ _ => true
  | .vperm _ _ _ _ _ => true
  | .vzipLo _ _ _ _ _ => true
  | .vzipHi _ _ _ _ _ => true
  | .vunzipEven _ _ _ _ _ => true
  | .vunzipOdd _ _ _ _ _ => true
  | .vslideUp _ _ _ _ _ => true
  | .vslideDn _ _ _ _ _ => true
  | .vtrnEven _ _ _ _ _ => true
  | .vtrnOdd _ _ _ _ _ => true
  | .vsum _ _ _ _ => true
  | .vmaxr _ _ _ _ => true
  | .vminr _ _ _ _ => true
  | .vscan _ _ _ _ => true
  | .vwidth _ _ => true
  | .vldx _ a _ _ _ _ => decide (a.toNat < 8)
  | .vstx _ a _ _ _ _ => decide (a.toNat < 8)
  | .vldw _ a _ _ _ _ => decide (a.toNat < 8)
  | .vstw _ a _ _ _ _ => decide (a.toNat < 8)
  | .vldt _ a _ _ _ _ => decide (a.toNat < 8)
  | .vldtTile _ _ _ _ _ => true
  | .vbind _ a _ _ => decide (a.toNat < 8)
  | .vfree _ => true
  | .snd _ _ _ _ => true
  | .sndv _ _ _ _ => true
  | .sndz _ _ _ _ _ => true
  | .lbk a => decide (a.toNat < 8)
  | .nmc _ sel _ r h => decide (sel.toNat < 8 ∧ (r = 1#1 ∨ h = 0#5))
  | .ngt _ sel _ r h => decide (sel.toNat < 8 ∧ (r = 1#1 ∨ h = 0#5))
  | .nsc _ sel _ r h => decide (sel.toNat < 8 ∧ (r = 1#1 ∨ h = 0#5))
  | .na2a _ sel _ r h => decide (sel.toNat < 8 ∧ (r = 1#1 ∨ h = 0#5))
  | .coll d sel _ _ _ => decide (d.toNat < 8 ∧ sel.toNat < 8)
  | .ccfg b _ => decide (b.toNat < 8)
  | .treplay _ b => decide (b.toNat < 8)
  | .tfree _ => true
  | .tinfo _ _ _ => true
  | .xpostTx b _ => decide (b.toNat < 8)
  | .xpostRx b _ => decide (b.toNat < 8)
  | .xfetch b _ => decide (b.toNat < 8)
  | .xpath _ _ => true
  | .stvMap a _ => decide (a.toNat < 8)
  | .stvInit _ _ => true
  | .stvGate a _ => decide (a.toNat < 8)
  | .stvSwap _ _ _ => true
  | .stvProb a _ _ _ => decide (a.toNat < 8)
  | .stvFix _ _ _ _ => true
  | .stvNorm a _ => decide (a.toNat < 8)
  | .stvAmp a _ _ => decide (a.toNat < 8)
  | .crr _ _ => true
  | .crw _ _ => true
  | .crs _ _ _ => true
  | .crc _ _ _ => true
  | .trap _ => true
  | .brk _ => true
  | .eret => true
  | .idle _ _ _ => true
  | .safe _ => true
  | .halt => true
  | .tlbi _ _ _ _ => true
  | .tlbiCtx _ _ => true
  | .tlbsync _ => true
  | .alloy _ _ => true
  | .part => true
  | .astat _ => true
  | .trc _ _ => true
  | .pcmEn _ => true
  | .pcmDis _ => true
  | .pcmRet => true
  | .add _ _ _ => true
  | .sub _ _ _ => true
  | .and _ _ _ => true
  | .or _ _ _ => true
  | .xor _ _ _ => true
  | .andn _ _ _ => true
  | .orn _ _ _ => true
  | .sll _ _ _ => true
  | .srl _ _ _ => true
  | .sra _ _ _ => true
  | .rol _ _ _ => true
  | .ror _ _ _ => true
  | .slt _ _ _ => true
  | .sltn _ _ _ => true
  | .min _ _ _ => true
  | .max _ _ _ => true
  | .minn _ _ _ => true
  | .maxn _ _ _ => true
  | .clz _ _ => true
  | .ctz _ _ => true
  | .pop _ _ => true
  | .sext8 _ _ => true
  | .sext16 _ _ => true
  | .sext32 _ _ => true
  | .zext8 _ _ => true
  | .zext16 _ _ => true
  | .zext32 _ _ => true
  | .bswap _ _ => true
  | .addi _ _ _ => true
  | .andi _ _ _ => true
  | .ori _ _ _ => true
  | .xori _ _ _ => true
  | .slli _ _ _ => true
  | .srli _ _ _ => true
  | .srai _ _ _ => true
  | .slti _ _ _ => true
  | .sltni _ _ _ => true
  | .mul _ _ _ => true
  | .mulh _ _ _ => true
  | .mulhn _ _ _ => true
  | .div _ _ _ => true
  | .divn _ _ _ => true
  | .rem _ _ _ => true
  | .remn _ _ _ => true
  | .padd d a _ => decide (d.toNat < 8 ∧ a.toNat < 8)
  | .pset d _ _ => decide (d.toNat < 8)
  | .pget _ a => decide (a.toNat < 8)
  | .pgeth _ a => decide (a.toNat < 8)
  | .pdiff _ a b => decide (a.toNat < 8 ∧ b.toNat < 8)
  | .undefinedWord _ => true
  | .invalidate _ => true
  | .invalidateAck _ => true
  | .homePerform _ => true
  | .remoteRequest _ => true
  | .remoteReply _ => true
  | .remoteTimeout _ => true
  | .storeAck _ => true
  | .messageArrival _ => true
  | .messageAck _ => true
  | .messageRetry _ => true
  | .messageSelect _ => true
  | .messageAging _ => true
  | .hotnessDecay _ => true
  | .hotcfgClr _ => true
  | .hotcfgClearDone _ => true
  | .migStart _ _ => true
  | .migCommit _ _ => true
  | .migRelease _ _ => true
  | .migAbort _ _ => true
  | .migGranuleCopied _ _ => true
  | .migCopyError _ _ _ => true
  | .parkcfgApply _ => true
  | .exbWrite _ _ => true
  | .ctxalwWrite _ _ => true
  | .epcfgWrite _ _ _ => true
  | .engineCompletion _ => true
  | .barrierArrival _ => true
  | .tileFillComplete _ => true
  | .tileDrainComplete _ => true
  | .tswapExchange _ => true
  | .tswapTimeout _ => true
  | .preemptRequest _ _ => true
  | .forcedStop _ _ => true
  | .parkres _ _ => true
  | .slotctlResume _ _ => true
  | .slotctlDiscard _ _ => true
  | .ibxpop _ => true
  | .ibxEnd _ => true
  | .launch _ => true
  | .launchDistribute _ => true
  | .heldLaunchReread _ => true
  | .freeSlotPublish _ => true
  | .teamMigration _ _ _ _ => true
  | .alloyFormed _ _ => true
  | .alloyTimeout _ _ => true
  | .alloyMemberFree _ => true
  | .streamChunkArrival _ _ _ => true
  | .dispatchServe _ _ => true
  | .mxSendArrival _ => true
  | .swageCommandStart _ => true
  | .collContribution _ => true
  | .collTimeout _ => true
  | .sndzArrival _ => true
  | .ethPacketArrival _ _ _ _ _ _ _ _ => true
  | .ethTimeout _ => true
  | .hostBar0Write _ _ _ => true
  | .flitReceive _ _ _ _ _ => true
  | .nakReceive _ _ _ => true
  | .ackTimeout _ _ => true
  | .laneFailure _ _ _ => true
  | .retrainComplete _ _ => true
  | .declaredUnreachable _ => true
  | .moduleRejoin _ => true
  | .heaterRetune _ _ _ _ => true
  | .spareTuned _ _ => true
  | .ocsAnnounce _ _ => true
  | .ocsQuiesced _ _ => true
  | .ocsRelock _ _ => true
  | .ocsTableSwap _ _ => true
  | .ocsDarkTimeout _ _ => true
  | .assign _ => true
  | .retire _ => true
  | .switch _ => true
  | .quote _ => true
  | .health _ => true
  | .moduleReset _ => true
  | .sramScrub _ => true
  | .hbmPatrolScrub _ => true
  | .registerParityError _ _ _ => true
  | .unitFailure _ _ => true
  | .acctBoundary _ => true
  | .traceSample _ => true
  | .trcptrWrite _ => true
  | .idleRecheck _ _ => true
  | .registerWrite _ _ _ _ => true
  | .keptCopyDropped _ => true
  | .hbmChannelRetired _ _ => true

/-- R375: the privileged instructions. -/
def Instr.privileged : Instr → Bool
  | .lbk _ => true
  | .eret => true
  | .halt => true
  | .tlbi _ _ _ _ => true
  | .tlbiCtx _ _ => true
  | .tlbsync _ => true
  | .pcmEn _ => true
  | .pcmDis _ => true
  | .pcmRet => true
  | _ => false

end Sys2Proof
end

