-- ==== Sys2Proof/Decode.lean ====
section
/-! DEFINITION. Decoding and encoding: the formats of R199, the opcode map of R202 and the function-code tables of each
group. The decoder is total; what it refuses it refuses by the name of the check of R203. -/

namespace Sys2Proof

/-- The check of R203 that refuses a word. -/
inductive DecodeError where
  /-- Step 1: the word is zero. -/
  | zeroWord
  /-- Steps 1 and 2: no group has this major opcode. -/
  | opcode
  /-- Step 3: the group has no such function code. -/
  | function
  /-- Step 5: a reserved field is not zero. -/
  | reserved
  /-- Step 6: a register field names no register of its file. -/
  | registerField
  /-- R38, R39: a whole-context invalidation that names an address or a size. -/
  | invalidateForm
  /-- R272: `cas2` with a size other than 16 bytes. -/
  | operandSize
deriving DecidableEq, Repr

/-- The `len` bits of a word from bit `lo` up (R199). -/
def field (w : BitVec 32) (lo len : Nat) : BitVec len := BitVec.ofNat len (w.toNat / 2 ^ lo)

/-- A field's contribution to the word when it stands at bit `lo` (R199). -/
def place {n : Nat} (lo : Nat) (x : BitVec n) : Nat := x.toNat * 2 ^ lo

/-- Every listed range of bits, each from a bit with a length, is zero. -/
def zeroBits (w : BitVec 32) : List (Nat × Nat) → Bool
  | [] => true
  | r :: rest => field w r.1 r.2 == 0 && zeroBits w rest

/-- Steps 5 and 6 of R203 in their order: the reserved ranges, then the high bits of the register fields. -/
def checked {α : Type} (w : BitVec 32) (reserved registers : List (Nat × Nat)) (i : α) : Except DecodeError α :=
  if zeroBits w reserved = false then .error .reserved
  else if zeroBits w registers = false then .error .registerField
  else .ok i

/-- The words of major opcode 0x01 (R202). -/
def decodeOp01 (w : BitVec 32) : Except DecodeError Instr :=
  match field w 0 11 with
  | 0x000#11 => .ok (.add (field w 21 5) (field w 16 5) (field w 11 5))
  | 0x001#11 => .ok (.sub (field w 21 5) (field w 16 5) (field w 11 5))
  | 0x002#11 => .ok (.and (field w 21 5) (field w 16 5) (field w 11 5))
  | 0x003#11 => .ok (.or (field w 21 5) (field w 16 5) (field w 11 5))
  | 0x004#11 => .ok (.xor (field w 21 5) (field w 16 5) (field w 11 5))
  | 0x005#11 => .ok (.andn (field w 21 5) (field w 16 5) (field w 11 5))
  | 0x006#11 => .ok (.orn (field w 21 5) (field w 16 5) (field w 11 5))
  | 0x008#11 => .ok (.sll (field w 21 5) (field w 16 5) (field w 11 5))
  | 0x009#11 => .ok (.srl (field w 21 5) (field w 16 5) (field w 11 5))
  | 0x00a#11 => .ok (.sra (field w 21 5) (field w 16 5) (field w 11 5))
  | 0x00b#11 => .ok (.rol (field w 21 5) (field w 16 5) (field w 11 5))
  | 0x00c#11 => .ok (.ror (field w 21 5) (field w 16 5) (field w 11 5))
  | 0x010#11 => .ok (.slt (field w 21 5) (field w 16 5) (field w 11 5))
  | 0x011#11 => .ok (.sltn (field w 21 5) (field w 16 5) (field w 11 5))
  | 0x012#11 => .ok (.min (field w 21 5) (field w 16 5) (field w 11 5))
  | 0x013#11 => .ok (.max (field w 21 5) (field w 16 5) (field w 11 5))
  | 0x014#11 => .ok (.minn (field w 21 5) (field w 16 5) (field w 11 5))
  | 0x015#11 => .ok (.maxn (field w 21 5) (field w 16 5) (field w 11 5))
  | 0x020#11 => checked w [(11, 5)] [] (.clz (field w 21 5) (field w 16 5))
  | 0x021#11 => checked w [(11, 5)] [] (.ctz (field w 21 5) (field w 16 5))
  | 0x022#11 => checked w [(11, 5)] [] (.pop (field w 21 5) (field w 16 5))
  | 0x028#11 => checked w [(11, 5)] [] (.sext8 (field w 21 5) (field w 16 5))
  | 0x029#11 => checked w [(11, 5)] [] (.sext16 (field w 21 5) (field w 16 5))
  | 0x02a#11 => checked w [(11, 5)] [] (.sext32 (field w 21 5) (field w 16 5))
  | 0x02c#11 => checked w [(11, 5)] [] (.zext8 (field w 21 5) (field w 16 5))
  | 0x02d#11 => checked w [(11, 5)] [] (.zext16 (field w 21 5) (field w 16 5))
  | 0x02e#11 => checked w [(11, 5)] [] (.zext32 (field w 21 5) (field w 16 5))
  | 0x030#11 => checked w [(11, 5)] [] (.bswap (field w 21 5) (field w 16 5))
  | _ => .error .function

/-- The words of major opcode 0x02 (R202). -/
def decodeOp02 (w : BitVec 32) : Except DecodeError Instr :=
  .ok (.addi (field w 21 5) (field w 16 5) (field w 0 16))

/-- The words of major opcode 0x03 (R202). -/
def decodeOp03 (w : BitVec 32) : Except DecodeError Instr :=
  .ok (.andi (field w 21 5) (field w 16 5) (field w 0 16))

/-- The words of major opcode 0x04 (R202). -/
def decodeOp04 (w : BitVec 32) : Except DecodeError Instr :=
  .ok (.ori (field w 21 5) (field w 16 5) (field w 0 16))

/-- The words of major opcode 0x05 (R202). -/
def decodeOp05 (w : BitVec 32) : Except DecodeError Instr :=
  .ok (.xori (field w 21 5) (field w 16 5) (field w 0 16))

/-- The words of major opcode 0x06 (R202). -/
def decodeOp06 (w : BitVec 32) : Except DecodeError Instr :=
  .ok (.movi (field w 21 5) (field w 20 1) (field w 16 4) (field w 0 16))

/-- The words of major opcode 0x07 (R202). -/
def decodeOp07 (w : BitVec 32) : Except DecodeError Instr :=
  checked w [(20, 1)] [] (.movk (field w 21 5) (field w 16 4) (field w 0 16))

/-- The words of major opcode 0x08 (R202). -/
def decodeOp08 (w : BitVec 32) : Except DecodeError Instr :=
  match field w 12 4 with
  | 0x0#4 => checked w [(6, 6)] [] (.slli (field w 21 5) (field w 16 5) (field w 0 6))
  | 0x1#4 => checked w [(6, 6)] [] (.srli (field w 21 5) (field w 16 5) (field w 0 6))
  | 0x2#4 => checked w [(6, 6)] [] (.srai (field w 21 5) (field w 16 5) (field w 0 6))
  | 0x4#4 => .ok (.slti (field w 21 5) (field w 16 5) (field w 0 12))
  | 0x5#4 => .ok (.sltni (field w 21 5) (field w 16 5) (field w 0 12))
  | _ => .error .function

/-- The words of major opcode 0x09 (R202). -/
noncomputable def decodeOp09 (w : BitVec 32) : Except DecodeError Instr :=
  match field w 0 11 with
  | 0x000#11 => .ok (.mul (field w 21 5) (field w 16 5) (field w 11 5))
  | 0x001#11 => .ok (.mulh (field w 21 5) (field w 16 5) (field w 11 5))
  | 0x002#11 => .ok (.mulhn (field w 21 5) (field w 16 5) (field w 11 5))
  | 0x004#11 => .ok (.div (field w 21 5) (field w 16 5) (field w 11 5))
  | 0x005#11 => .ok (.divn (field w 21 5) (field w 16 5) (field w 11 5))
  | 0x006#11 => .ok (.rem (field w 21 5) (field w 16 5) (field w 11 5))
  | 0x007#11 => .ok (.remn (field w 21 5) (field w 16 5) (field w 11 5))
  | _ => .error .function

/-- The words of major opcode 0x0A (R202). -/
noncomputable def decodeOp0A (w : BitVec 32) : Except DecodeError Instr :=
  match field w 0 11 with
  | 0x000#11 => checked w [] [(24, 2), (19, 2)] (.padd (field w 21 5) (field w 16 5) (field w 11 5))
  | 0x001#11 => checked w [] [(24, 2)] (.pset (field w 21 5) (field w 16 5) (field w 11 5))
  | 0x002#11 => checked w [(11, 5)] [(19, 2)] (.pget (field w 21 5) (field w 16 5))
  | 0x003#11 => checked w [(11, 5)] [(19, 2)] (.pgeth (field w 21 5) (field w 16 5))
  | 0x004#11 => checked w [] [(19, 2), (14, 2)] (.pdiff (field w 21 5) (field w 16 5) (field w 11 5))
  | _ => .error .function

/-- The words of major opcode 0x0B (R202). -/
def decodeOp0B (w : BitVec 32) : Except DecodeError Instr :=
  match field w 6 5 with
  | 0x00#5 => .ok (.fadd (field w 21 5) (field w 16 5) (field w 11 5) (field w 3 3) (field w 0 3))
  | 0x01#5 => .ok (.fsub (field w 21 5) (field w 16 5) (field w 11 5) (field w 3 3) (field w 0 3))
  | 0x02#5 => .ok (.fmul (field w 21 5) (field w 16 5) (field w 11 5) (field w 3 3) (field w 0 3))
  | 0x03#5 => .ok (.fdiv (field w 21 5) (field w 16 5) (field w 11 5) (field w 3 3) (field w 0 3))
  | 0x04#5 => checked w [(11, 5)] [] (.fsqrt (field w 21 5) (field w 16 5) (field w 3 3) (field w 0 3))
  | 0x05#5 => .ok (.fmac (field w 21 5) (field w 16 5) (field w 11 5) (field w 3 3) (field w 0 3))
  | 0x06#5 => checked w [(3, 3)] [] (.fmin (field w 21 5) (field w 16 5) (field w 11 5) (field w 0 3))
  | 0x07#5 => checked w [(3, 3)] [] (.fmax (field w 21 5) (field w 16 5) (field w 11 5) (field w 0 3))
  | 0x08#5 => .ok (.fcmp (field w 21 5) (field w 16 5) (field w 11 5) (field w 3 3) (field w 0 3))
  | 0x09#5 => checked w [(14, 2)] [] (.fcvt (field w 21 5) (field w 16 5) (field w 11 3) (field w 3 3) (field w 0 3))
  | 0x0a#5 => checked w [(3, 3), (11, 5)] [] (.fclass (field w 21 5) (field w 16 5) (field w 0 3))
  | _ => .error .function

/-- The words of major opcode 0x0C (R202). -/
def decodeOp0C (w : BitVec 32) : Except DecodeError Instr :=
  .ok (.ldN8 (field w 21 5) (field w 18 3) (field w 16 2) (field w 13 3) (field w 0 13))

/-- The words of major opcode 0x0D (R202). -/
def decodeOp0D (w : BitVec 32) : Except DecodeError Instr :=
  .ok (.ldI8 (field w 21 5) (field w 18 3) (field w 16 2) (field w 13 3) (field w 0 13))

/-- The words of major opcode 0x0E (R202). -/
def decodeOp0E (w : BitVec 32) : Except DecodeError Instr :=
  .ok (.ldN16 (field w 21 5) (field w 18 3) (field w 16 2) (field w 13 3) (field w 0 13))

/-- The words of major opcode 0x0F (R202). -/
def decodeOp0F (w : BitVec 32) : Except DecodeError Instr :=
  .ok (.ldI16 (field w 21 5) (field w 18 3) (field w 16 2) (field w 13 3) (field w 0 13))

/-- The words of major opcode 0x10 (R202). -/
def decodeOp10 (w : BitVec 32) : Except DecodeError Instr :=
  .ok (.ldN32 (field w 21 5) (field w 18 3) (field w 16 2) (field w 13 3) (field w 0 13))

/-- The words of major opcode 0x11 (R202). -/
def decodeOp11 (w : BitVec 32) : Except DecodeError Instr :=
  .ok (.ldI32 (field w 21 5) (field w 18 3) (field w 16 2) (field w 13 3) (field w 0 13))

/-- The words of major opcode 0x12 (R202). -/
def decodeOp12 (w : BitVec 32) : Except DecodeError Instr :=
  .ok (.ldI64 (field w 21 5) (field w 18 3) (field w 16 2) (field w 13 3) (field w 0 13))

/-- The words of major opcode 0x13 (R202). -/
def decodeOp13 (w : BitVec 32) : Except DecodeError Instr :=
  checked w [] [(24, 2)] (.ldp (field w 21 5) (field w 18 3) (field w 16 2) (field w 13 3) (field w 0 13))

/-- The words of major opcode 0x14 (R202). -/
def decodeOp14 (w : BitVec 32) : Except DecodeError Instr :=
  .ok (.st8 (field w 21 5) (field w 18 3) (field w 16 2) (field w 13 3) (field w 0 13))

/-- The words of major opcode 0x15 (R202). -/
def decodeOp15 (w : BitVec 32) : Except DecodeError Instr :=
  .ok (.st16 (field w 21 5) (field w 18 3) (field w 16 2) (field w 13 3) (field w 0 13))

/-- The words of major opcode 0x16 (R202). -/
def decodeOp16 (w : BitVec 32) : Except DecodeError Instr :=
  .ok (.st32 (field w 21 5) (field w 18 3) (field w 16 2) (field w 13 3) (field w 0 13))

/-- The words of major opcode 0x17 (R202). -/
def decodeOp17 (w : BitVec 32) : Except DecodeError Instr :=
  .ok (.st64 (field w 21 5) (field w 18 3) (field w 16 2) (field w 13 3) (field w 0 13))

/-- The words of major opcode 0x18 (R202). -/
def decodeOp18 (w : BitVec 32) : Except DecodeError Instr :=
  checked w [] [(24, 2)] (.stp (field w 21 5) (field w 18 3) (field w 16 2) (field w 13 3) (field w 0 13))

/-- The words of major opcode 0x19 (R202). -/
def decodeOp19 (w : BitVec 32) : Except DecodeError Instr :=
  .ok (.vld (field w 21 5) (field w 18 3) (field w 16 2) (field w 13 3) (field w 0 13))

/-- The words of major opcode 0x1A (R202). -/
def decodeOp1A (w : BitVec 32) : Except DecodeError Instr :=
  .ok (.vst (field w 21 5) (field w 18 3) (field w 16 2) (field w 13 3) (field w 0 13))

/-- The words of major opcode 0x1B (R202). -/
def decodeOp1B (w : BitVec 32) : Except DecodeError Instr :=
  match field w 10 1 with
  | 0x0#1 => checked w [(3, 1), (11, 5)] [(19, 2)] (.lda (field w 21 5) (field w 16 5) (field w 7 3) (field w 4 3) (field w 0 3))
  | 0x1#1 => checked w [(3, 1), (21, 5)] [(19, 2)] (.stl (field w 16 5) (field w 11 5) (field w 7 3) (field w 4 3) (field w 0 3))

/-- The words of major opcode 0x1C (R202). -/
def decodeOp1C (w : BitVec 32) : Except DecodeError Instr :=
  match field w 7 4 with
  | 0x0#4 => checked w [(3, 2)] [(19, 2)] (.amoAdd (field w 21 5) (field w 16 5) (field w 11 5) (field w 5 2) (field w 0 3))
  | 0x1#4 => checked w [(3, 2)] [(19, 2)] (.amoAnd (field w 21 5) (field w 16 5) (field w 11 5) (field w 5 2) (field w 0 3))
  | 0x2#4 => checked w [(3, 2)] [(19, 2)] (.amoOr (field w 21 5) (field w 16 5) (field w 11 5) (field w 5 2) (field w 0 3))
  | 0x3#4 => checked w [(3, 2)] [(19, 2)] (.amoXor (field w 21 5) (field w 16 5) (field w 11 5) (field w 5 2) (field w 0 3))
  | 0x4#4 => checked w [(3, 2)] [(19, 2)] (.amoMin (field w 21 5) (field w 16 5) (field w 11 5) (field w 5 2) (field w 0 3))
  | 0x5#4 => checked w [(3, 2)] [(19, 2)] (.amoMax (field w 21 5) (field w 16 5) (field w 11 5) (field w 5 2) (field w 0 3))
  | 0x6#4 => checked w [(3, 2)] [(19, 2)] (.amoMinn (field w 21 5) (field w 16 5) (field w 11 5) (field w 5 2) (field w 0 3))
  | 0x7#4 => checked w [(3, 2)] [(19, 2)] (.amoMaxn (field w 21 5) (field w 16 5) (field w 11 5) (field w 5 2) (field w 0 3))
  | 0x8#4 => checked w [(3, 2)] [(19, 2)] (.amoSwap (field w 21 5) (field w 16 5) (field w 11 5) (field w 5 2) (field w 0 3))
  | 0x9#4 => checked w [(3, 2)] [(19, 2)] (.cas (field w 21 5) (field w 16 5) (field w 11 5) (field w 5 2) (field w 0 3))
  | 0xa#4 =>
    if field w 5 2 = 2#2 then checked w [(3, 2)] [(19, 2)] (.cas2 (field w 21 5) (field w 16 5) (field w 11 5) (field w 0 3))
    else match checked w [(3, 2)] [(19, 2)] () with
      | .error e => .error e
      | .ok _ => .error .operandSize
  | 0xb#4 => checked w [(3, 2)] [(19, 2)] (.famoAdd (field w 21 5) (field w 16 5) (field w 11 5) (field w 5 2) (field w 0 3))
  | _ => .error .function

/-- The words of major opcode 0x1D (R202). -/
def decodeOp1D (w : BitVec 32) : Except DecodeError Instr :=
  match field w 16 10 with
  | 0x000#10 => checked w [(0, 4), (11, 5)] [] (.fence (field w 8 3) (field w 6 2) (field w 4 2))
  | 0x001#10 => checked w [(0, 2), (11, 5)] [] (.xfence (field w 8 3) (field w 5 3) (field w 2 3))
  | _ => .error .function

/-- The words of major opcode 0x1E (R202). -/
def decodeOp1E (w : BitVec 32) : Except DecodeError Instr :=
  .ok (.wait (field w 20 6) (field w 14 6) (field w 9 5) (field w 4 5) (field w 0 4))

/-- The words of major opcode 0x1F (R202). -/
def decodeOp1F (w : BitVec 32) : Except DecodeError Instr :=
  match field w 19 7 with
  | 0x00#7 =>
    if field w 5 1 = 1#1 then .ok (.waitkImm (field w 9 10) (field w 6 3) (field w 0 5))
    else checked w [(0, 5), (9, 5)] [] (.waitkReg (field w 14 5) (field w 6 3))
  | 0x01#7 =>
    if field w 5 1 = 1#1 then .ok (.waitbImm (field w 9 10) (field w 6 3) (field w 0 5))
    else checked w [(0, 5), (9, 5)] [] (.waitbReg (field w 14 5) (field w 6 3))
  | 0x02#7 => checked w [(0, 6), (9, 5)] [] (.kset (field w 14 5) (field w 6 3))
  | 0x03#7 => checked w [(0, 6), (9, 5)] [] (.kget (field w 14 5) (field w 6 3))
  | 0x04#7 => checked w [(0, 6)] [(12, 2)] (.trig (field w 14 5) (field w 9 5) (field w 6 3))
  | 0x05#7 => checked w [(0, 6), (14, 5)] [(12, 2)] (.untrig (field w 9 5) (field w 6 3))
  | _ => .error .function

/-- The words of major opcode 0x20 (R202). -/
def decodeOp20 (w : BitVec 32) : Except DecodeError Instr :=
  match field w 22 4 with
  | 0x0#4 => .ok (.beq (field w 17 5) (field w 12 5) (field w 0 12))
  | 0x1#4 => .ok (.bne (field w 17 5) (field w 12 5) (field w 0 12))
  | 0x2#4 => .ok (.blt (field w 17 5) (field w 12 5) (field w 0 12))
  | 0x3#4 => .ok (.bge (field w 17 5) (field w 12 5) (field w 0 12))
  | 0x4#4 => .ok (.bltn (field w 17 5) (field w 12 5) (field w 0 12))
  | 0x5#4 => .ok (.bgen (field w 17 5) (field w 12 5) (field w 0 12))
  | _ => .error .function

/-- The words of major opcode 0x21 (R202). -/
def decodeOp21 (w : BitVec 32) : Except DecodeError Instr :=
  .ok (.j (field w 0 26))

/-- The words of major opcode 0x22 (R202). -/
def decodeOp22 (w : BitVec 32) : Except DecodeError Instr :=
  .ok (.call (field w 0 26))

/-- The words of major opcode 0x23 (R202). -/
def decodeOp23 (w : BitVec 32) : Except DecodeError Instr :=
  match field w 0 11 with
  | 0x000#11 => checked w [(11, 5), (21, 5)] [] (.jr (field w 16 5))
  | 0x001#11 => checked w [(11, 5), (21, 5)] [] (.callr (field w 16 5))
  | 0x002#11 => checked w [(11, 15)] [] (.ret)
  | _ => .error .function

/-- The words of major opcode 0x24 (R202). -/
def decodeOp24 (w : BitVec 32) : Except DecodeError Instr :=
  match field w 0 5 with
  | 0x00#5 => checked w [(16, 5)] [] (.crr (field w 21 5) (field w 5 11))
  | 0x01#5 => checked w [(21, 5)] [] (.crw (field w 16 5) (field w 5 11))
  | 0x02#5 => .ok (.crs (field w 21 5) (field w 16 5) (field w 5 11))
  | 0x03#5 => .ok (.crc (field w 21 5) (field w 16 5) (field w 5 11))
  | _ => .error .function

/-- The words of major opcode 0x25 (R202). -/
def decodeOp25 (w : BitVec 32) : Except DecodeError Instr :=
  match field w 16 10 with
  | 0x000#10 => checked w [(8, 8)] [] (.trap (field w 0 8))
  | 0x001#10 => checked w [(8, 8)] [] (.brk (field w 0 8))
  | 0x002#10 => checked w [(0, 16)] [] (.eret)
  | 0x003#10 => checked w [(5, 3)] [(14, 2)] (.idle (field w 11 3) (field w 8 3) (field w 0 5))
  | 0x004#10 => checked w [(8, 8)] [] (.safe (field w 0 8))
  | 0x005#10 => checked w [(0, 16)] [] (.halt)
  | 0x020#10 =>
    if field w 3 1 = 0#1 then .ok (.tlbi (field w 11 5) (field w 8 3) (field w 4 4) (field w 0 3))
    else if field w 4 4 = 0#4 ∧ field w 0 3 = 0#3 then .ok (.tlbiCtx (field w 11 5) (field w 8 3))
    else .error .invalidateForm
  | 0x021#10 => checked w [(0, 8), (11, 5)] [] (.tlbsync (field w 8 3))
  | _ => .error .function

/-- The words of major opcode 0x26 (R202). -/
def decodeOp26 (w : BitVec 32) : Except DecodeError Instr :=
  match field w 0 11 with
  | 0x000#11 => checked w [] [(24, 2), (19, 2)] (.bmov (field w 21 5) (field w 16 5) (field w 11 5))
  | 0x001#11 => checked w [] [(24, 2)] (.bset (field w 21 5) (field w 16 5) (field w 11 5))
  | 0x002#11 => checked w [(21, 5)] [] (.rpt (field w 16 5) (field w 11 5))
  | _ => .error .function

/-- The words of major opcode 0x27 (R202). -/
def decodeOp27 (w : BitVec 32) : Except DecodeError Instr :=
  match field w 5 3 with
  | 0x0#3 => .ok (.vaddF (field w 21 5) (field w 16 5) (field w 11 5) (field w 8 3) (field w 0 5))
  | 0x1#3 => .ok (.vsubF (field w 21 5) (field w 16 5) (field w 11 5) (field w 8 3) (field w 0 5))
  | 0x2#3 => .ok (.vmulF (field w 21 5) (field w 16 5) (field w 11 5) (field w 8 3) (field w 0 5))
  | 0x3#3 => .ok (.vfma (field w 21 5) (field w 16 5) (field w 11 5) (field w 8 3) (field w 0 5))
  | 0x4#3 => .ok (.vminF (field w 21 5) (field w 16 5) (field w 11 5) (field w 8 3) (field w 0 5))
  | 0x5#3 => .ok (.vmaxF (field w 21 5) (field w 16 5) (field w 11 5) (field w 8 3) (field w 0 5))
  | 0x6#3 => .ok (.vdiv (field w 21 5) (field w 16 5) (field w 11 5) (field w 8 3) (field w 0 5))
  | 0x7#3 => checked w [(11, 5)] [] (.vsqrt (field w 21 5) (field w 16 5) (field w 8 3) (field w 0 5))

/-- The words of major opcode 0x28 (R202). -/
def decodeOp28 (w : BitVec 32) : Except DecodeError Instr :=
  match field w 3 5 with
  | 0x00#5 => .ok (.vaddI (field w 21 5) (field w 16 5) (field w 11 5) (field w 8 3) (field w 0 3))
  | 0x01#5 => .ok (.vsubI (field w 21 5) (field w 16 5) (field w 11 5) (field w 8 3) (field w 0 3))
  | 0x02#5 => .ok (.vmulI (field w 21 5) (field w 16 5) (field w 11 5) (field w 8 3) (field w 0 3))
  | 0x03#5 => .ok (.vminI (field w 21 5) (field w 16 5) (field w 11 5) (field w 8 3) (field w 0 3))
  | 0x04#5 => .ok (.vmaxI (field w 21 5) (field w 16 5) (field w 11 5) (field w 8 3) (field w 0 3))
  | 0x05#5 => checked w [(11, 5)] [] (.vabsI (field w 21 5) (field w 16 5) (field w 8 3) (field w 0 3))
  | 0x06#5 => checked w [(11, 5)] [] (.vnegI (field w 21 5) (field w 16 5) (field w 8 3) (field w 0 3))
  | 0x08#5 => .ok (.vand (field w 21 5) (field w 16 5) (field w 11 5) (field w 8 3) (field w 0 3))
  | 0x09#5 => .ok (.vor (field w 21 5) (field w 16 5) (field w 11 5) (field w 8 3) (field w 0 3))
  | 0x0a#5 => .ok (.vxor (field w 21 5) (field w 16 5) (field w 11 5) (field w 8 3) (field w 0 3))
  | 0x0c#5 => .ok (.vshl (field w 21 5) (field w 16 5) (field w 11 5) (field w 8 3) (field w 0 3))
  | 0x0d#5 => .ok (.vshr (field w 21 5) (field w 16 5) (field w 11 5) (field w 8 3) (field w 0 3))
  | 0x0e#5 => .ok (.vsra (field w 21 5) (field w 16 5) (field w 11 5) (field w 8 3) (field w 0 3))
  | _ => .error .function

/-- The words of major opcode 0x29 (R202). -/
def decodeOp29 (w : BitVec 32) : Except DecodeError Instr :=
  match field w 5 3 with
  | 0x0#3 =>
    match field w 11 5 with
    | 0x00#5 => .ok (.vexp2 (field w 21 5) (field w 16 5) (field w 8 3) (field w 0 5))
    | 0x01#5 => .ok (.vlog2 (field w 21 5) (field w 16 5) (field w 8 3) (field w 0 5))
    | 0x02#5 => .ok (.vrcp (field w 21 5) (field w 16 5) (field w 8 3) (field w 0 5))
    | 0x03#5 => .ok (.vrsqrt (field w 21 5) (field w 16 5) (field w 8 3) (field w 0 5))
    | 0x04#5 => .ok (.vtanh (field w 21 5) (field w 16 5) (field w 8 3) (field w 0 5))
    | 0x05#5 => .ok (.vabsF (field w 21 5) (field w 16 5) (field w 8 3) (field w 0 5))
    | 0x06#5 => .ok (.vnegF (field w 21 5) (field w 16 5) (field w 8 3) (field w 0 5))
    | _ => .error .function
  | 0x1#3 => checked w [(10, 1)] [] (.vcvt (field w 21 5) (field w 16 5) (field w 11 5) (field w 8 2) (field w 0 5))
  | 0x2#3 => checked w [(10, 1)] [] (.vwiden (field w 21 5) (field w 16 5) (field w 11 5) (field w 8 2) (field w 0 5))
  | 0x3#3 => checked w [(10, 1)] [] (.vnarrow (field w 21 5) (field w 16 5) (field w 11 5) (field w 8 2) (field w 0 5))
  | _ => .error .function

/-- The words of major opcode 0x2A (R202). R251 calls vb reserved for `qnot` and does not speak of `qcnt` and `qfirst`, which have no second source:
there too it is taken as reserved (log 106: DEDUCED). -/
def decodeOp2A (w : BitVec 32) : Except DecodeError Instr :=
  match field w 5 3 with
  | 0x0#3 => checked w [] [(24, 2)] (.vcmp (field w 21 5) (field w 16 5) (field w 11 5) (field w 8 3) (field w 5 3) (field w 0 5))
  | 0x1#3 => checked w [] [(24, 2)] (.vcmp (field w 21 5) (field w 16 5) (field w 11 5) (field w 8 3) (field w 5 3) (field w 0 5))
  | 0x2#3 => checked w [] [(24, 2)] (.vcmp (field w 21 5) (field w 16 5) (field w 11 5) (field w 8 3) (field w 5 3) (field w 0 5))
  | 0x3#3 => checked w [] [(24, 2)] (.vcmp (field w 21 5) (field w 16 5) (field w 11 5) (field w 8 3) (field w 5 3) (field w 0 5))
  | 0x4#3 => checked w [] [(24, 2)] (.vcmp (field w 21 5) (field w 16 5) (field w 11 5) (field w 8 3) (field w 5 3) (field w 0 5))
  | 0x7#3 =>
    match field w 0 5 with
    | 0x00#5 => checked w [(8, 3)] [(24, 2)] (.vbound (field w 21 5) (field w 16 5) (field w 11 5) (field w 0 2))
    | 0x01#5 => checked w [(8, 3)] [(24, 2)] (.vbound (field w 21 5) (field w 16 5) (field w 11 5) (field w 0 2))
    | 0x02#5 => checked w [(8, 3)] [(24, 2)] (.vbound (field w 21 5) (field w 16 5) (field w 11 5) (field w 0 2))
    | 0x03#5 => checked w [(8, 3)] [(24, 2)] (.vbound (field w 21 5) (field w 16 5) (field w 11 5) (field w 0 2))
    | 0x04#5 => checked w [(8, 3)] [(24, 2), (19, 2), (14, 2)] (.qand (field w 21 5) (field w 16 5) (field w 11 5))
    | 0x05#5 => checked w [(8, 3)] [(24, 2), (19, 2), (14, 2)] (.qor (field w 21 5) (field w 16 5) (field w 11 5))
    | 0x06#5 => checked w [(8, 3)] [(24, 2), (19, 2), (14, 2)] (.qxor (field w 21 5) (field w 16 5) (field w 11 5))
    | 0x07#5 => checked w [(8, 8)] [(24, 2), (19, 2)] (.qnot (field w 21 5) (field w 16 5))
    | 0x08#5 => checked w [(8, 8)] [(19, 2)] (.qcnt (field w 21 5) (field w 16 5) (field w 0 2))
    | 0x09#5 => checked w [(8, 8)] [(19, 2)] (.qcnt (field w 21 5) (field w 16 5) (field w 0 2))
    | 0x0a#5 => checked w [(8, 8)] [(19, 2)] (.qcnt (field w 21 5) (field w 16 5) (field w 0 2))
    | 0x0b#5 => checked w [(8, 8)] [(19, 2)] (.qcnt (field w 21 5) (field w 16 5) (field w 0 2))
    | 0x0c#5 => checked w [(8, 8)] [(19, 2)] (.qfirst (field w 21 5) (field w 16 5) (field w 0 2))
    | 0x0d#5 => checked w [(8, 8)] [(19, 2)] (.qfirst (field w 21 5) (field w 16 5) (field w 0 2))
    | 0x0e#5 => checked w [(8, 8)] [(19, 2)] (.qfirst (field w 21 5) (field w 16 5) (field w 0 2))
    | 0x0f#5 => checked w [(8, 8)] [(19, 2)] (.qfirst (field w 21 5) (field w 16 5) (field w 0 2))
    | _ => .error .function
  | _ => .error .function

/-- The words of major opcode 0x2B (R202). -/
def decodeOp2B (w : BitVec 32) : Except DecodeError Instr :=
  match field w 3 5 with
  | 0x00#5 => checked w [(0, 3), (11, 5)] [] (.vmov (field w 21 5) (field w 16 5) (field w 8 3))
  | 0x01#5 => checked w [(11, 5)] [] (.vdup (field w 21 5) (field w 16 5) (field w 8 3) (field w 0 3))
  | 0x02#5 => checked w [(8, 3)] [] (.vget (field w 21 5) (field w 16 5) (field w 11 5) (field w 0 3))
  | 0x03#5 => checked w [(8, 3)] [] (.vset (field w 21 5) (field w 16 5) (field w 11 5) (field w 0 3))
  | 0x04#5 => checked w [(0, 3)] [] (.vsel (field w 21 5) (field w 16 5) (field w 11 5) (field w 8 3))
  | 0x05#5 => .ok (.vperm (field w 21 5) (field w 16 5) (field w 11 5) (field w 8 3) (field w 0 3))
  | 0x06#5 => .ok (.vzipLo (field w 21 5) (field w 16 5) (field w 11 5) (field w 8 3) (field w 0 3))
  | 0x07#5 => .ok (.vzipHi (field w 21 5) (field w 16 5) (field w 11 5) (field w 8 3) (field w 0 3))
  | 0x08#5 => .ok (.vunzipEven (field w 21 5) (field w 16 5) (field w 11 5) (field w 8 3) (field w 0 3))
  | 0x09#5 => .ok (.vunzipOdd (field w 21 5) (field w 16 5) (field w 11 5) (field w 8 3) (field w 0 3))
  | 0x0a#5 => .ok (.vslideUp (field w 21 5) (field w 16 5) (field w 11 5) (field w 8 3) (field w 0 3))
  | 0x0b#5 => .ok (.vslideDn (field w 21 5) (field w 16 5) (field w 11 5) (field w 8 3) (field w 0 3))
  | 0x0c#5 => .ok (.vtrnEven (field w 21 5) (field w 16 5) (field w 11 5) (field w 8 3) (field w 0 3))
  | 0x0d#5 => .ok (.vtrnOdd (field w 21 5) (field w 16 5) (field w 11 5) (field w 8 3) (field w 0 3))
  | 0x10#5 => checked w [(0, 3)] [] (.vsum (field w 21 5) (field w 16 5) (field w 11 5) (field w 8 3))
  | 0x11#5 => checked w [(0, 3)] [] (.vmaxr (field w 21 5) (field w 16 5) (field w 11 5) (field w 8 3))
  | 0x12#5 => checked w [(0, 3)] [] (.vminr (field w 21 5) (field w 16 5) (field w 11 5) (field w 8 3))
  | 0x13#5 => checked w [(0, 3)] [] (.vscan (field w 21 5) (field w 16 5) (field w 11 5) (field w 8 3))
  | 0x18#5 => checked w [(8, 13)] [] (.vwidth (field w 21 5) (field w 0 3))
  | _ => .error .function

/-- The words of major opcode 0x2C (R202). -/
def decodeOp2C (w : BitVec 32) : Except DecodeError Instr :=
  match field w 5 3 with
  | 0x0#3 => checked w [] [(19, 2)] (.vldx (field w 21 5) (field w 16 5) (field w 11 5) (field w 8 3) (field w 3 2) (field w 0 3))
  | 0x1#3 => checked w [] [(19, 2)] (.vstx (field w 21 5) (field w 16 5) (field w 11 5) (field w 8 3) (field w 3 2) (field w 0 3))
  | 0x2#3 => checked w [] [(19, 2)] (.vldw (field w 21 5) (field w 16 5) (field w 11 5) (field w 8 3) (field w 3 2) (field w 0 3))
  | 0x3#3 => checked w [] [(19, 2)] (.vstw (field w 21 5) (field w 16 5) (field w 11 5) (field w 8 3) (field w 3 2) (field w 0 3))
  | 0x4#3 => checked w [] [(19, 2)] (.vldt (field w 21 5) (field w 16 5) (field w 11 5) (field w 8 3) (field w 3 2) (field w 0 3))
  | 0x5#3 => checked w [(0, 3), (11, 5)] [(19, 2)] (.vbind (field w 21 5) (field w 16 5) (field w 8 3) (field w 3 2))
  | 0x6#3 => checked w [(0, 5), (8, 13)] [] (.vfree (field w 21 5))
  | 0x7#3 => checked w [(0, 3)] [] (.vldtTile (field w 21 5) (field w 16 5) (field w 11 5) (field w 8 3) (field w 3 2))

/-- The words of major opcode 0x2D (R202). -/
def decodeOp2D (w : BitVec 32) : Except DecodeError Instr :=
  match field w 22 4 with
  | 0x0#4 => checked w [(5, 1)] [] (.mxMac (field w 21 1) (field w 20 1) (field w 19 1) (field w 14 5) (field w 9 5) (field w 6 3) (field w 4 1) (field w 0 4))
  | 0x1#4 => checked w [(5, 1)] [] (.mxMacb (field w 21 1) (field w 20 1) (field w 19 1) (field w 14 5) (field w 9 5) (field w 6 3) (field w 4 1) (field w 0 4))
  | 0x2#4 => checked w [(4, 2), (9, 13)] [] (.mxZero (field w 6 3) (field w 0 4))
  | 0x3#4 => checked w [(4, 2), (9, 5), (19, 3)] [(17, 2)] (.mxLd (field w 14 5) (field w 6 3) (field w 0 4))
  | 0x4#4 => checked w [(4, 2), (9, 5), (19, 3)] [(17, 2)] (.mxSt (field w 14 5) (field w 6 3) (field w 0 4))
  | 0x5#4 => checked w [(4, 2), (9, 13)] [] (.mxHand (field w 6 3) (field w 0 4))
  | 0x6#4 => checked w [(4, 5), (19, 3)] [] (.mxRd (field w 14 5) (field w 9 5) (field w 0 4))
  | 0x7#4 =>
    if field w 0 1 = 0#1 then checked w [(1, 13), (19, 3)] [] (.mxProg (field w 14 5))
    else checked w [(1, 8), (19, 3)] [] (.mxProgClr (field w 14 5) (field w 9 5))
  | 0x8#4 => checked w [(0, 6), (19, 3)] [(12, 2)] (.mxSend (field w 14 5) (field w 9 5) (field w 6 3))
  | _ => .error .function

/-- The words of major opcode 0x2E (R202). -/
def decodeOp2E (w : BitVec 32) : Except DecodeError Instr :=
  match field w 25 1 with
  | 0x0#1 => checked w [(1, 8), (19, 3)] (if field w 0 1 = 1#1 then [(17, 2)] else []) (.etw (field w 22 3) (field w 14 5) (field w 9 5) (field w 0 1))
  | 0x1#1 => checked w [(1, 8), (19, 3)] (if field w 0 1 = 1#1 then [(17, 2)] else []) (.etr (field w 22 3) (field w 14 5) (field w 9 5) (field w 0 1))

/-- The words of major opcode 0x2F (R202). -/
def decodeOp2F (w : BitVec 32) : Except DecodeError Instr :=
  match field w 19 7 with
  | 0x00#7 => checked w [(0, 6)] [(17, 2), (12, 2)] (.cpCopy (field w 14 5) (field w 9 5) (field w 6 3))
  | 0x01#7 => checked w [(0, 6)] [(17, 2)] (.cpFill (field w 14 5) (field w 9 5) (field w 6 3))
  | 0x02#7 => checked w [(5, 1)] [(17, 2), (12, 2), (3, 2)] (.cpRows (field w 14 5) (field w 9 5) (field w 6 3) (field w 0 5))
  | 0x03#7 => checked w [(5, 1)] [(17, 2), (12, 2), (3, 2)] (.cpScat (field w 14 5) (field w 9 5) (field w 6 3) (field w 0 5))
  | _ => .error .function

/-- The words of major opcode 0x30 (R202). -/
def decodeOp30 (w : BitVec 32) : Except DecodeError Instr :=
  match field w 19 7 with
  | 0x00#7 => checked w [(5, 4)] [(12, 2)] (.tcfg (field w 14 5) (field w 9 5) (field w 0 5))
  | 0x01#7 => checked w [(5, 4)] [] (.tdef (field w 14 5) (field w 9 5) (field w 0 5))
  | 0x02#7 => checked w [] [(12, 2)] (.tfill (field w 14 5) (field w 9 5) (field w 6 3) (field w 5 1) (field w 0 5))
  | 0x03#7 => checked w [] [(12, 2)] (.tdrain (field w 14 5) (field w 9 5) (field w 6 3) (field w 5 1) (field w 0 5))
  | 0x04#7 => checked w [(0, 14)] [] (.trel (field w 14 5))
  | 0x05#7 => checked w [(0, 9)] [] (.tstat (field w 14 5) (field w 9 5))
  | 0x06#7 => checked w [(0, 6)] [] (.tswap (field w 14 5) (field w 9 5) (field w 6 3))
  | _ => .error .function

/-- The words of major opcode 0x31 (R202). -/
def decodeOp31 (w : BitVec 32) : Except DecodeError Instr :=
  match field w 19 7 with
  | 0x00#7 => checked w [(5, 1)] [] (.snd (field w 14 5) (field w 9 5) (field w 6 3) (field w 0 5))
  | 0x01#7 => checked w [(5, 1)] [] (.sndv (field w 14 5) (field w 9 5) (field w 6 3) (field w 0 5))
  | 0x02#7 => .ok (.sndz (field w 14 5) (field w 9 5) (field w 6 3) (field w 5 1) (field w 0 5))
  | 0x03#7 => checked w [(0, 14)] [(17, 2)] (.lbk (field w 14 5))
  | 0x04#7 => checked w (if field w 5 1 = 0#1 then [(0, 5)] else []) [(12, 2)] (.nmc (field w 14 5) (field w 9 5) (field w 6 3) (field w 5 1) (field w 0 5))
  | 0x05#7 => checked w (if field w 5 1 = 0#1 then [(0, 5)] else []) [(12, 2)] (.ngt (field w 14 5) (field w 9 5) (field w 6 3) (field w 5 1) (field w 0 5))
  | 0x06#7 => checked w (if field w 5 1 = 0#1 then [(0, 5)] else []) [(12, 2)] (.nsc (field w 14 5) (field w 9 5) (field w 6 3) (field w 5 1) (field w 0 5))
  | 0x07#7 => checked w (if field w 5 1 = 0#1 then [(0, 5)] else []) [(12, 2)] (.na2a (field w 14 5) (field w 9 5) (field w 6 3) (field w 5 1) (field w 0 5))
  | _ => .error .function

/-- The words of major opcode 0x32 (R202). -/
def decodeOp32 (w : BitVec 32) : Except DecodeError Instr :=
  match field w 19 7 with
  | 0x00#7 => checked w [] [(17, 2), (12, 2)] (.coll (field w 14 5) (field w 9 5) (field w 6 3) (field w 4 2) (field w 0 4))
  | 0x01#7 => checked w [(4, 5), (14, 5)] [(12, 2)] (.ccfg (field w 9 5) (field w 0 4))
  | _ => .error .function

/-- The words of major opcode 0x33 (R202). -/
def decodeOp33 (w : BitVec 32) : Except DecodeError Instr :=
  match field w 19 7 with
  | 0x00#7 => checked w [(0, 9)] [(12, 2)] (.treplay (field w 14 5) (field w 9 5))
  | 0x01#7 => checked w [(0, 14)] [] (.tfree (field w 14 5))
  | 0x02#7 => checked w [(3, 6)] [] (.tinfo (field w 14 5) (field w 9 5) (field w 0 3))
  | _ => .error .function

/-- The words of major opcode 0x34 (R202). -/
def decodeOp34 (w : BitVec 32) : Except DecodeError Instr :=
  match field w 19 7 with
  | 0x00#7 => checked w [(0, 6), (9, 5)] [(17, 2)] (.stvMap (field w 14 5) (field w 6 3))
  | 0x01#7 => checked w [(0, 6), (9, 5)] [] (.stvInit (field w 14 5) (field w 6 3))
  | 0x02#7 => checked w [(0, 6), (9, 5)] [(17, 2)] (.stvGate (field w 14 5) (field w 6 3))
  | 0x03#7 => checked w [(0, 6)] [] (.stvSwap (field w 14 5) (field w 9 5) (field w 6 3))
  | 0x04#7 => checked w [(5, 1)] [(17, 2)] (.stvProb (field w 14 5) (field w 9 5) (field w 6 3) (field w 0 5))
  | 0x05#7 => checked w [(5, 1)] [] (.stvFix (field w 14 5) (field w 9 5) (field w 6 3) (field w 0 5))
  | 0x06#7 => checked w [(0, 6), (9, 5)] [(17, 2)] (.stvNorm (field w 14 5) (field w 6 3))
  | 0x07#7 => checked w [(0, 6)] [(17, 2)] (.stvAmp (field w 14 5) (field w 9 5) (field w 6 3))
  | _ => .error .function

/-- The words of major opcode 0x35 (R202). -/
def decodeOp35 (w : BitVec 32) : Except DecodeError Instr :=
  match field w 19 7 with
  | 0x00#7 => checked w [(3, 6)] [(12, 2)] (.join (field w 14 5) (field w 9 5) (field w 0 3))
  | 0x01#7 => checked w [(0, 9), (14, 5)] [(12, 2)] (.leave (field w 9 5))
  | 0x02#7 => checked w [(0, 9), (14, 5)] [(12, 2)] (.gbar (field w 9 5))
  | 0x03#7 => checked w [(0, 9)] [] (.spawn (field w 14 5) (field w 9 5))
  | 0x04#7 => checked w [(3, 11)] [] (.tid (field w 14 5) (field w 0 3))
  | 0x05#7 => checked w [(0, 19)] [] (.done)
  | _ => .error .function

/-- The words of major opcode 0x36 (R202). -/
def decodeOp36 (w : BitVec 32) : Except DecodeError Instr :=
  match field w 16 10 with
  | 0x000#10 => checked w [(2, 9)] [] (.alloy (field w 11 5) (field w 0 2))
  | 0x001#10 => checked w [(0, 16)] [] (.part)
  | 0x002#10 => checked w [(0, 11)] [] (.astat (field w 11 5))
  | _ => .error .function

/-- The words of major opcode 0x37 (R202). -/
def decodeOp37 (w : BitVec 32) : Except DecodeError Instr :=
  match field w 16 10 with
  | 0x000#10 => .ok (.trc (field w 11 5) (field w 0 11))
  | 0x001#10 => checked w [(4, 12)] [] (.pcmEn (field w 0 4))
  | 0x002#10 => checked w [(4, 12)] [] (.pcmDis (field w 0 4))
  | 0x003#10 => checked w [(0, 16)] [] (.pcmRet)
  | _ => .error .function

/-- The words of major opcode 0x38 (R202). -/
def decodeOp38 (w : BitVec 32) : Except DecodeError Instr :=
  match field w 19 7 with
  | 0x00#7 =>
    if field w 0 1 = 0#1 then checked w [(1, 5), (14, 5)] [(12, 2)] (.xpostTx (field w 9 5) (field w 6 3))
    else checked w [(1, 5), (14, 5)] [(12, 2)] (.xpostRx (field w 9 5) (field w 6 3))
  | 0x01#7 => checked w [(0, 6), (14, 5)] [(12, 2)] (.xfetch (field w 9 5) (field w 6 3))
  | 0x02#7 => checked w [(0, 9)] [] (.xpath (field w 14 5) (field w 9 5))
  | _ => .error .function

/-- R203, steps 1 to 3, 5 and 6: the instruction of a word, or the first check that refuses it. Privilege (step 4)
is that of the thread and stands in the meanings. -/
noncomputable def decodeWord (w : BitVec 32) : Except DecodeError Instr :=
  if w = 0#32 then .error .zeroWord else
  match field w 26 6 with
  | 0x01#6 => decodeOp01 w
  | 0x02#6 => decodeOp02 w
  | 0x03#6 => decodeOp03 w
  | 0x04#6 => decodeOp04 w
  | 0x05#6 => decodeOp05 w
  | 0x06#6 => decodeOp06 w
  | 0x07#6 => decodeOp07 w
  | 0x08#6 => decodeOp08 w
  | 0x09#6 => decodeOp09 w
  | 0x0a#6 => decodeOp0A w
  | 0x0b#6 => decodeOp0B w
  | 0x0c#6 => decodeOp0C w
  | 0x0d#6 => decodeOp0D w
  | 0x0e#6 => decodeOp0E w
  | 0x0f#6 => decodeOp0F w
  | 0x10#6 => decodeOp10 w
  | 0x11#6 => decodeOp11 w
  | 0x12#6 => decodeOp12 w
  | 0x13#6 => decodeOp13 w
  | 0x14#6 => decodeOp14 w
  | 0x15#6 => decodeOp15 w
  | 0x16#6 => decodeOp16 w
  | 0x17#6 => decodeOp17 w
  | 0x18#6 => decodeOp18 w
  | 0x19#6 => decodeOp19 w
  | 0x1a#6 => decodeOp1A w
  | 0x1b#6 => decodeOp1B w
  | 0x1c#6 => decodeOp1C w
  | 0x1d#6 => decodeOp1D w
  | 0x1e#6 => decodeOp1E w
  | 0x1f#6 => decodeOp1F w
  | 0x20#6 => decodeOp20 w
  | 0x21#6 => decodeOp21 w
  | 0x22#6 => decodeOp22 w
  | 0x23#6 => decodeOp23 w
  | 0x24#6 => decodeOp24 w
  | 0x25#6 => decodeOp25 w
  | 0x26#6 => decodeOp26 w
  | 0x27#6 => decodeOp27 w
  | 0x28#6 => decodeOp28 w
  | 0x29#6 => decodeOp29 w
  | 0x2a#6 => decodeOp2A w
  | 0x2b#6 => decodeOp2B w
  | 0x2c#6 => decodeOp2C w
  | 0x2d#6 => decodeOp2D w
  | 0x2e#6 => decodeOp2E w
  | 0x2f#6 => decodeOp2F w
  | 0x30#6 => decodeOp30 w
  | 0x31#6 => decodeOp31 w
  | 0x32#6 => decodeOp32 w
  | 0x33#6 => decodeOp33 w
  | 0x34#6 => decodeOp34 w
  | 0x35#6 => decodeOp35 w
  | 0x36#6 => decodeOp36 w
  | 0x37#6 => decodeOp37 w
  | 0x38#6 => decodeOp38 w
  | _ => .error .opcode

/-- What the checks answer for a word of major opcode 0x09, without the instruction. -/
def sieveOp09 (w : BitVec 32) : Except DecodeError Unit :=
  match field w 0 11 with
  | 0x000#11 => .ok ()
  | 0x001#11 => .ok ()
  | 0x002#11 => .ok ()
  | 0x004#11 => .ok ()
  | 0x005#11 => .ok ()
  | 0x006#11 => .ok ()
  | 0x007#11 => .ok ()
  | _ => .error .function

/-- What the checks answer for a word of major opcode 0x0A, without the instruction. -/
def sieveOp0A (w : BitVec 32) : Except DecodeError Unit :=
  match field w 0 11 with
  | 0x000#11 => checked w [] [(24, 2), (19, 2)] ()
  | 0x001#11 => checked w [] [(24, 2)] ()
  | 0x002#11 => checked w [(11, 5)] [(19, 2)] ()
  | 0x003#11 => checked w [(11, 5)] [(19, 2)] ()
  | 0x004#11 => checked w [] [(19, 2), (14, 2)] ()
  | _ => .error .function

/-- The refusal that a result of the checks holds. -/
def errorOf {α : Type} : Except DecodeError α → Option DecodeError
  | .ok _ => none
  | .error e => some e

/-- R203: the first check that refuses a word, none where it decodes; `decodeWord` without the instruction. -/
def decodeError (w : BitVec 32) : Option DecodeError :=
  if w = 0#32 then some .zeroWord else
  match field w 26 6 with
  | 0x01#6 => errorOf (decodeOp01 w)
  | 0x02#6 => errorOf (decodeOp02 w)
  | 0x03#6 => errorOf (decodeOp03 w)
  | 0x04#6 => errorOf (decodeOp04 w)
  | 0x05#6 => errorOf (decodeOp05 w)
  | 0x06#6 => errorOf (decodeOp06 w)
  | 0x07#6 => errorOf (decodeOp07 w)
  | 0x08#6 => errorOf (decodeOp08 w)
  | 0x09#6 => errorOf (sieveOp09 w)
  | 0x0a#6 => errorOf (sieveOp0A w)
  | 0x0b#6 => errorOf (decodeOp0B w)
  | 0x0c#6 => errorOf (decodeOp0C w)
  | 0x0d#6 => errorOf (decodeOp0D w)
  | 0x0e#6 => errorOf (decodeOp0E w)
  | 0x0f#6 => errorOf (decodeOp0F w)
  | 0x10#6 => errorOf (decodeOp10 w)
  | 0x11#6 => errorOf (decodeOp11 w)
  | 0x12#6 => errorOf (decodeOp12 w)
  | 0x13#6 => errorOf (decodeOp13 w)
  | 0x14#6 => errorOf (decodeOp14 w)
  | 0x15#6 => errorOf (decodeOp15 w)
  | 0x16#6 => errorOf (decodeOp16 w)
  | 0x17#6 => errorOf (decodeOp17 w)
  | 0x18#6 => errorOf (decodeOp18 w)
  | 0x19#6 => errorOf (decodeOp19 w)
  | 0x1a#6 => errorOf (decodeOp1A w)
  | 0x1b#6 => errorOf (decodeOp1B w)
  | 0x1c#6 => errorOf (decodeOp1C w)
  | 0x1d#6 => errorOf (decodeOp1D w)
  | 0x1e#6 => errorOf (decodeOp1E w)
  | 0x1f#6 => errorOf (decodeOp1F w)
  | 0x20#6 => errorOf (decodeOp20 w)
  | 0x21#6 => errorOf (decodeOp21 w)
  | 0x22#6 => errorOf (decodeOp22 w)
  | 0x23#6 => errorOf (decodeOp23 w)
  | 0x24#6 => errorOf (decodeOp24 w)
  | 0x25#6 => errorOf (decodeOp25 w)
  | 0x26#6 => errorOf (decodeOp26 w)
  | 0x27#6 => errorOf (decodeOp27 w)
  | 0x28#6 => errorOf (decodeOp28 w)
  | 0x29#6 => errorOf (decodeOp29 w)
  | 0x2a#6 => errorOf (decodeOp2A w)
  | 0x2b#6 => errorOf (decodeOp2B w)
  | 0x2c#6 => errorOf (decodeOp2C w)
  | 0x2d#6 => errorOf (decodeOp2D w)
  | 0x2e#6 => errorOf (decodeOp2E w)
  | 0x2f#6 => errorOf (decodeOp2F w)
  | 0x30#6 => errorOf (decodeOp30 w)
  | 0x31#6 => errorOf (decodeOp31 w)
  | 0x32#6 => errorOf (decodeOp32 w)
  | 0x33#6 => errorOf (decodeOp33 w)
  | 0x34#6 => errorOf (decodeOp34 w)
  | 0x35#6 => errorOf (decodeOp35 w)
  | 0x36#6 => errorOf (decodeOp36 w)
  | 0x37#6 => errorOf (decodeOp37 w)
  | 0x38#6 => errorOf (decodeOp38 w)
  | _ => some .opcode

/-- R199: the word of an instruction, from the same tables. A step that has no encoding answers the zero word. -/
def encode : Instr → BitVec 32
  | .movi d sel n imm => BitVec.ofNat 32 (0x18000000 + place 21 d + place 20 sel + place 16 n + place 0 imm)
  | .movk d n imm => BitVec.ofNat 32 (0x1C000000 + place 21 d + place 16 n + place 0 imm)
  | .fadd d a b r t => BitVec.ofNat 32 (0x2C000000 + place 21 d + place 16 a + place 11 b + place 3 r + place 0 t)
  | .fsub d a b r t => BitVec.ofNat 32 (0x2C000040 + place 21 d + place 16 a + place 11 b + place 3 r + place 0 t)
  | .fmul d a b r t => BitVec.ofNat 32 (0x2C000080 + place 21 d + place 16 a + place 11 b + place 3 r + place 0 t)
  | .fdiv d a b r t => BitVec.ofNat 32 (0x2C0000C0 + place 21 d + place 16 a + place 11 b + place 3 r + place 0 t)
  | .fsqrt d a r t => BitVec.ofNat 32 (0x2C000100 + place 21 d + place 16 a + place 3 r + place 0 t)
  | .fmac d a b r t => BitVec.ofNat 32 (0x2C000140 + place 21 d + place 16 a + place 11 b + place 3 r + place 0 t)
  | .fmin d a b t => BitVec.ofNat 32 (0x2C000180 + place 21 d + place 16 a + place 11 b + place 0 t)
  | .fmax d a b t => BitVec.ofNat 32 (0x2C0001C0 + place 21 d + place 16 a + place 11 b + place 0 t)
  | .fcmp d a b c t => BitVec.ofNat 32 (0x2C000200 + place 21 d + place 16 a + place 11 b + place 3 c + place 0 t)
  | .fcvt d a sel r t => BitVec.ofNat 32 (0x2C000240 + place 21 d + place 16 a + place 11 sel + place 3 r + place 0 t)
  | .fclass d a t => BitVec.ofNat 32 (0x2C000280 + place 21 d + place 16 a + place 0 t)
  | .beq a b o => BitVec.ofNat 32 (0x80000000 + place 17 a + place 12 b + place 0 o)
  | .bne a b o => BitVec.ofNat 32 (0x80400000 + place 17 a + place 12 b + place 0 o)
  | .blt a b o => BitVec.ofNat 32 (0x80800000 + place 17 a + place 12 b + place 0 o)
  | .bge a b o => BitVec.ofNat 32 (0x80C00000 + place 17 a + place 12 b + place 0 o)
  | .bltn a b o => BitVec.ofNat 32 (0x81000000 + place 17 a + place 12 b + place 0 o)
  | .bgen a b o => BitVec.ofNat 32 (0x81400000 + place 17 a + place 12 b + place 0 o)
  | .j o => BitVec.ofNat 32 (0x84000000 + place 0 o)
  | .call o => BitVec.ofNat 32 (0x88000000 + place 0 o)
  | .jr a => BitVec.ofNat 32 (0x8C000000 + place 16 a)
  | .callr a => BitVec.ofNat 32 (0x8C000001 + place 16 a)
  | .ret => BitVec.ofNat 32 (0x8C000002)
  | .ldN8 d p m x imm => BitVec.ofNat 32 (0x30000000 + place 21 d + place 18 p + place 16 m + place 13 x + place 0 imm)
  | .ldI8 d p m x imm => BitVec.ofNat 32 (0x34000000 + place 21 d + place 18 p + place 16 m + place 13 x + place 0 imm)
  | .ldN16 d p m x imm => BitVec.ofNat 32 (0x38000000 + place 21 d + place 18 p + place 16 m + place 13 x + place 0 imm)
  | .ldI16 d p m x imm => BitVec.ofNat 32 (0x3C000000 + place 21 d + place 18 p + place 16 m + place 13 x + place 0 imm)
  | .ldN32 d p m x imm => BitVec.ofNat 32 (0x40000000 + place 21 d + place 18 p + place 16 m + place 13 x + place 0 imm)
  | .ldI32 d p m x imm => BitVec.ofNat 32 (0x44000000 + place 21 d + place 18 p + place 16 m + place 13 x + place 0 imm)
  | .ldI64 d p m x imm => BitVec.ofNat 32 (0x48000000 + place 21 d + place 18 p + place 16 m + place 13 x + place 0 imm)
  | .ldp d p m x imm => BitVec.ofNat 32 (0x4C000000 + place 21 d + place 18 p + place 16 m + place 13 x + place 0 imm)
  | .st8 d p m x imm => BitVec.ofNat 32 (0x50000000 + place 21 d + place 18 p + place 16 m + place 13 x + place 0 imm)
  | .st16 d p m x imm => BitVec.ofNat 32 (0x54000000 + place 21 d + place 18 p + place 16 m + place 13 x + place 0 imm)
  | .st32 d p m x imm => BitVec.ofNat 32 (0x58000000 + place 21 d + place 18 p + place 16 m + place 13 x + place 0 imm)
  | .st64 d p m x imm => BitVec.ofNat 32 (0x5C000000 + place 21 d + place 18 p + place 16 m + place 13 x + place 0 imm)
  | .stp d p m x imm => BitVec.ofNat 32 (0x60000000 + place 21 d + place 18 p + place 16 m + place 13 x + place 0 imm)
  | .vld d p m x imm => BitVec.ofNat 32 (0x64000000 + place 21 d + place 18 p + place 16 m + place 13 x + place 0 imm)
  | .vst d p m x imm => BitVec.ofNat 32 (0x68000000 + place 21 d + place 18 p + place 16 m + place 13 x + place 0 imm)
  | .lda d a sel z x => BitVec.ofNat 32 (0x6C000000 + place 21 d + place 16 a + place 7 sel + place 4 z + place 0 x)
  | .stl a b sel z x => BitVec.ofNat 32 (0x6C000400 + place 16 a + place 11 b + place 7 sel + place 4 z + place 0 x)
  | .amoAdd d a b z x => BitVec.ofNat 32 (0x70000000 + place 21 d + place 16 a + place 11 b + place 5 z + place 0 x)
  | .amoAnd d a b z x => BitVec.ofNat 32 (0x70000080 + place 21 d + place 16 a + place 11 b + place 5 z + place 0 x)
  | .amoOr d a b z x => BitVec.ofNat 32 (0x70000100 + place 21 d + place 16 a + place 11 b + place 5 z + place 0 x)
  | .amoXor d a b z x => BitVec.ofNat 32 (0x70000180 + place 21 d + place 16 a + place 11 b + place 5 z + place 0 x)
  | .amoMin d a b z x => BitVec.ofNat 32 (0x70000200 + place 21 d + place 16 a + place 11 b + place 5 z + place 0 x)
  | .amoMax d a b z x => BitVec.ofNat 32 (0x70000280 + place 21 d + place 16 a + place 11 b + place 5 z + place 0 x)
  | .amoMinn d a b z x => BitVec.ofNat 32 (0x70000300 + place 21 d + place 16 a + place 11 b + place 5 z + place 0 x)
  | .amoMaxn d a b z x => BitVec.ofNat 32 (0x70000380 + place 21 d + place 16 a + place 11 b + place 5 z + place 0 x)
  | .amoSwap d a b z x => BitVec.ofNat 32 (0x70000400 + place 21 d + place 16 a + place 11 b + place 5 z + place 0 x)
  | .cas d a b z x => BitVec.ofNat 32 (0x70000480 + place 21 d + place 16 a + place 11 b + place 5 z + place 0 x)
  | .cas2 d a b x => BitVec.ofNat 32 (0x70000540 + place 21 d + place 16 a + place 11 b + place 0 x)
  | .famoAdd d a b z x => BitVec.ofNat 32 (0x70000580 + place 21 d + place 16 a + place 11 b + place 5 z + place 0 x)
  | .fence sel p q => BitVec.ofNat 32 (0x74000000 + place 8 sel + place 6 p + place 4 q)
  | .xfence sel p q => BitVec.ofNat 32 (0x74010000 + place 8 sel + place 5 p + place 2 q)
  | .wait l sel c t m => BitVec.ofNat 32 (0x78000000 + place 20 l + place 14 sel + place 9 c + place 4 t + place 0 m)
  | .waitkImm nhi k nlo => BitVec.ofNat 32 (0x7C000020 + place 9 nhi + place 6 k + place 0 nlo)
  | .waitkReg a k => BitVec.ofNat 32 (0x7C000000 + place 14 a + place 6 k)
  | .waitbImm nhi k nlo => BitVec.ofNat 32 (0x7C080020 + place 9 nhi + place 6 k + place 0 nlo)
  | .waitbReg a k => BitVec.ofNat 32 (0x7C080000 + place 14 a + place 6 k)
  | .kset a k => BitVec.ofNat 32 (0x7C100000 + place 14 a + place 6 k)
  | .kget a k => BitVec.ofNat 32 (0x7C180000 + place 14 a + place 6 k)
  | .trig a b k => BitVec.ofNat 32 (0x7C200000 + place 14 a + place 9 b + place 6 k)
  | .untrig b k => BitVec.ofNat 32 (0x7C280000 + place 9 b + place 6 k)
  | .bmov d a b => BitVec.ofNat 32 (0x98000000 + place 21 d + place 16 a + place 11 b)
  | .bset d a b => BitVec.ofNat 32 (0x98000001 + place 21 d + place 16 a + place 11 b)
  | .rpt a k => BitVec.ofNat 32 (0x98000002 + place 16 a + place 11 k)
  | .cpCopy a b k => BitVec.ofNat 32 (0xBC000000 + place 14 a + place 9 b + place 6 k)
  | .cpFill a b k => BitVec.ofNat 32 (0xBC080000 + place 14 a + place 9 b + place 6 k)
  | .cpRows a b k imm => BitVec.ofNat 32 (0xBC100000 + place 14 a + place 9 b + place 6 k + place 0 imm)
  | .cpScat a b k imm => BitVec.ofNat 32 (0xBC180000 + place 14 a + place 9 b + place 6 k + place 0 imm)
  | .tcfg a b c => BitVec.ofNat 32 (0xC0000000 + place 14 a + place 9 b + place 0 c)
  | .tdef a b c => BitVec.ofNat 32 (0xC0080000 + place 14 a + place 9 b + place 0 c)
  | .tfill a b k o c => BitVec.ofNat 32 (0xC0100000 + place 14 a + place 9 b + place 6 k + place 5 o + place 0 c)
  | .tdrain a b k o c => BitVec.ofNat 32 (0xC0180000 + place 14 a + place 9 b + place 6 k + place 5 o + place 0 c)
  | .trel a => BitVec.ofNat 32 (0xC0200000 + place 14 a)
  | .tstat a b => BitVec.ofNat 32 (0xC0280000 + place 14 a + place 9 b)
  | .tswap a b k => BitVec.ofNat 32 (0xC0300000 + place 14 a + place 9 b + place 6 k)
  | .join a b sel => BitVec.ofNat 32 (0xD4000000 + place 14 a + place 9 b + place 0 sel)
  | .leave b => BitVec.ofNat 32 (0xD4080000 + place 9 b)
  | .gbar b => BitVec.ofNat 32 (0xD4100000 + place 9 b)
  | .spawn a b => BitVec.ofNat 32 (0xD4180000 + place 14 a + place 9 b)
  | .tid a sel => BitVec.ofNat 32 (0xD4200000 + place 14 a + place 0 sel)
  | .done => BitVec.ofNat 32 (0xD4280000)
  | .mxMac u v t a b k sel c => BitVec.ofNat 32 (0xB4000000 + place 21 u + place 20 v + place 19 t + place 14 a + place 9 b + place 6 k + place 4 sel + place 0 c)
  | .mxMacb u v t a b k sel c => BitVec.ofNat 32 (0xB4400000 + place 21 u + place 20 v + place 19 t + place 14 a + place 9 b + place 6 k + place 4 sel + place 0 c)
  | .mxZero k c => BitVec.ofNat 32 (0xB4800000 + place 6 k + place 0 c)
  | .mxLd a k c => BitVec.ofNat 32 (0xB4C00000 + place 14 a + place 6 k + place 0 c)
  | .mxSt a k c => BitVec.ofNat 32 (0xB5000000 + place 14 a + place 6 k + place 0 c)
  | .mxHand k c => BitVec.ofNat 32 (0xB5400000 + place 6 k + place 0 c)
  | .mxRd v g c => BitVec.ofNat 32 (0xB5800000 + place 14 v + place 9 g + place 0 c)
  | .mxProg d => BitVec.ofNat 32 (0xB5C00000 + place 14 d)
  | .mxProgClr d b => BitVec.ofNat 32 (0xB5C00001 + place 14 d + place 9 b)
  | .mxSend a b k => BitVec.ofNat 32 (0xB6000000 + place 14 a + place 9 b + place 6 k)
  | .etw sel a n p => BitVec.ofNat 32 (0xB8000000 + place 22 sel + place 14 a + place 9 n + place 0 p)
  | .etr sel a n p => BitVec.ofNat 32 (0xBA000000 + place 22 sel + place 14 a + place 9 n + place 0 p)
  | .vaddF d a b q f => BitVec.ofNat 32 (0x9C000000 + place 21 d + place 16 a + place 11 b + place 8 q + place 0 f)
  | .vsubF d a b q f => BitVec.ofNat 32 (0x9C000020 + place 21 d + place 16 a + place 11 b + place 8 q + place 0 f)
  | .vmulF d a b q f => BitVec.ofNat 32 (0x9C000040 + place 21 d + place 16 a + place 11 b + place 8 q + place 0 f)
  | .vfma d a b q f => BitVec.ofNat 32 (0x9C000060 + place 21 d + place 16 a + place 11 b + place 8 q + place 0 f)
  | .vminF d a b q f => BitVec.ofNat 32 (0x9C000080 + place 21 d + place 16 a + place 11 b + place 8 q + place 0 f)
  | .vmaxF d a b q f => BitVec.ofNat 32 (0x9C0000A0 + place 21 d + place 16 a + place 11 b + place 8 q + place 0 f)
  | .vdiv d a b q f => BitVec.ofNat 32 (0x9C0000C0 + place 21 d + place 16 a + place 11 b + place 8 q + place 0 f)
  | .vsqrt d a q f => BitVec.ofNat 32 (0x9C0000E0 + place 21 d + place 16 a + place 8 q + place 0 f)
  | .vaddI d a b q f => BitVec.ofNat 32 (0xA0000000 + place 21 d + place 16 a + place 11 b + place 8 q + place 0 f)
  | .vsubI d a b q f => BitVec.ofNat 32 (0xA0000008 + place 21 d + place 16 a + place 11 b + place 8 q + place 0 f)
  | .vmulI d a b q f => BitVec.ofNat 32 (0xA0000010 + place 21 d + place 16 a + place 11 b + place 8 q + place 0 f)
  | .vminI d a b q f => BitVec.ofNat 32 (0xA0000018 + place 21 d + place 16 a + place 11 b + place 8 q + place 0 f)
  | .vmaxI d a b q f => BitVec.ofNat 32 (0xA0000020 + place 21 d + place 16 a + place 11 b + place 8 q + place 0 f)
  | .vabsI d a q f => BitVec.ofNat 32 (0xA0000028 + place 21 d + place 16 a + place 8 q + place 0 f)
  | .vnegI d a q f => BitVec.ofNat 32 (0xA0000030 + place 21 d + place 16 a + place 8 q + place 0 f)
  | .vand d a b q f => BitVec.ofNat 32 (0xA0000040 + place 21 d + place 16 a + place 11 b + place 8 q + place 0 f)
  | .vor d a b q f => BitVec.ofNat 32 (0xA0000048 + place 21 d + place 16 a + place 11 b + place 8 q + place 0 f)
  | .vxor d a b q f => BitVec.ofNat 32 (0xA0000050 + place 21 d + place 16 a + place 11 b + place 8 q + place 0 f)
  | .vshl d a b q f => BitVec.ofNat 32 (0xA0000060 + place 21 d + place 16 a + place 11 b + place 8 q + place 0 f)
  | .vshr d a b q f => BitVec.ofNat 32 (0xA0000068 + place 21 d + place 16 a + place 11 b + place 8 q + place 0 f)
  | .vsra d a b q f => BitVec.ofNat 32 (0xA0000070 + place 21 d + place 16 a + place 11 b + place 8 q + place 0 f)
  | .vexp2 d a q f => BitVec.ofNat 32 (0xA4000000 + place 21 d + place 16 a + place 8 q + place 0 f)
  | .vlog2 d a q f => BitVec.ofNat 32 (0xA4000800 + place 21 d + place 16 a + place 8 q + place 0 f)
  | .vrcp d a q f => BitVec.ofNat 32 (0xA4001000 + place 21 d + place 16 a + place 8 q + place 0 f)
  | .vrsqrt d a q f => BitVec.ofNat 32 (0xA4001800 + place 21 d + place 16 a + place 8 q + place 0 f)
  | .vtanh d a q f => BitVec.ofNat 32 (0xA4002000 + place 21 d + place 16 a + place 8 q + place 0 f)
  | .vabsF d a q f => BitVec.ofNat 32 (0xA4002800 + place 21 d + place 16 a + place 8 q + place 0 f)
  | .vnegF d a q f => BitVec.ofNat 32 (0xA4003000 + place 21 d + place 16 a + place 8 q + place 0 f)
  | .vcvt d a sel p f => BitVec.ofNat 32 (0xA4000020 + place 21 d + place 16 a + place 11 sel + place 8 p + place 0 f)
  | .vwiden d a sel p f => BitVec.ofNat 32 (0xA4000040 + place 21 d + place 16 a + place 11 sel + place 8 p + place 0 f)
  | .vnarrow d a sel p f => BitVec.ofNat 32 (0xA4000060 + place 21 d + place 16 a + place 11 sel + place 8 p + place 0 f)
  | .vcmp d a b q c f => BitVec.ofNat 32 (0xA8000000 + place 21 d + place 16 a + place 11 b + place 8 q + place 5 c + place 0 f)
  | .vbound d a b e => BitVec.ofNat 32 (0xA80000E0 + place 21 d + place 16 a + place 11 b + place 0 e)
  | .qand d a b => BitVec.ofNat 32 (0xA80000E4 + place 21 d + place 16 a + place 11 b)
  | .qor d a b => BitVec.ofNat 32 (0xA80000E5 + place 21 d + place 16 a + place 11 b)
  | .qxor d a b => BitVec.ofNat 32 (0xA80000E6 + place 21 d + place 16 a + place 11 b)
  | .qnot d a => BitVec.ofNat 32 (0xA80000E7 + place 21 d + place 16 a)
  | .qcnt d a e => BitVec.ofNat 32 (0xA80000E8 + place 21 d + place 16 a + place 0 e)
  | .qfirst d a e => BitVec.ofNat 32 (0xA80000EC + place 21 d + place 16 a + place 0 e)
  | .vmov d a q => BitVec.ofNat 32 (0xAC000000 + place 21 d + place 16 a + place 8 q)
  | .vdup d a q e => BitVec.ofNat 32 (0xAC000008 + place 21 d + place 16 a + place 8 q + place 0 e)
  | .vget d a b e => BitVec.ofNat 32 (0xAC000010 + place 21 d + place 16 a + place 11 b + place 0 e)
  | .vset d a b e => BitVec.ofNat 32 (0xAC000018 + place 21 d + place 16 a + place 11 b + place 0 e)
  | .vsel d a b sel => BitVec.ofNat 32 (0xAC000020 + place 21 d + place 16 a + place 11 b + place 8 sel)
  | .vperm d a b q e => BitVec.ofNat 32 (0xAC000028 + place 21 d + place 16 a + place 11 b + place 8 q + place 0 e)
  | .vzipLo d a b q e => BitVec.ofNat 32 (0xAC000030 + place 21 d + place 16 a + place 11 b + place 8 q + place 0 e)
  | .vzipHi d a b q e => BitVec.ofNat 32 (0xAC000038 + place 21 d + place 16 a + place 11 b + place 8 q + place 0 e)
  | .vunzipEven d a b q e => BitVec.ofNat 32 (0xAC000040 + place 21 d + place 16 a + place 11 b + place 8 q + place 0 e)
  | .vunzipOdd d a b q e => BitVec.ofNat 32 (0xAC000048 + place 21 d + place 16 a + place 11 b + place 8 q + place 0 e)
  | .vslideUp d a b q e => BitVec.ofNat 32 (0xAC000050 + place 21 d + place 16 a + place 11 b + place 8 q + place 0 e)
  | .vslideDn d a b q e => BitVec.ofNat 32 (0xAC000058 + place 21 d + place 16 a + place 11 b + place 8 q + place 0 e)
  | .vtrnEven d a b q e => BitVec.ofNat 32 (0xAC000060 + place 21 d + place 16 a + place 11 b + place 8 q + place 0 e)
  | .vtrnOdd d a b q e => BitVec.ofNat 32 (0xAC000068 + place 21 d + place 16 a + place 11 b + place 8 q + place 0 e)
  | .vsum d a f q => BitVec.ofNat 32 (0xAC000080 + place 21 d + place 16 a + place 11 f + place 8 q)
  | .vmaxr d a f q => BitVec.ofNat 32 (0xAC000088 + place 21 d + place 16 a + place 11 f + place 8 q)
  | .vminr d a f q => BitVec.ofNat 32 (0xAC000090 + place 21 d + place 16 a + place 11 f + place 8 q)
  | .vscan d a f q => BitVec.ofNat 32 (0xAC000098 + place 21 d + place 16 a + place 11 f + place 8 q)
  | .vwidth d e => BitVec.ofNat 32 (0xAC0000C0 + place 21 d + place 0 e)
  | .vldx d a b q z x => BitVec.ofNat 32 (0xB0000000 + place 21 d + place 16 a + place 11 b + place 8 q + place 3 z + place 0 x)
  | .vstx d a b q z x => BitVec.ofNat 32 (0xB0000020 + place 21 d + place 16 a + place 11 b + place 8 q + place 3 z + place 0 x)
  | .vldw d a b q z x => BitVec.ofNat 32 (0xB0000040 + place 21 d + place 16 a + place 11 b + place 8 q + place 3 z + place 0 x)
  | .vstw d a b q z x => BitVec.ofNat 32 (0xB0000060 + place 21 d + place 16 a + place 11 b + place 8 q + place 3 z + place 0 x)
  | .vldt d a b q z x => BitVec.ofNat 32 (0xB0000080 + place 21 d + place 16 a + place 11 b + place 8 q + place 3 z + place 0 x)
  | .vldtTile d a b q z => BitVec.ofNat 32 (0xB00000E0 + place 21 d + place 16 a + place 11 b + place 8 q + place 3 z)
  | .vbind d a k z => BitVec.ofNat 32 (0xB00000A0 + place 21 d + place 16 a + place 8 k + place 3 z)
  | .vfree d => BitVec.ofNat 32 (0xB00000C0 + place 21 d)
  | .snd a b c p => BitVec.ofNat 32 (0xC4000000 + place 14 a + place 9 b + place 6 c + place 0 p)
  | .sndv a b c h => BitVec.ofNat 32 (0xC4080000 + place 14 a + place 9 b + place 6 c + place 0 h)
  | .sndz a v k f x => BitVec.ofNat 32 (0xC4100000 + place 14 a + place 9 v + place 6 k + place 5 f + place 0 x)
  | .lbk a => BitVec.ofNat 32 (0xC4180000 + place 14 a)
  | .nmc x sel k r h => BitVec.ofNat 32 (0xC4200000 + place 14 x + place 9 sel + place 6 k + place 5 r + place 0 h)
  | .ngt x sel k r h => BitVec.ofNat 32 (0xC4280000 + place 14 x + place 9 sel + place 6 k + place 5 r + place 0 h)
  | .nsc x sel k r h => BitVec.ofNat 32 (0xC4300000 + place 14 x + place 9 sel + place 6 k + place 5 r + place 0 h)
  | .na2a x sel k r h => BitVec.ofNat 32 (0xC4380000 + place 14 x + place 9 sel + place 6 k + place 5 r + place 0 h)
  | .coll d sel k o t => BitVec.ofNat 32 (0xC8000000 + place 14 d + place 9 sel + place 6 k + place 4 o + place 0 t)
  | .ccfg b t => BitVec.ofNat 32 (0xC8080000 + place 9 b + place 0 t)
  | .treplay h b => BitVec.ofNat 32 (0xCC000000 + place 14 h + place 9 b)
  | .tfree h => BitVec.ofNat 32 (0xCC080000 + place 14 h)
  | .tinfo d h w => BitVec.ofNat 32 (0xCC100000 + place 14 d + place 9 h + place 0 w)
  | .xpostTx b k => BitVec.ofNat 32 (0xE0000000 + place 9 b + place 6 k)
  | .xpostRx b k => BitVec.ofNat 32 (0xE0000001 + place 9 b + place 6 k)
  | .xfetch b k => BitVec.ofNat 32 (0xE0080000 + place 9 b + place 6 k)
  | .xpath d e => BitVec.ofNat 32 (0xE0100000 + place 14 d + place 9 e)
  | .stvMap a k => BitVec.ofNat 32 (0xD0000000 + place 14 a + place 6 k)
  | .stvInit a k => BitVec.ofNat 32 (0xD0080000 + place 14 a + place 6 k)
  | .stvGate a k => BitVec.ofNat 32 (0xD0100000 + place 14 a + place 6 k)
  | .stvSwap a b k => BitVec.ofNat 32 (0xD0180000 + place 14 a + place 9 b + place 6 k)
  | .stvProb a b k c => BitVec.ofNat 32 (0xD0200000 + place 14 a + place 9 b + place 6 k + place 0 c)
  | .stvFix a b k c => BitVec.ofNat 32 (0xD0280000 + place 14 a + place 9 b + place 6 k + place 0 c)
  | .stvNorm a k => BitVec.ofNat 32 (0xD0300000 + place 14 a + place 6 k)
  | .stvAmp a b k => BitVec.ofNat 32 (0xD0380000 + place 14 a + place 9 b + place 6 k)
  | .crr d c => BitVec.ofNat 32 (0x90000000 + place 21 d + place 5 c)
  | .crw a c => BitVec.ofNat 32 (0x90000001 + place 16 a + place 5 c)
  | .crs d a c => BitVec.ofNat 32 (0x90000002 + place 21 d + place 16 a + place 5 c)
  | .crc d a c => BitVec.ofNat 32 (0x90000003 + place 21 d + place 16 a + place 5 c)
  | .trap n => BitVec.ofNat 32 (0x94000000 + place 0 n)
  | .brk n => BitVec.ofNat 32 (0x94010000 + place 0 n)
  | .eret => BitVec.ofNat 32 (0x94020000)
  | .idle a sel b => BitVec.ofNat 32 (0x94030000 + place 11 a + place 8 sel + place 0 b)
  | .safe n => BitVec.ofNat 32 (0x94040000 + place 0 n)
  | .halt => BitVec.ofNat 32 (0x94050000)
  | .tlbi c sel z a => BitVec.ofNat 32 (0x94200000 + place 11 c + place 8 sel + place 4 z + place 0 a)
  | .tlbiCtx c sel => BitVec.ofNat 32 (0x94200008 + place 11 c + place 8 sel)
  | .tlbsync sel => BitVec.ofNat 32 (0x94210000 + place 8 sel)
  | .alloy d n => BitVec.ofNat 32 (0xD8000000 + place 11 d + place 0 n)
  | .part => BitVec.ofNat 32 (0xD8010000)
  | .astat d => BitVec.ofNat 32 (0xD8020000 + place 11 d)
  | .trc a t => BitVec.ofNat 32 (0xDC000000 + place 11 a + place 0 t)
  | .pcmEn e => BitVec.ofNat 32 (0xDC010000 + place 0 e)
  | .pcmDis e => BitVec.ofNat 32 (0xDC020000 + place 0 e)
  | .pcmRet => BitVec.ofNat 32 (0xDC030000)
  | .add d a b => BitVec.ofNat 32 (0x04000000 + place 21 d + place 16 a + place 11 b)
  | .sub d a b => BitVec.ofNat 32 (0x04000001 + place 21 d + place 16 a + place 11 b)
  | .and d a b => BitVec.ofNat 32 (0x04000002 + place 21 d + place 16 a + place 11 b)
  | .or d a b => BitVec.ofNat 32 (0x04000003 + place 21 d + place 16 a + place 11 b)
  | .xor d a b => BitVec.ofNat 32 (0x04000004 + place 21 d + place 16 a + place 11 b)
  | .andn d a b => BitVec.ofNat 32 (0x04000005 + place 21 d + place 16 a + place 11 b)
  | .orn d a b => BitVec.ofNat 32 (0x04000006 + place 21 d + place 16 a + place 11 b)
  | .sll d a b => BitVec.ofNat 32 (0x04000008 + place 21 d + place 16 a + place 11 b)
  | .srl d a b => BitVec.ofNat 32 (0x04000009 + place 21 d + place 16 a + place 11 b)
  | .sra d a b => BitVec.ofNat 32 (0x0400000A + place 21 d + place 16 a + place 11 b)
  | .rol d a b => BitVec.ofNat 32 (0x0400000B + place 21 d + place 16 a + place 11 b)
  | .ror d a b => BitVec.ofNat 32 (0x0400000C + place 21 d + place 16 a + place 11 b)
  | .slt d a b => BitVec.ofNat 32 (0x04000010 + place 21 d + place 16 a + place 11 b)
  | .sltn d a b => BitVec.ofNat 32 (0x04000011 + place 21 d + place 16 a + place 11 b)
  | .min d a b => BitVec.ofNat 32 (0x04000012 + place 21 d + place 16 a + place 11 b)
  | .max d a b => BitVec.ofNat 32 (0x04000013 + place 21 d + place 16 a + place 11 b)
  | .minn d a b => BitVec.ofNat 32 (0x04000014 + place 21 d + place 16 a + place 11 b)
  | .maxn d a b => BitVec.ofNat 32 (0x04000015 + place 21 d + place 16 a + place 11 b)
  | .clz d a => BitVec.ofNat 32 (0x04000020 + place 21 d + place 16 a)
  | .ctz d a => BitVec.ofNat 32 (0x04000021 + place 21 d + place 16 a)
  | .pop d a => BitVec.ofNat 32 (0x04000022 + place 21 d + place 16 a)
  | .sext8 d a => BitVec.ofNat 32 (0x04000028 + place 21 d + place 16 a)
  | .sext16 d a => BitVec.ofNat 32 (0x04000029 + place 21 d + place 16 a)
  | .sext32 d a => BitVec.ofNat 32 (0x0400002A + place 21 d + place 16 a)
  | .zext8 d a => BitVec.ofNat 32 (0x0400002C + place 21 d + place 16 a)
  | .zext16 d a => BitVec.ofNat 32 (0x0400002D + place 21 d + place 16 a)
  | .zext32 d a => BitVec.ofNat 32 (0x0400002E + place 21 d + place 16 a)
  | .bswap d a => BitVec.ofNat 32 (0x04000030 + place 21 d + place 16 a)
  | .addi d a imm => BitVec.ofNat 32 (0x08000000 + place 21 d + place 16 a + place 0 imm)
  | .andi d a imm => BitVec.ofNat 32 (0x0C000000 + place 21 d + place 16 a + place 0 imm)
  | .ori d a imm => BitVec.ofNat 32 (0x10000000 + place 21 d + place 16 a + place 0 imm)
  | .xori d a imm => BitVec.ofNat 32 (0x14000000 + place 21 d + place 16 a + place 0 imm)
  | .slli d a h => BitVec.ofNat 32 (0x20000000 + place 21 d + place 16 a + place 0 h)
  | .srli d a h => BitVec.ofNat 32 (0x20001000 + place 21 d + place 16 a + place 0 h)
  | .srai d a h => BitVec.ofNat 32 (0x20002000 + place 21 d + place 16 a + place 0 h)
  | .slti d a imm => BitVec.ofNat 32 (0x20004000 + place 21 d + place 16 a + place 0 imm)
  | .sltni d a imm => BitVec.ofNat 32 (0x20005000 + place 21 d + place 16 a + place 0 imm)
  | .mul d a b => BitVec.ofNat 32 (0x24000000 + place 21 d + place 16 a + place 11 b)
  | .mulh d a b => BitVec.ofNat 32 (0x24000001 + place 21 d + place 16 a + place 11 b)
  | .mulhn d a b => BitVec.ofNat 32 (0x24000002 + place 21 d + place 16 a + place 11 b)
  | .div d a b => BitVec.ofNat 32 (0x24000004 + place 21 d + place 16 a + place 11 b)
  | .divn d a b => BitVec.ofNat 32 (0x24000005 + place 21 d + place 16 a + place 11 b)
  | .rem d a b => BitVec.ofNat 32 (0x24000006 + place 21 d + place 16 a + place 11 b)
  | .remn d a b => BitVec.ofNat 32 (0x24000007 + place 21 d + place 16 a + place 11 b)
  | .padd d a b => BitVec.ofNat 32 (0x28000000 + place 21 d + place 16 a + place 11 b)
  | .pset d a b => BitVec.ofNat 32 (0x28000001 + place 21 d + place 16 a + place 11 b)
  | .pget d a => BitVec.ofNat 32 (0x28000002 + place 21 d + place 16 a)
  | .pgeth d a => BitVec.ofNat 32 (0x28000003 + place 21 d + place 16 a)
  | .pdiff d a b => BitVec.ofNat 32 (0x28000004 + place 21 d + place 16 a + place 11 b)
  | .undefinedWord w => w
  | .invalidate _ => 0#32
  | .invalidateAck _ => 0#32
  | .homePerform _ => 0#32
  | .remoteRequest _ => 0#32
  | .remoteReply _ => 0#32
  | .remoteTimeout _ => 0#32
  | .storeAck _ => 0#32
  | .messageArrival _ => 0#32
  | .messageAck _ => 0#32
  | .messageRetry _ => 0#32
  | .messageSelect _ => 0#32
  | .messageAging _ => 0#32
  | .hotnessDecay _ => 0#32
  | .hotcfgClr _ => 0#32
  | .hotcfgClearDone _ => 0#32
  | .migStart _ _ => 0#32
  | .migCommit _ _ => 0#32
  | .migRelease _ _ => 0#32
  | .migAbort _ _ => 0#32
  | .migGranuleCopied _ _ => 0#32
  | .migCopyError _ _ _ => 0#32
  | .parkcfgApply _ => 0#32
  | .exbWrite _ _ => 0#32
  | .ctxalwWrite _ _ => 0#32
  | .epcfgWrite _ _ _ => 0#32
  | .engineCompletion _ => 0#32
  | .barrierArrival _ => 0#32
  | .tileFillComplete _ => 0#32
  | .tileDrainComplete _ => 0#32
  | .tswapExchange _ => 0#32
  | .tswapTimeout _ => 0#32
  | .preemptRequest _ _ => 0#32
  | .forcedStop _ _ => 0#32
  | .parkres _ _ => 0#32
  | .slotctlResume _ _ => 0#32
  | .slotctlDiscard _ _ => 0#32
  | .ibxpop _ => 0#32
  | .ibxEnd _ => 0#32
  | .launch _ => 0#32
  | .launchDistribute _ => 0#32
  | .heldLaunchReread _ => 0#32
  | .freeSlotPublish _ => 0#32
  | .teamMigration _ _ _ _ => 0#32
  | .alloyFormed _ _ => 0#32
  | .alloyTimeout _ _ => 0#32
  | .alloyMemberFree _ => 0#32
  | .streamChunkArrival _ _ _ => 0#32
  | .dispatchServe _ _ => 0#32
  | .mxSendArrival _ => 0#32
  | .swageCommandStart _ => 0#32
  | .collContribution _ => 0#32
  | .collTimeout _ => 0#32
  | .sndzArrival _ => 0#32
  | .ethPacketArrival _ _ _ _ _ _ _ _ => 0#32
  | .ethTimeout _ => 0#32
  | .hostBar0Write _ _ _ => 0#32
  | .flitReceive _ _ _ _ _ => 0#32
  | .nakReceive _ _ _ => 0#32
  | .ackTimeout _ _ => 0#32
  | .laneFailure _ _ _ => 0#32
  | .retrainComplete _ _ => 0#32
  | .declaredUnreachable _ => 0#32
  | .moduleRejoin _ => 0#32
  | .heaterRetune _ _ _ _ => 0#32
  | .spareTuned _ _ => 0#32
  | .ocsAnnounce _ _ => 0#32
  | .ocsQuiesced _ _ => 0#32
  | .ocsRelock _ _ => 0#32
  | .ocsTableSwap _ _ => 0#32
  | .ocsDarkTimeout _ _ => 0#32
  | .assign _ => 0#32
  | .retire _ => 0#32
  | .switch _ => 0#32
  | .quote _ => 0#32
  | .health _ => 0#32
  | .moduleReset _ => 0#32
  | .sramScrub _ => 0#32
  | .hbmPatrolScrub _ => 0#32
  | .registerParityError _ _ _ => 0#32
  | .unitFailure _ _ => 0#32
  | .acctBoundary _ => 0#32
  | .traceSample _ => 0#32
  | .trcptrWrite _ => 0#32
  | .idleRecheck _ _ => 0#32
  | .registerWrite _ _ _ _ => 0#32
  | .keptCopyDropped _ => 0#32
  | .hbmChannelRetired _ _ => 0#32

/-- The instruction a fetched word runs: the row it decodes to, or the step of an undefined word, which traps (R203). -/
noncomputable def instrOfWord (w : BitVec 32) : Instr :=
  match decodeWord w with
  | .ok i => i
  | .error _ => .undefinedWord w

/-- A word as the hardware stores it: four bytes, the least significant at the lowest address (R6, R198). -/
def wordBytes (w : BitVec 32) : List (BitVec 8) :=
  [field w 0 8, field w 8 8, field w 16 8, field w 24 8]

/-- The word that four bytes hold, the lowest address first. -/
def wordOfBytes (b0 b1 b2 b3 : BitVec 8) : BitVec 32 :=
  BitVec.ofNat 32 (b0.toNat + b1.toNat * 2 ^ 8 + b2.toNat * 2 ^ 16 + b3.toNat * 2 ^ 24)

/-- The decoder over the bytes of memory: the instruction at their head and the bytes after it; fewer than four bytes
hold no word. -/
noncomputable def decodeBytes : List (BitVec 8) → Option (Except DecodeError Instr × List (BitVec 8))
  | b0 :: b1 :: b2 :: b3 :: rest => some (decodeWord (wordOfBytes b0 b1 b2 b3), rest)
  | _ => none

/-- The instruction the decoder reads from the bits that the opcode table numbers: one word, bits above `nbits` zero,
laid out as its four bytes. -/
noncomputable def decodeTableWord (nbits w : Nat) : Option Instr :=
  match decodeBytes (wordBytes (BitVec.ofNat 32 (w % 2 ^ nbits))) with
  | some (.ok i, _) => some i
  | _ => none

end Sys2Proof
end

