-- ==== Sys2Proof/Config.lean ====
section
/-! DEFINITION. What an implementation fixes and the spec leaves open: constants without a body, so that nothing can be
proved of their values. Each stands in the assumption log. -/

namespace Sys2Proof.Config

/-- Plaintext that a unit of HBM nothing has written reads as, by the unit's number, byte and reading key (R75, log 4). -/
opaque hbmUnwritten (unit : Nat) (offset : Nat) (key : Nat × Nat) : BitVec 8

/-- Plaintext of a byte of a unit written under one key and read under another (R75, log 5): the unit, the two keys, the
64 bytes as they were written, the byte asked for. -/
opaque wrongKey (unit : Nat) (written reading : Nat × Nat) (plain : List (BitVec 8)) (offset : Nat) : BitVec 8

/-- What a byte of host memory holds at reset (R16, log 4). -/
opaque hostMemory (address : Nat) : BitVec 8

/-- What the hash of R72 gives a 256-byte unit of a die's HBM, as it stands after the interleave has been formed so often; the
channel is one of those in use (log 18). -/
opaque channelHash (die formed unit : Nat) : Nat

/-- CRC-64 and forward error correction of a flit (R404, log 24). -/
opaque crc64 (bytes : List (BitVec 8)) : BitVec 64
opaque fec (bytes : List (BitVec 8)) : BitVec 48

/-- A byte of the payload of a flit (R404): the spec gives packets no format (log 24). -/
opaque packetByte (flit index : Nat) : BitVec 8

/-- The order in which the local ports of a module's router lead to the other modules of its group (R403, log 24). -/
opaque localOrder (module : Nat) : Nat

/-- The free value with this number: one that the spec leaves open and on which the machine goes on (log 18). -/
opaque freeWord (n : Nat) : BitVec 64

/-- A choice among `n` that the spec leaves to the part (log 18). -/
opaque freeChoice (n k : Nat) : Nat

/-- A byte of a signature, a measurement or a public key of the hallmark core (R417, R421, R422, log 17). -/
opaque trustByte (what index : Nat) : BitVec 8

/-- The telemetry gauges of a die (R415, log 18): what they hold at a time. -/
opaque gauge (die entry now : Nat) : BitVec 64

/-- Whether a port of a die's mesh has a link (R430, log 26): the spec gives the tiles and not their places. -/
opaque meshLink (die port : Nat) : Bool

/-- What an endpoint holds for a path before it has sent a packet there (R351, log 18): 0 the round-trip time, 1 the marks of the last
64 packets, 2 the send allowance. -/
opaque pathState (endpoint path part : Nat) : BitVec 64

end Sys2Proof.Config
end

