-- ==== Sys2Proof/Machine/Float.lean ====
section
/-! DEFINITION. Numbers: the formats of R179-R184 and the rounding of R185-R190. A value is exact: a sign, a natural
significand and a power of two, with a mark when a strictly positive amount below one unit of the significand is left
off (a quotient, a root, a transcendental). Every operation forms its exact value first and rounds it once. -/

namespace Sys2Proof.Float

/-- The status flags of R190, in the bit order of R192. -/
abbrev Flags := BitVec 6

def INV : Flags := 1#6
def DZ : Flags := 2#6
def OVF : Flags := 4#6
def UNF : Flags := 8#6
def INX : Flags := 16#6
def IOV : Flags := 32#6

/-- How a format is read (R179). -/
inductive Kind where
  /-- Unsigned integer. -/
  | nat
  /-- Two's-complement integer. -/
  | int
  /-- IEEE layout: sign, exponent, fraction, infinities and NaN (binary16, 32, 64, BF16, A36). -/
  | ieee
  /-- Signed binary8 (R181). -/
  | signed8
  /-- Unsigned binary8 (R182). -/
  | unsigned8
deriving DecidableEq, Repr

/-- A number format: its bits in all, its exponent and fraction bits and its bias. -/
structure Fmt where
  kind : Kind
  bits : Nat
  expBits : Nat
  frac : Nat
  bias : Nat
deriving DecidableEq, Repr

/-- The real formats of R179 and R183 by code; complex and reserved codes name none. -/
def fmtOf (code : Nat) : Option Fmt :=
  if code = 0 then some ⟨.nat, 8, 0, 0, 0⟩
  else if code = 1 then some ⟨.int, 8, 0, 0, 0⟩
  else if code = 2 then some ⟨.nat, 16, 0, 0, 0⟩
  else if code = 3 then some ⟨.int, 16, 0, 0, 0⟩
  else if code = 4 then some ⟨.nat, 32, 0, 0, 0⟩
  else if code = 5 then some ⟨.int, 32, 0, 0, 0⟩
  else if code = 6 then some ⟨.nat, 64, 0, 0, 0⟩
  else if code = 7 then some ⟨.int, 64, 0, 0, 0⟩
  else if code = 8 then some ⟨.ieee, 16, 8, 7, 127⟩
  else if code = 9 then some ⟨.ieee, 16, 5, 10, 15⟩
  else if code = 10 then some ⟨.ieee, 32, 8, 23, 127⟩
  else if code = 11 then some ⟨.ieee, 64, 11, 52, 1023⟩
  else if code = 14 then some ⟨.ieee, 36, 8, 27, 127⟩
  else if 0x11 ≤ code ∧ code ≤ 0x17 then
    some ⟨.signed8, 8, 8 - (code - 0x10), code - 0x11, 2 ^ (7 - (code - 0x10))⟩
  else if 0x19 ≤ code ∧ code ≤ 0x1F then
    some ⟨.unsigned8, 8, 9 - (code - 0x18), code - 0x19, 2 ^ (8 - (code - 0x18))⟩
  else none

def f32 : Fmt := ⟨.ieee, 32, 8, 23, 127⟩
def f64 : Fmt := ⟨.ieee, 64, 11, 52, 1023⟩
def bf16 : Fmt := ⟨.ieee, 16, 8, 7, 127⟩
def a36 : Fmt := ⟨.ieee, 36, 8, 27, 127⟩

/-- Bytes of an element in memory (R179, R183); 0 for a reserved code. -/
def fmtBytes (code : Nat) : Nat :=
  if code ≤ 1 then 1 else if code ≤ 3 then 2 else if code ≤ 5 then 4 else if code ≤ 7 then 8
  else if code ≤ 9 then 2 else if code = 10 then 4 else if code = 11 then 8 else if code = 12 then 8
  else if code = 13 then 16 else if code = 14 then 8
  else if 0x11 ≤ code ∧ code ≤ 0x17 then 1 else if 0x19 ≤ code ∧ code ≤ 0x1F then 1 else 0

def isInt (code : Nat) : Bool := code ≤ 7

/-- The floating-point formats of R247: BF16, binary16, 32, 64 and the binary8 codes. -/
def isFloatCode (code : Nat) : Bool :=
  (8 ≤ code && code ≤ 11) || (0x11 ≤ code && code ≤ 0x17) || (0x19 ≤ code && code ≤ 0x1F)

/-- An exact value (R185). `fin neg m e sticky` is ±m·2^e, or, with `sticky`, a value strictly between that and
±(m + 1)·2^e. `nan true` is a NaN that sets INV where it is read as a number (R189): a signalling NaN, or the NaN of a
binary8 format. -/
inductive Val where
  | nan (signalling : Bool)
  | inf (neg : Bool)
  | fin (neg : Bool) (m : Nat) (e : Int) (sticky : Bool)
deriving DecidableEq, Repr

def Val.zero (neg : Bool) : Val := .fin neg 0 0 false

def Val.isNan : Val → Bool
  | .nan _ => true
  | _ => false

def Val.signalling : Val → Bool
  | .nan b => b
  | _ => false

def Val.isZero : Val → Bool
  | .fin _ 0 _ false => true
  | _ => false

def Val.neg : Val → Bool
  | .nan _ => false
  | .inf n => n
  | .fin n _ _ _ => n

def Val.negate : Val → Val
  | .nan b => .nan b
  | .inf n => .inf (!n)
  | .fin n m e s => .fin (!n) m e s

/-- INV when a value read as a number is a signalling NaN (R189). -/
def invOf (x : Val) : Flags := if x.signalling then INV else 0

/-- The number of bits of a natural number. -/
def bitLen (n : Nat) : Nat := if n = 0 then 0 else Nat.log2 n + 1

/-- The value of an integer. -/
def ofInt (i : Int) : Val := .fin (i < 0) i.natAbs 0 false

/-- The signed reading of the low `bits` bits of a code. -/
def signedOf (bits code : Nat) : Int :=
  let c := code % 2 ^ bits
  if 2 ^ (bits - 1) ≤ c then (c : Int) - (2 ^ bits : Nat) else c

/-- The magnitude that a code of exponent and fraction bits holds: its significand and exponent. -/
def magnitude (f : Fmt) (c : Nat) : Nat × Int :=
  let q0 : Int := 1 - (f.bias : Int) - f.frac
  if c < 2 ^ f.frac then (c, q0) else (2 ^ f.frac + c % 2 ^ f.frac, q0 + (c / 2 ^ f.frac : Nat) - 1)

/-- R179-R184: the exact value of a code. `inf8` enables the infinities of the binary8 formats. -/
def unpack (f : Fmt) (inf8 : Bool) (code : Nat) : Val :=
  let c := code % 2 ^ f.bits
  match f.kind with
  | .nat => .fin false c 0 false
  | .int => ofInt (signedOf f.bits c)
  | .ieee =>
    let neg := decide (2 ^ (f.bits - 1) ≤ c)
    let r := c % 2 ^ (f.bits - 1)
    let ex := r / 2 ^ f.frac
    if ex = 2 ^ f.expBits - 1 then
      if r % 2 ^ f.frac = 0 then .inf neg else .nan (decide (r % 2 ^ f.frac < 2 ^ (f.frac - 1)))
    else
      let p := magnitude f r
      .fin neg p.1 p.2 false
  | .signed8 =>
    if c = 0x80 then .nan true
    else if inf8 && c % 128 = 0x7F then .inf (decide (128 ≤ c))
    else
      let p := magnitude f (c % 128)
      .fin (decide (128 ≤ c)) p.1 p.2 false
  | .unsigned8 =>
    if c = 0xFF then .nan true
    else if inf8 && c = 0xFE then .inf false
    else
      let p := magnitude f c
      .fin false p.1 p.2 false

/-- R189: the canonical NaN. -/
def nanCode (f : Fmt) : Nat :=
  match f.kind with
  | .ieee => (2 ^ f.expBits - 1) * 2 ^ f.frac + 2 ^ (f.frac - 1)
  | .signed8 => 0x80
  | .unsigned8 => 0xFF
  | _ => 0

/-- The code of the largest finite magnitude (R181, R182). -/
def maxCode (f : Fmt) (inf8 : Bool) : Nat :=
  match f.kind with
  | .ieee => (2 ^ f.expBits - 1) * 2 ^ f.frac - 1
  | .signed8 => if inf8 then 0x7E else 0x7F
  | .unsigned8 => if inf8 then 0xFD else 0xFE
  | _ => 0

/-- The format has an infinity (R188). -/
def hasInf (f : Fmt) (inf8 : Bool) : Bool :=
  match f.kind with
  | .ieee => true
  | .signed8 => inf8
  | .unsigned8 => inf8
  | _ => false

/-- The code of the infinity, where there is one. -/
def infCode (f : Fmt) : Nat :=
  match f.kind with
  | .ieee => (2 ^ f.expBits - 1) * 2 ^ f.frac
  | .signed8 => 0x7F
  | _ => 0xFE

/-- A magnitude's code with its sign. Binary8 has no negative zero and the unsigned formats no sign (R181, R182). -/
def withSign (f : Fmt) (neg : Bool) (c : Nat) : Nat :=
  match f.kind with
  | .ieee => if neg then c + 2 ^ (f.bits - 1) else c
  | .signed8 => if neg && c != 0 then c + 128 else c
  | _ => c

/-- R186: whether a value left at a code `k` with `rem` of `2 ^ d` and a sticky rest rounds away from zero. -/
def roundsUp (mode rho : Nat) (neg : Bool) (k rem d : Nat) (sticky : Bool) : Bool :=
  let half := 2 ^ d
  let inexact := rem ≠ 0 || sticky
  if mode = 0 then
    decide (half < 2 * rem) || (decide (half = 2 * rem) && (sticky || k % 2 = 1))
  else if mode = 1 then false
  else if mode = 2 then !neg && inexact
  else if mode = 3 then neg && inexact
  else if mode = 4 then decide (rho < 256 * rem / 2 ^ d)
  else decide (half < 2 * rem) || (decide (half = 2 * rem) && (sticky || k % 2 = 1))

/-- R186: a significand brought to the quantum `2 ^ q`: the rounded integer, and whether it is inexact. The code of the result is that integer above
`base`, whose parity counts where a format has no fraction bit: its ties go to the even code (log 34). -/
def roundAt (mode rho : Nat) (neg : Bool) (m : Nat) (e q : Int) (sticky : Bool) (base : Nat) : Nat × Bool :=
  if q ≤ e then (m * 2 ^ (e - q).toNat, sticky)
  else
    let d := (q - e).toNat
    let k := m / 2 ^ d
    let rem := m % 2 ^ d
    let up := roundsUp mode rho neg (base + k) rem d sticky
    (if up then k + 1 else k, rem ≠ 0 || sticky)

/-- R189: an integer result of a rounded value. Out of range gives the nearest limit with INV, NaN gives 0 with INV. -/
def roundInt (f : Fmt) (mode rho : Nat) (x : Val) : Nat × Flags :=
  let lo : Int := if f.kind = .int then -(2 ^ (f.bits - 1) : Nat) else 0
  let hi : Int := if f.kind = .int then (2 ^ (f.bits - 1) : Nat) - 1 else (2 ^ f.bits : Nat) - 1
  let code (i : Int) : Nat := (i % (2 ^ f.bits : Nat)).toNat
  match x with
  | .nan _ => (0, INV)
  | .inf neg => (code (if neg then lo else hi), INV)
  | .fin neg m e sticky =>
    if m = 0 && !sticky then (0, 0)
    else
      -- beyond 2^80 every value is out of range, whatever its low bits
      if (80 : Int) < e + bitLen m then (code (if neg then lo else hi), INV)
      else
        let r := roundAt mode rho neg m e 0 sticky 0
        let v : Int := if neg then -(r.1 : Int) else r.1
        if v < lo then (code lo, INV)
        else if hi < v then (code hi, INV)
        else (code v, if r.2 then INX else 0)

/-- R182, R185-R190: the exact value rounded once to a floating-point format. -/
def roundFloat (f : Fmt) (inf8 : Bool) (mode : Nat) (sat : Bool) (rho : Nat) (x : Val) : Nat × Flags :=
  match x with
  | .nan _ => (nanCode f, 0)
  | .inf neg =>
    if f.kind = .unsigned8 && neg then (if sat then (0, INX) else (nanCode f, INV))
    else if hasInf f inf8 then (withSign f neg (infCode f), 0)
    else if sat then (withSign f neg (maxCode f inf8), INX)
    else (nanCode f, INV)
  | .fin neg m e sticky =>
    if m = 0 && !sticky then (withSign f neg 0, 0)
    else
      let q0 : Int := 1 - (f.bias : Int) - f.frac
      let top : Int := e + bitLen m - 1
      let q : Int := if q0 ≤ top - f.frac then top - f.frac else q0
      let base := (q - q0).toNat * 2 ^ f.frac
      let r := roundAt mode rho neg m e q sticky base
      let c := base + r.1
      let inx : Flags := if r.2 then INX else 0
      let tiny : Bool := decide (top < q0 + f.frac)
      let unf : Flags := if r.2 && tiny then UNF else 0
      if f.kind = .unsigned8 && neg then
        if c = 0 then (0, inx ||| unf)
        else if sat then (0, INX ||| (if tiny then UNF else 0))
        else (nanCode f, INV)
      else if c ≤ maxCode f inf8 then (withSign f neg c, inx ||| unf)
      else
        let largest := withSign f neg (maxCode f inf8)
        if sat then (largest, OVF ||| INX)
        else
          match f.kind with
          | .ieee =>
            let infinite := withSign f neg (infCode f)
            let away : Bool := mode = 0 || mode = 4 || 5 ≤ mode || (mode = 2 && !neg) || (mode = 3 && neg)
            (if away then infinite else largest, OVF ||| INX)
          | _ =>
            if inf8 then (withSign f neg (infCode f), OVF ||| INX) else (nanCode f, OVF ||| INX ||| INV)

/-- R185, R189: the exact value rounded once to any format. -/
def round (f : Fmt) (inf8 : Bool) (mode : Nat) (sat : Bool) (rho : Nat) (x : Val) : Nat × Flags :=
  match f.kind with
  | .nat => roundInt f mode rho x
  | .int => roundInt f mode rho x
  | _ => roundFloat f inf8 mode sat rho x

/-- The exact value of a signed integer times a power of two, with the sign of an exact zero as IEEE 754 gives it:
negative only when both operands are, or under RDN when their signs differ. -/
def ofScaled (i : Int) (e : Int) (zeroNeg : Bool) : Val :=
  if i = 0 then .zero zeroNeg else .fin (i < 0) i.natAbs e false

/-- The signed significand of a finite value at the exponent `q ≤ e`. -/
def scaledAt (neg : Bool) (m : Nat) (e q : Int) : Int :=
  let k := m * 2 ^ (e - q).toNat
  if neg then -(k : Int) else k

/-- R185, R189: the exact sum, with INV for ∞ − ∞ and for a signalling NaN. -/
def add (mode : Nat) (x y : Val) : Val × Flags :=
  let nanInv := invOf x ||| invOf y
  match x, y with
  | .nan _, _ => (.nan false, nanInv)
  | _, .nan _ => (.nan false, nanInv)
  | .inf a, .inf b => if a = b then (.inf a, 0) else (.nan false, INV)
  | .inf a, _ => (.inf a, 0)
  | _, .inf b => (.inf b, 0)
  | .fin a m e _, .fin b n g _ =>
    if m = 0 && n = 0 then (.zero (if a = b then a else mode = 3), 0)
    else if m = 0 then (.fin b n g false, 0)
    else if n = 0 then (.fin a m e false, 0)
    else
      let q := if e ≤ g then e else g
      (ofScaled (scaledAt a m e q + scaledAt b n g q) q (mode = 3), 0)

/-- R185, R189: the exact product, with INV for 0 · ∞. -/
def mul (x y : Val) : Val × Flags :=
  let nanInv := invOf x ||| invOf y
  match x, y with
  | .nan _, _ => (.nan false, nanInv)
  | _, .nan _ => (.nan false, nanInv)
  | .inf a, .inf b => (.inf (a != b), 0)
  | .inf a, .fin b n _ _ => if n = 0 then (.nan false, INV) else (.inf (a != b), 0)
  | .fin a m _ _, .inf b => if m = 0 then (.nan false, INV) else (.inf (a != b), 0)
  | .fin a m e _, .fin b n g _ => (.fin (a != b) (m * n) (e + g) false, 0)

/-- R185, R189: the exact z + x · y. A 0 · ∞ sets INV whatever the addend. -/
def fma (mode : Nat) (z x y : Val) : Val × Flags :=
  let p := mul x y
  let r := add mode z p.1
  (r.1, p.2 ||| r.2)

/-- R185, R189: the quotient, exact or with its rest marked. -/
def div (x y : Val) : Val × Flags :=
  let nanInv := invOf x ||| invOf y
  match x, y with
  | .nan _, _ => (.nan false, nanInv)
  | _, .nan _ => (.nan false, nanInv)
  | .inf _, .inf _ => (.nan false, INV)
  | .inf a, .fin b _ _ _ => (.inf (a != b), 0)
  | .fin a _ _ _, .inf b => (.zero (a != b), 0)
  | .fin a m e _, .fin b n g _ =>
    if n = 0 then (if m = 0 then (.nan false, INV) else (.inf (a != b), DZ))
    else if m = 0 then (.zero (a != b), 0)
    else
      let k := 160 + bitLen n
      (.fin (a != b) (m * 2 ^ k / n) (e - g - k) (m * 2 ^ k % n ≠ 0), 0)

/-- The integer square root, a bit at a time from bit `i`. -/
def isqrtFrom (n : Nat) : Nat → Nat → Nat
  | 0, r => r
  | i + 1, r =>
    let t := r + 2 ^ i
    isqrtFrom n i (if t * t ≤ n then t else r)

def isqrt (n : Nat) : Nat := isqrtFrom n (bitLen n / 2 + 1) 0

/-- R185, R235: the square root; √−0 = −0, and INV for a negative number. -/
def sqrt (x : Val) : Val × Flags :=
  match x with
  | .nan b => (.nan false, if b then INV else 0)
  | .inf neg => if neg then (.nan false, INV) else (.inf false, 0)
  | .fin neg m e _ =>
    if m = 0 then (.zero neg, 0)
    else if neg then (.nan false, INV)
    else
      let k : Nat := if e % 2 = 0 then 320 else 321
      let n := m * 2 ^ k
      let r := isqrt n
      (.fin false r ((e - k) / 2) (r * r ≠ n), 0)

/-- R250: 1 ÷ √x. -/
def rsqrt (x : Val) : Val × Flags :=
  match x with
  | .nan b => (.nan false, if b then INV else 0)
  | .inf neg => if neg then (.nan false, INV) else (.zero false, 0)
  | .fin neg m e _ =>
    if m = 0 then (.inf neg, DZ)
    else if neg then (.nan false, INV)
    else
      -- 1/√(m·2^e) = √(2^k/m) · 2^(-(e+k)/2) with e + k even
      let k : Nat := 2 * bitLen m + (if e % 2 = 0 then 320 else 321)
      let n := 2 ^ k / m
      let r := isqrt n
      (.fin false r (-((e + k) / 2)) (r * r * m ≠ 2 ^ k), 0)

/-- R189: orders two numbers that are no NaN; −0 below +0. -/
def lessOrdered (x y : Val) : Bool :=
  match x, y with
  | .nan _, _ => false
  | _, .nan _ => false
  | .inf a, .inf b => a && !b
  | .inf a, _ => a
  | _, .inf b => !b
  | .fin a m e _, .fin b n g _ =>
    if m = 0 && n = 0 then a && !b
    else
      let q := if e ≤ g then e else g
      decide (scaledAt a m e q < scaledAt b n g q)

/-- R236: x < y as numbers, −0 = +0. -/
def lessThan (x y : Val) : Bool := lessOrdered x y && !(x.isZero && y.isZero)

/-- R236: the values are equal as numbers, −0 = +0. -/
def sameValue (x y : Val) : Bool :=
  !x.isNan && !y.isNan && !lessThan x y && !lessThan y x

/-- R189: minimum (`wantMax` false) and maximum; NaN if either is NaN. -/
def minMax (wantMax : Bool) (x y : Val) : Val × Flags :=
  let fl := invOf x ||| invOf y
  if x.isNan || y.isNan then (.nan false, fl)
  else if wantMax then (if lessOrdered x y then y else x, fl)
  else (if lessOrdered y x then y else x, fl)

/-- R236: the relation of a comparison code (0 eq, 1 lt, 2 le, 3 un, 4 ne) and its INV. -/
def compare (cnd : Nat) (x y : Val) : Bool × Flags :=
  let anyNan := x.isNan || y.isNan
  let quiet := invOf x ||| invOf y
  let loud : Flags := if anyNan then INV else 0
  if cnd = 0 then (sameValue x y, quiet)
  else if cnd = 1 then (lessThan x y, loud)
  else if cnd = 2 then (!anyNan && (lessThan x y || sameValue x y), loud)
  else if cnd = 3 then (anyNan, quiet)
  else (!(sameValue x y), quiet)

/-- R238: the bit of the class of a value of an IEEE format. -/
def classOf (f : Fmt) (code : Nat) : Nat :=
  match unpack f false code with
  | .nan true => 8
  | .nan false => 9
  | .inf neg => if neg then 0 else 7
  | .fin neg m _ _ =>
    if m = 0 then (if neg then 3 else 4)
    else if m < 2 ^ f.frac then (if neg then 2 else 5)
    else if neg then 1 else 6

/-! ### The functions of R250, by bounds

A value is bracketed between two fixed-point integers; when the bits that any rounding can look at agree in both, the value is
known as far as rounding can tell, and being irrational it is never exactly representable. -/

/-- Fixed-point precision of the brackets. -/
def fixBits : Nat := 320

/-- The sum of 1/(k·2^k) for k from `n` down to 1, scaled: ln 2, at most `n` units below. -/
def ln2Sum : Nat → Nat
  | 0 => 0
  | n + 1 => 2 ^ fixBits / ((n + 1) * 2 ^ (n + 1)) + ln2Sum n

def ln2 : Nat := ln2Sum 330

/-- The terms of exp z from the `k`-th on, `t` being the term before; each is cut down. -/
def expTerms (z : Nat) : Nat → Nat → Nat → Nat
  | 0, _, _ => 0
  | fuel + 1, k, t =>
    let u := t * z / (k * 2 ^ fixBits)
    u + expTerms z fuel (k + 1) u

/-- 2^f for a fixed-point f in [0, 1), scaled, low by less than 2^20 units. -/
def exp2Frac (f : Nat) : Nat :=
  2 ^ fixBits + expTerms (f * ln2 / 2 ^ fixBits) 80 1 (2 ^ fixBits)

/-- The shortest cut, from `d` bits on, at which two values agree. -/
def agreeing (lo hi : Nat) : Nat → Nat → Nat
  | 0, d => d
  | fuel + 1, d => if lo / 2 ^ d = hi / 2 ^ d then d else agreeing lo hi fuel (d + 1)

/-- A positive value strictly between `lo` and `lo + slack`, both times 2^e, as the leading bits on which these agree, of the leading 96
(log 21). -/
def bracket (neg : Bool) (lo slack : Nat) (e : Int) : Val :=
  let d := agreeing lo (lo + slack) (bitLen lo + 2) (bitLen lo - 96)
  .fin neg (lo / 2 ^ d) (e + d) true

/-- The fixed-point form of m·2^e, exact when no bit falls below. -/
def toFix (m : Nat) (e : Int) : Nat :=
  let s := e + fixBits
  if 0 ≤ s then m * 2 ^ s.toNat else m / 2 ^ (-s).toNat

/-- R250: 2^x. -/
def exp2 (x : Val) : Val × Flags :=
  match x with
  | .nan b => (.nan false, if b then INV else 0)
  | .inf neg => (if neg then .zero false else .inf false, 0)
  | .fin neg m e _ =>
    if m = 0 then (.fin false 1 0 false, 0)
    else
      let top : Int := e + bitLen m
      if (13 : Int) ≤ top then (.fin false (2 ^ 130) (if neg then -4000 else 4000) true, 0)
      else if top < -60 then (.fin false (if neg then 2 ^ 130 - 1 else 2 ^ 130) (-130) true, 0)
      else
        let v := toFix m e
        let n := v / 2 ^ fixBits
        let f := v % 2 ^ fixBits
        if f = 0 then (.fin false 1 (if neg then -(n : Int) else n) false, 0)
        else
          let f' := if neg then 2 ^ fixBits - f else f
          let n' : Int := if neg then -(n : Int) - 1 else n
          (bracket false (exp2Frac f') (2 ^ 20) (n' - fixBits), 0)

/-- The terms s^k/k for odd k, `p` being s^k: atanh s. -/
def atanhTerms (s2 : Nat) : Nat → Nat → Nat → Nat
  | 0, _, _ => 0
  | fuel + 1, k, p => p / k + atanhTerms s2 fuel (k + 2) (p * s2 / 2 ^ fixBits)

/-- log₂ y for y = m·2^-k in [1, 2), scaled, within 2^20 units. -/
def log2Frac (m k : Nat) : Nat :=
  let one := 2 ^ k
  let s := (m - one) * 2 ^ fixBits / (m + one)
  let at_ := atanhTerms (s * s / 2 ^ fixBits) 110 1 s
  2 * at_ * 2 ^ fixBits / ln2

/-- R250: log₂ x. -/
def log2 (x : Val) : Val × Flags :=
  match x with
  | .nan b => (.nan false, if b then INV else 0)
  | .inf neg => (if neg then (.nan false, INV) else (.inf false, 0))
  | .fin neg m e _ =>
    if m = 0 then (.inf true, DZ)
    else if neg then (.nan false, INV)
    else
      let k := bitLen m - 1
      let n : Int := e + k
      if m = 2 ^ k then (ofInt n, 0)
      else
        let low : Int := n * (2 ^ fixBits : Nat) + log2Frac m k - (2 ^ 20 : Nat)
        if 0 < low then (bracket false low.toNat (2 ^ 21) (-(fixBits : Int)), 0)
        else (bracket true (-(low + (2 ^ 21 : Nat))).toNat (2 ^ 21) (-(fixBits : Int)), 0)

/-- R250: tanh x. -/
def tanh (x : Val) : Val × Flags :=
  match x with
  | .nan b => (.nan false, if b then INV else 0)
  | .inf neg => (.fin neg 1 0 false, 0)
  | .fin neg m e _ =>
    if m = 0 then (.zero neg, 0)
    else
      let top : Int := e + bitLen m
      if (7 : Int) ≤ top then (.fin neg (2 ^ 130 - 1) (-130) true, 0)
      else if top < -60 then (.fin neg (m * 2 ^ 130 - 1) (e - 130) true, 0)
      else
        -- 2·|x| ÷ ln 2 = n + f
        let t := 2 * toFix m e * 2 ^ fixBits / ln2
        let n := t / 2 ^ fixBits
        let z := exp2Frac (t % 2 ^ fixBits) * 2 ^ n
        let one := 2 ^ fixBits
        -- (z − 1) ÷ (z + 1) = 1 − 2 ÷ (z + 1)
        let y := (z - one) * 2 ^ fixBits / (z + one)
        (bracket neg (y - 2 ^ 40) (2 ^ 41) (-(fixBits : Int)), 0)

/-- R250: 1 ÷ x. -/
def rcp (x : Val) : Val × Flags := div (.fin false 1 0 false) x

/-! ### Codes in, codes out -/

/-- R187: one draw of the generator: the new state and the eight bits it gives. -/
def drawState (s : BitVec 32) : BitVec 32 :=
  let a := s ^^^ (s <<< 13)
  let b := a ^^^ (a >>> 17)
  b ^^^ (b <<< 5)

def drawRho (s : BitVec 32) : Nat := (drawState s).toNat / 2 ^ 24

/-- R187, R185: one Round under a mode: the code, the flags and the generator after it, drawn only under SR. -/
def roundDraw (f : Fmt) (inf8 : Bool) (mode : Nat) (sat : Bool) (gen : BitVec 32) (x : Val) : Nat × Flags × BitVec 32 :=
  if mode = 4 then
    let r := round f inf8 mode sat (drawRho gen) x
    (r.1, r.2, drawState gen)
  else
    let r := round f inf8 mode sat 0 x
    (r.1, r.2, gen)

/-- R189: minimum and maximum return an operand's value, or NaN; nothing is rounded. -/
def packExact (f : Fmt) (inf8 : Bool) (x : Val) : Nat := (round f inf8 0 false 0 x).1

/-- R189: absolute value and negation of a code of a format with a sign bit; the unsigned binary8 formats follow R182. -/
def absCode (f : Fmt) (code : Nat) : Nat :=
  match f.kind with
  | .ieee => code % 2 ^ (f.bits - 1)
  | .signed8 => if code = 0x80 then code else code % 128
  | _ => code

def negCode (f : Fmt) (sat : Bool) (code : Nat) : Nat × Flags :=
  match f.kind with
  | .ieee => ((code + 2 ^ (f.bits - 1)) % 2 ^ f.bits, 0)
  | .signed8 => (if code = 0 || code = 0x80 then code else (code + 128) % 256, 0)
  | .unsigned8 =>
    if code = 0 || code = 0xFF then (code, 0)
    else if sat then (0, if code < 2 ^ f.frac then INX ||| UNF else INX)
    else (nanCode f, INV)
  | _ => (code, 0)

/-- R189, R250: a conversion's exact value; between integers it wraps, or clamps when saturating, with IOV out of
range. -/
def convert (src dst : Fmt) (inf8 : Bool) (mode : Nat) (sat : Bool) (gen : BitVec 32) (code : Nat) :
    Nat × Flags × BitVec 32 :=
  let x := unpack src inf8 code
  let srcInt := src.kind = .nat || src.kind = .int
  let dstInt := dst.kind = .nat || dst.kind = .int
  if srcInt && dstInt then
    let v : Int := if src.kind = .int then signedOf src.bits code else (code % 2 ^ src.bits : Nat)
    let lo : Int := if dst.kind = .int then -(2 ^ (dst.bits - 1) : Nat) else 0
    let hi : Int := if dst.kind = .int then (2 ^ (dst.bits - 1) : Nat) - 1 else (2 ^ dst.bits : Nat) - 1
    let out := v < lo || hi < v
    let w : Int := if sat then (if v < lo then lo else if hi < v then hi else v) else v
    ((w % (2 ^ dst.bits : Nat)).toNat, if out then IOV else 0, if mode = 4 then drawState gen else gen)
  else
    let r := roundDraw dst inf8 mode sat gen x
    (r.1, r.2.1 ||| (if dstInt then 0 else invOf x), r.2.2)

/-- R189: the identity of a reduction over no lane: 0 sum, 1 maximum, 2 minimum. -/
def identity (f : Fmt) (inf8 : Bool) (op : Nat) : Nat :=
  match f.kind with
  | .nat => if op = 2 then 2 ^ f.bits - 1 else 0
  | .int => if op = 0 then 0 else if op = 1 then 2 ^ (f.bits - 1) else 2 ^ (f.bits - 1) - 1
  | .unsigned8 => if op = 2 then (if inf8 then infCode f else maxCode f inf8) else 0
  | _ =>
    if op = 0 then 0
    else withSign f (op = 1) (if hasInf f inf8 then infCode f else maxCode f inf8)

/-- One combining step of R194 on codes: 0 add (rounded once), 1 maximum, 2 minimum. Integer sums wrap. -/
def combine (f : Fmt) (inf8 : Bool) (mode : Nat) (sat : Bool) (op : Nat) (gen : BitVec 32) (a b : Nat) :
    Nat × Flags × BitVec 32 :=
  match f.kind with
  | .nat =>
    (if op = 0 then (a + b) % 2 ^ f.bits else if op = 1 then max a b else min a b, 0, gen)
  | .int =>
    if op = 0 then ((a + b) % 2 ^ f.bits, 0, gen)
    else
      let less := decide (signedOf f.bits a < signedOf f.bits b)
      (if op = 1 then (if less then b else a) else (if less then a else b), 0, gen)
  | _ =>
    let x := unpack f inf8 a
    let y := unpack f inf8 b
    if op = 0 then
      let s := add mode x y
      let r := roundDraw f inf8 mode sat gen s.1
      (r.1, s.2 ||| r.2.1, r.2.2)
    else
      let s := minMax (op = 1) x y
      (packExact f inf8 s.1, s.2, gen)

end Sys2Proof.Float
end

