-- ==== Sys2Proof/Machine/Event.lean ====
section
/-! DEFINITION. The steps of the other agents as data of the state: what has come about and waits to take its turn. -/

namespace Sys2Proof.Machine

/-- A step of the part that no word of a thread encodes, with what it concerns. -/
inductive Event where
  /-- INVALIDATE (R39). -/
  | invalidate (inv : Nat)
  /-- INVALIDATE_ACK (R42). -/
  | invalidateAck (inv : Nat)
  /-- HOME_PERFORM (R74). -/
  | homePerform (req : Nat)
  /-- REMOTE_REQUEST (R79). -/
  | remoteRequest (req : Nat)
  /-- REMOTE_REPLY (R169). -/
  | remoteReply (req : Nat)
  /-- REMOTE_TIMEOUT (R82). -/
  | remoteTimeout (req : Nat)
  /-- STORE_ACK (R86). -/
  | storeAck (req : Nat)
  /-- MESSAGE_ARRIVAL (R171). -/
  | messageArrival (msg : Nat)
  /-- MESSAGE_ACK (R164). -/
  | messageAck (msg : Nat)
  /-- MESSAGE_RETRY (R171). -/
  | messageRetry (msg : Nat)
  /-- MESSAGE_SELECT (R159). -/
  | messageSelect (loc : Nat)
  /-- MESSAGE_AGING (R160). -/
  | messageAging (loc : Nat)
  /-- HOTNESS_DECAY (R91). -/
  | hotnessDecay (die : Nat)
  /-- HOTCFG_CLR (R91). -/
  | hotcfgClr (die : Nat)
  /-- HOTCFG_CLEAR_DONE (R91). -/
  | hotcfgClearDone (die : Nat)
  /-- MIG_START (R94). -/
  | migStart (die : Nat) (slot : Nat)
  /-- MIG_COMMIT (R96). -/
  | migCommit (die : Nat) (slot : Nat)
  /-- MIG_RELEASE (R94). -/
  | migRelease (die : Nat) (slot : Nat)
  /-- MIG_ABORT (R94). -/
  | migAbort (die : Nat) (slot : Nat)
  /-- MIG_GRANULE_COPIED (R94). -/
  | migGranuleCopied (die : Nat) (slot : Nat)
  /-- MIG_COPY_ERROR (R94). -/
  | migCopyError (die : Nat) (slot : Nat) (unreachable : Bool)
  /-- PARKCFG_APPLY (R67). -/
  | parkcfgApply (cl : Nat)
  /-- EXB_WRITE (R56). -/
  | exbWrite (loc : Nat) (value : BitVec 64)
  /-- CTXALW_WRITE (R19). -/
  | ctxalwWrite (loc : Nat) (value : BitVec 64)
  /-- EPCFG_WRITE (R412). -/
  | epcfgWrite (die : Nat) (loc : Nat) (value : BitVec 64)
  /-- ENGINE_COMPLETION (R117). -/
  | engineCompletion (cmd : Nat)
  /-- BARRIER_ARRIVAL (R283). -/
  | barrierArrival (cmd : Nat)
  /-- TILE_FILL_COMPLETE (R59). -/
  | tileFillComplete (cmd : Nat)
  /-- TILE_DRAIN_COMPLETE (R59). -/
  | tileDrainComplete (cmd : Nat)
  /-- TSWAP_EXCHANGE (R296). -/
  | tswapExchange (cmd : Nat)
  /-- TSWAP_TIMEOUT (R296). -/
  | tswapTimeout (cmd : Nat)
  /-- PREEMPT_REQUEST (R174). -/
  | preemptRequest (loc : Nat) (slot : Nat)
  /-- FORCED_STOP (R177). -/
  | forcedStop (loc : Nat) (slot : Nat)
  /-- PARKRES (R174). -/
  | parkres (loc : Nat) (park : Nat)
  /-- SLOTCTL_RESUME (R387). -/
  | slotctlResume (loc : Nat) (slot : Nat)
  /-- SLOTCTL_DISCARD (R387). -/
  | slotctlDiscard (loc : Nat) (slot : Nat)
  /-- IBXPOP (R170). -/
  | ibxpop (loc : Nat)
  /-- IBX_END (R170). -/
  | ibxEnd (loc : Nat)
  /-- LAUNCH (R167). -/
  | launch (die : Nat)
  /-- LAUNCH_DISTRIBUTE (R167). -/
  | launchDistribute (die : Nat)
  /-- HELD_LAUNCH_REREAD (R167). -/
  | heldLaunchReread (die : Nat)
  /-- FREE_SLOT_PUBLISH (R172). -/
  | freeSlotPublish (die : Nat)
  /-- TEAM_MIGRATION (R173). -/
  | teamMigration (die : Nat) (target : Nat) (team : Nat) (rank : Nat)
  /-- ALLOY_FORMED (R394). -/
  | alloyFormed (loc : Nat) (slot : Nat)
  /-- ALLOY_TIMEOUT (R394). -/
  | alloyTimeout (loc : Nat) (slot : Nat)
  /-- ALLOY_MEMBER_FREE (R396). -/
  | alloyMemberFree (loc : Nat)
  /-- STREAM_CHUNK_ARRIVAL (R261). -/
  | streamChunkArrival (loc : Nat) (slot : Nat) (reg : Nat)
  /-- DISPATCH_SERVE (R161). -/
  | dispatchServe (cl : Nat) (unit : Nat)
  /-- MX_SEND_ARRIVAL (R327). -/
  | mxSendArrival (cmd : Nat)
  /-- SWAGE_COMMAND_START (R360). -/
  | swageCommandStart (cmd : Nat)
  /-- COLL_CONTRIBUTION (R349). -/
  | collContribution (cmd : Nat)
  /-- COLL_TIMEOUT (R349). -/
  | collTimeout (cmd : Nat)
  /-- SNDZ_ARRIVAL (R336). -/
  | sndzArrival (cmd : Nat)
  /-- ETH_PACKET_ARRIVAL (R413). -/
  | ethPacketArrival (die : Nat) (msg : EthMessage) (get : Bool) (key : BitVec 64) (roff : BitVec 64) (len : Nat) (off : Nat) (data : List (BitVec 8))
  /-- ETH_TIMEOUT (R350). -/
  | ethTimeout (cmd : Nat)
  /-- HOST_BAR0_WRITE (R414). -/
  | hostBar0Write (module : Nat) (off : Nat) (data : List (BitVec 8))
  /-- FLIT_RECEIVE (R405). -/
  | flitReceive (module : Nat) (port : Nat) (seq : BitVec 12) (rest : FlitRest) (good : Bool)
  /-- NAK_RECEIVE (R405). -/
  | nakReceive (module : Nat) (port : Nat) (seq : BitVec 12)
  /-- ACK_TIMEOUT (R405). -/
  | ackTimeout (module : Nat) (port : Nat)
  /-- LANE_FAILURE (R406). -/
  | laneFailure (module : Nat) (port : Nat) (lane : Nat)
  /-- RETRAIN_COMPLETE (R407). -/
  | retrainComplete (module : Nat) (port : Nat)
  /-- DECLARED_UNREACHABLE (R403). -/
  | declaredUnreachable (module : Nat)
  /-- MODULE_REJOIN (R40). -/
  | moduleRejoin (module : Nat)
  /-- HEATER_RETUNE (R409). -/
  | heaterRetune (module : Nat) (port : Nat) (lane : Nat) (saturated : Bool)
  /-- SPARE_TUNED (R409). -/
  | spareTuned (module : Nat) (port : Nat)
  /-- OCS_ANNOUNCE (R410). -/
  | ocsAnnounce (module : Nat) (port : Nat)
  /-- OCS_QUIESCED (R410). -/
  | ocsQuiesced (module : Nat) (port : Nat)
  /-- OCS_RELOCK (R410). -/
  | ocsRelock (module : Nat) (port : Nat)
  /-- OCS_TABLE_SWAP (R410). -/
  | ocsTableSwap (module : Nat) (port : Nat)
  /-- OCS_DARK_TIMEOUT (R410). -/
  | ocsDarkTimeout (module : Nat) (port : Nat)
  /-- ASSIGN (R420). -/
  | assign (module : Nat)
  /-- RETIRE (R420). -/
  | retire (module : Nat)
  /-- SWITCH (R420). -/
  | switch (module : Nat)
  /-- QUOTE (R422). -/
  | quote (module : Nat)
  /-- HEALTH (R421). -/
  | health (module : Nat)
  /-- MODULE_RESET (R417). -/
  | moduleReset (module : Nat)
  /-- SRAM_SCRUB (R423). -/
  | sramScrub (die : Nat)
  /-- HBM_PATROL_SCRUB (R423). -/
  | hbmPatrolScrub (die : Nat)
  /-- REGISTER_PARITY_ERROR (R423). -/
  | registerParityError (loc : Nat) (slot : Nat) (hard : Bool)
  /-- UNIT_FAILURE (R426). -/
  | unitFailure (loc : Nat) (kind : Nat)
  /-- ACCT_BOUNDARY (R431). -/
  | acctBoundary (die : Nat)
  /-- TRACE_SAMPLE (R433). -/
  | traceSample (cl : Nat)
  /-- TRCPTR_WRITE (R432). -/
  | trcptrWrite (cl : Nat)
  /-- IDLE_RECHECK (R384). -/
  | idleRecheck (loc : Nat) (slot : Nat)
  /-- REGISTER_WRITE (R436). -/
  | registerWrite (loc : Nat) (user : Bool) (pa : BitVec 64) (value : BitVec 64)
  /-- KEPT_COPY_DROPPED (R210). -/
  | keptCopyDropped (loc : Nat)
  /-- HBM_CHANNEL_RETIRED (R426). -/
  | hbmChannelRetired (die : Nat) (chan : Nat)
deriving DecidableEq, Repr

/-- The row of the opcode table that an event is. -/
noncomputable def Event.instr : Event → Instr
  | .invalidate inv => .invalidate inv
  | .invalidateAck inv => .invalidateAck inv
  | .homePerform req => .homePerform req
  | .remoteRequest req => .remoteRequest req
  | .remoteReply req => .remoteReply req
  | .remoteTimeout req => .remoteTimeout req
  | .storeAck req => .storeAck req
  | .messageArrival msg => .messageArrival msg
  | .messageAck msg => .messageAck msg
  | .messageRetry msg => .messageRetry msg
  | .messageSelect loc => .messageSelect loc
  | .messageAging loc => .messageAging loc
  | .hotnessDecay die => .hotnessDecay die
  | .hotcfgClr die => .hotcfgClr die
  | .hotcfgClearDone die => .hotcfgClearDone die
  | .migStart die slot => .migStart die slot
  | .migCommit die slot => .migCommit die slot
  | .migRelease die slot => .migRelease die slot
  | .migAbort die slot => .migAbort die slot
  | .migGranuleCopied die slot => .migGranuleCopied die slot
  | .migCopyError die slot unreachable => .migCopyError die slot unreachable
  | .parkcfgApply cl => .parkcfgApply cl
  | .exbWrite loc value => .exbWrite loc value
  | .ctxalwWrite loc value => .ctxalwWrite loc value
  | .epcfgWrite die loc value => .epcfgWrite die loc value
  | .engineCompletion cmd => .engineCompletion cmd
  | .barrierArrival cmd => .barrierArrival cmd
  | .tileFillComplete cmd => .tileFillComplete cmd
  | .tileDrainComplete cmd => .tileDrainComplete cmd
  | .tswapExchange cmd => .tswapExchange cmd
  | .tswapTimeout cmd => .tswapTimeout cmd
  | .preemptRequest loc slot => .preemptRequest loc slot
  | .forcedStop loc slot => .forcedStop loc slot
  | .parkres loc park => .parkres loc park
  | .slotctlResume loc slot => .slotctlResume loc slot
  | .slotctlDiscard loc slot => .slotctlDiscard loc slot
  | .ibxpop loc => .ibxpop loc
  | .ibxEnd loc => .ibxEnd loc
  | .launch die => .launch die
  | .launchDistribute die => .launchDistribute die
  | .heldLaunchReread die => .heldLaunchReread die
  | .freeSlotPublish die => .freeSlotPublish die
  | .teamMigration die target team rank => .teamMigration die target team rank
  | .alloyFormed loc slot => .alloyFormed loc slot
  | .alloyTimeout loc slot => .alloyTimeout loc slot
  | .alloyMemberFree loc => .alloyMemberFree loc
  | .streamChunkArrival loc slot reg => .streamChunkArrival loc slot reg
  | .dispatchServe cl unit => .dispatchServe cl unit
  | .mxSendArrival cmd => .mxSendArrival cmd
  | .swageCommandStart cmd => .swageCommandStart cmd
  | .collContribution cmd => .collContribution cmd
  | .collTimeout cmd => .collTimeout cmd
  | .sndzArrival cmd => .sndzArrival cmd
  | .ethPacketArrival die msg get key roff len off data => .ethPacketArrival die msg get key roff len off data
  | .ethTimeout cmd => .ethTimeout cmd
  | .hostBar0Write module off data => .hostBar0Write module off data
  | .flitReceive module port seq rest good => .flitReceive module port seq rest good
  | .nakReceive module port seq => .nakReceive module port seq
  | .ackTimeout module port => .ackTimeout module port
  | .laneFailure module port lane => .laneFailure module port lane
  | .retrainComplete module port => .retrainComplete module port
  | .declaredUnreachable module => .declaredUnreachable module
  | .moduleRejoin module => .moduleRejoin module
  | .heaterRetune module port lane saturated => .heaterRetune module port lane saturated
  | .spareTuned module port => .spareTuned module port
  | .ocsAnnounce module port => .ocsAnnounce module port
  | .ocsQuiesced module port => .ocsQuiesced module port
  | .ocsRelock module port => .ocsRelock module port
  | .ocsTableSwap module port => .ocsTableSwap module port
  | .ocsDarkTimeout module port => .ocsDarkTimeout module port
  | .assign module => .assign module
  | .retire module => .retire module
  | .switch module => .switch module
  | .quote module => .quote module
  | .health module => .health module
  | .moduleReset module => .moduleReset module
  | .sramScrub die => .sramScrub die
  | .hbmPatrolScrub die => .hbmPatrolScrub die
  | .registerParityError loc slot hard => .registerParityError loc slot hard
  | .unitFailure loc kind => .unitFailure loc kind
  | .acctBoundary die => .acctBoundary die
  | .traceSample cl => .traceSample cl
  | .trcptrWrite cl => .trcptrWrite cl
  | .idleRecheck loc slot => .idleRecheck loc slot
  | .registerWrite loc user pa value => .registerWrite loc user pa value
  | .keptCopyDropped loc => .keptCopyDropped loc
  | .hbmChannelRetired die chan => .hbmChannelRetired die chan

end Sys2Proof.Machine
end

