-- ==== Sys2Proof/Machine/State.lean ====
section
/-! DEFINITION. The state of the part, as plain data: everything the spec gives the machine, agent by agent. Register
fields that software reads or writes whole are words in the spec's own layout; what is only inside the machine is named
data. Cores, clusters, dies and modules are held sparsely: one that is not listed is as reset leaves it. -/

namespace Sys2Proof.Machine

/-- A collection by key, keys strictly rising. -/
abbrev SMap (α : Type) := List (Nat × α)

/-- Why a step stops the whole machine. The part has no such stop: every step the spec describes has a next state
(R127, R204, R380), so there is no constructor, and no meaning raises one. -/
inductive Fault where
deriving DecidableEq, Repr

/-- Why the model gives a step no meaning. -/
inductive Refusal where
  /-- Raised by an arm of `exec` whose instruction has no meaning yet; safe, nothing can be proved of its effect. -/
  | notModelled (mnemonic : String)
deriving DecidableEq, Repr

/-- The five access paths of R100 in the order of the `xfence` codes (R274). -/
inductive Path where
  | c | m | x | n | s
deriving DecidableEq, Repr

/-- R157: the state of a thread slot. -/
inductive SlotState where
  | free | running | stopped
deriving DecidableEq, Repr

/-- A completion counter `k` (R196): the commands issued and the completed prefix (R118). -/
structure Counter where
  i : BitVec 32
  c : BitVec 32
deriving DecidableEq, Repr

/-- A fault record of R265. -/
structure FaultRec where
  va : Ptr
  ctr : BitVec 3
  cause : BitVec 8
  outc : BitVec 8
  kind : BitVec 2
  level : BitVec 3
  cmd : BitVec 32
  row : BitVec 32
deriving DecidableEq, Repr

/-- The classes that `wait` counts (R276). -/
inductive CmdClass where
  | cp | tl | mx | none
deriving DecidableEq, Repr

/-- An accepted command of a thread that is not yet part of a completed prefix (R118). -/
structure OpenCmd where
  cmd : Nat
  ctr : BitVec 3
  num : BitVec 32
  cls : CmdClass
  path : Path
  done : Bool
deriving DecidableEq, Repr

/-- An armed trigger (R281), with what it latched. -/
structure Trigger where
  ctr : BitVec 3
  threshold : BitVec 32
  block : Ptr
  word : BitVec 32
  opa : Ptr
  opb : Ptr
  opc : Ptr
  ctx : BitVec 16
  user : Bool
  winp : List Word
deriving DecidableEq, Repr

/-- The staging line of R14: its target core, which bytes were written, and the bytes. -/
structure Stage where
  target : Nat
  mask : BitVec 64
  data : BitVec 512
deriving DecidableEq, Repr

/-- A stream bound to v28-v31 (R259-R261). -/
structure Stream where
  reg : Nat
  write : Bool
  cmd : Nat
  xs : BitVec 3
  base : Ptr
  n0 : Nat
  n1 : Nat
  s0 : Int
  s1 : Int
  ctx : BitVec 16
  user : Bool
  winp : List Word
  /-- Chunks consumed (read) or produced (write). -/
  used : Nat
  /-- Chunks fetched and not yet consumed (at most four), or produced and not yet performed; oldest first. -/
  ready : List Vec
  /-- The write stream has met a fault and writes no later chunk. -/
  stopped : Bool
deriving DecidableEq, Repr

/-- An `xfence` edge still waiting (R115): what on path `q` it holds back, and until which commands or stores. -/
structure XEdge where
  p : Path
  q : Path
  scope : BitVec 3
  cmds : List Nat
deriving DecidableEq, Repr

/-- An alloy being formed (R394): its size, the register that takes the status, none when `eret` or `pcm.ret` re-forms
it. -/
structure Forming where
  size : Nat
  dest : Option (BitVec 5)
  since : Nat
  /-- The instruction that asked for it, or the one that an `eret` or `pcm.ret` returned to: where a stop takes the thread. -/
  pc : BitVec 16
deriving DecidableEq, Repr

/-- A thread waiting at a group object (R299): the object and the generation read. -/
structure GbarWait where
  pa : Nat
  slot : Nat
  gen : BitVec 32
  scope : BitVec 3
  /-- The generation has completed and the home has released the reply. -/
  released : Bool
deriving DecidableEq, Repr

/-- A write that a store has still to perform at its home: where, under which key slot, and its bytes. -/
structure BufWrite where
  pa : Nat
  slot : Nat
  data : List Byte
deriving DecidableEq, Repr

/-- A thread slot (R157) with its registers (R196) and its trap state (R378, R379, R391). -/
structure Thread where
  st : SlotState
  /-- The task in the slot, by the number the model gave it when it started. -/
  uid : Nat
  pc : BitVec 16
  g : Vector Word 32
  p : Vector Ptr 8
  v : Vector Vec 32
  q : Vector Pred 8
  k : Vector Counter 8
  status : Word
  epc : Word
  ecause : Word
  eaddr : Word
  ctxid : BitVec 16
  ctxcfg : Word
  gtid : Word
  prio : BitVec 3
  astat : Word
  /-- Engine registers (R288, R307, R331, R359), each 80 bits wide here; the narrower hold 64. -/
  mx : Vector Ptr 7
  cp : Vector Ptr 5
  ni : Vector Ptr 4
  stv : Vector Ptr 2
  faults : List FaultRec
  ovf : Bool
  eflast : FaultRec
  marks : BitVec 8
  opens : List OpenCmd
  trigs : List Trigger
  stage : Option Stage
  streams : List Stream
  torig : BitVec 24
  tser : BitVec 16
  placed : Bool
  /-- The requests to other modules that the instruction being issued has made and for which the thread stalls in its slot
  (R68). -/
  waits : List Nat
  /-- Pieces of the store being issued that went in earlier turns of it, and in this turn so far (R86). -/
  sent : Nat
  sentHere : Nat
  /-- Cores of the alloy the thread runs on; 0 when it runs on one core (R390). -/
  alloy : Nat
  forming : Option Forming
  xedges : List XEdge
  gbarWait : Option GbarWait
  /-- SCOPE as the `gbar` being issued first read it (R299). -/
  gbarScope : Option (BitVec 8)
  /-- Plain stores issued and not performed, oldest first, each with its writes (R354, R110; log 80). -/
  buffer : List (List BufWrite)
  /-- The writes so far of the store that issues, while it is not to perform at once (log 80). -/
  defer : Option (List BufWrite)
  /-- The instruction that has issued and stalls in the slot for what it has asked of others: its PC and its word (R56, R68). -/
  issued : Option (BitVec 16 × BitVec 32)
  /-- The next issue is not tested against the PC-match table (R435). -/
  exempt : Bool
  /-- While SHD = 1: the matched instruction, the mode to restore and the alloy size to re-form (R389, R435). -/
  shdPc : BitVec 16
  shdUser : Bool
  shdAlloy : Nat
deriving DecidableEq, Repr

/-- A message in an inbox (R153, R154, R159, R170, R171). -/
structure InMsg where
  header : Word
  payload : List Word
  gtid : Word
  ctx : BitVec 16
  born : Nat
  age : Nat
  diverted : Bool
  /-- LOOP and CHAN as they stood when the message first arrived (R396). -/
  loop : Bool
  chan0 : Nat
  /-- REG4K of the placement entry that the message was resolved through (R156, R163). -/
  region : Option Nat
  /-- The rank it was sent to (R164). -/
  rank : Option (BitVec 32 × BitVec 20)
  /-- The NI that sent it (R171), by its cluster. -/
  ni : Nat
  /-- The inbox that redirected it here, and the slot of the thread for whose group it did (R394); none when it came to its own inbox. -/
  via : Option (Loc × Nat)
deriving DecidableEq, Repr

/-- A slot of the matrix hand-off queue (R321). -/
structure HandSlot where
  uid : Nat
  gtid : Word
  fmt : Nat
  codes : List Nat
deriving DecidableEq, Repr

/-- An inbox's redirection to the leader of a group being formed or run (R394): the leader and the slot of its thread, the size of the
group, and whether it has ended and only the moves of R396 remain. -/
structure Redirect where
  leader : Loc
  slot : Nat
  size : Nat
  leaving : Bool
deriving DecidableEq, Repr

/-- A core's own state (R52, R155-R161, R174, R187, R206, R207, R326, R434). -/
structure Core where
  threads : Vector Thread 5
  /-- The slot that issued last (R157). -/
  lastSlot : Nat
  evec : Word
  ovlv : Word
  exb : Word
  htbase : Word
  safedl : Word
  mxfmt : Word
  mxsca : Word
  mxscb : Word
  mxprog : Word
  vfmt : Word
  vfstat : Word
  fstat : Word
  tapeb : Word
  tapel : Word
  tapep : Word
  tstat : Word
  altmo : Word
  winp : Vector Word 8
  pcm : Vector Word 16
  pcmteam : Word
  ctxalw : Word
  stkcfg : Word
  prectl : Word
  /-- When pre-emption of each task slot was requested (R175). -/
  reqAt : Vector Nat 4
  srstate : BitVec 32
  mxcapkey : Word
  mxcapctl : Word
  tser : BitVec 16
  /-- Tile descriptors t0-t31 in the two words of R57. -/
  tiles : Vector (Word × Word) 32
  /-- Accumulator elements that are not zero: 1024·tile + 32·row + column (R64-R66). -/
  accs : SMap Acc
  /-- Commands in the dispatch queue, oldest first (R161). -/
  dq : List Nat
  hand : List HandSlot
  inbox : List InMsg
  diverted : Bool
  /-- The sender last served on each channel (R159). -/
  served : Vector (BitVec 24) 8
  /-- The redirections of the inbox, the one that acts first (R394). -/
  redirect : List Redirect
  shadow : Vector Word 8
  shadowUser : Option Nat
deriving DecidableEq, Repr

/-- A task that is parked (R69, R169): what the record in SP2 does not hold. -/
structure Parked where
  slot : Nat
  uid : Nat
  /-- The core that parked it. -/
  loc : Loc
  req : Option Nat
  opens : List OpenCmd
  trigs : List Trigger
  /-- The edges of its `xfence` instructions still waiting (R115). -/
  xedges : List XEdge
  /-- Where the failed transaction began (R84). -/
  va : Ptr
  /-- The live-map entry of a stop at a safe point (R177). -/
  live : Option (BitVec 128)
  /-- The pointer register that the waiting load updates, and by how much (R200; log 98). -/
  update : Option (Nat × Int)
deriving DecidableEq, Repr

/-- An entry of the tape store (R339-R342, R441). -/
structure TapeEntry where
  slot : Nat
  gen : BitVec 16
  kind : Nat
  fmt : Nat
  glb : Bool
  hq : Bool
  count : Nat
  rwm1 : Nat
  team : BitVec 32
  l : Ptr
  owner : BitVec 20
  x : Word
  /-- Offset of the spilled lists in the tape region ÷ 64, and the 64-byte units they take. -/
  list : Nat
  units : Nat
  /-- NPART, and the participants of RANKS (at most eight). -/
  npart : Nat
  ranks : List Nat
  tapeb : Word
  tapel : Word
  ctx : BitVec 16
  /-- The transfer is still reading its lists (R441). -/
  reading : Bool
deriving DecidableEq, Repr

/-- A collective tree recorded at an NI for a rank (R348). -/
structure Tree where
  tree : Nat
  team : BitVec 32
  rank : BitVec 20
  root : Bool
  parent : BitVec 20
  children : List (BitVec 20)
deriving DecidableEq, Repr

/-- A failure record of posted stores (R87); `num` orders the transactions of the task as they were issued. -/
structure FailRec where
  torig : BitVec 24
  tser : BitVec 16
  num : Nat
  va : Ptr
  outc : BitVec 8
  count : Nat
deriving DecidableEq, Repr

/-- A cluster's own state (R67, R70, R81, R425, R432). -/
structure Cluster where
  parkcfg : Word
  /-- A write of PARKCFG that waits until no slot is occupied (R67). -/
  parkPend : Option Word
  ovfcfg : Word
  remcfg : Word
  coremap : Word
  trccfg : Word
  trcbase : Word
  trcptr : Word
  parked : List Parked
  tape : List TapeEntry
  tapeGen : SMap (BitVec 16)
  trees : List Tree
  fails : List FailRec
  /-- The core whose queue each compute unit serves next (R161). -/
  turn : Vector (BitVec 2) 4
  /-- The core that the spare core stands in for (R426). -/
  spare : Option Nat
deriving DecidableEq, Repr

/-- A slot of the migration engine (R93). -/
structure MigSlot where
  src : Word
  dst : Word
  ctl : Word
  stat : Word
deriving DecidableEq, Repr

/-- A launch that the dispatcher holds (R166, R167). -/
structure Launch where
  qd : Word
  ld : Word
  ctx : BitVec 16
  block : List Byte
deriving DecidableEq, Repr

/-- A team region allocated in a cluster (R167). -/
structure Region where
  cluster : Nat
  base4k : Nat
  pages : Nat
  team : BitVec 32
  ctx : BitVec 16
deriving DecidableEq, Repr

/-- What an endpoint measures of an entropy path (R351, R411): the smoothed round-trip time, which of the last 64 packets were
congestion-marked, and the send allowance in KiB. -/
structure PathState where
  rtt : BitVec 16
  marks : BitVec 64
  allow : BitVec 16
deriving DecidableEq, Repr

/-- A die's own state (R72, R73, R91, R93, R172, R412, R413, R425, R429-R431). -/
structure Die where
  hotcfg : Word
  mig : Vector MigSlot 8
  tmigcfg : Word
  hbmsize : Word
  clmap : Word
  acctcfg : Word
  acctbase : Word
  /-- Counts by 8·link + channel: flits sent and stalled cycles (R428). -/
  counts : SMap (Nat × Nat)
  acctSeq : BitVec 32
  acctSkip : Nat
  /-- A record is being written (R431), and where (R429). -/
  acctWriting : Bool
  acctAt : Option Nat
  /-- When the counts were last read and set to zero (R428). -/
  acctSince : Nat
  epcfg : Word
  epptb : Word
  epwtb : Word
  eplo : BitVec 16
  ephi : BitVec 16
  /-- The paths on which the endpoint has sent, by entropy value (R411). -/
  paths : SMap PathState
  /-- The messages for which the endpoint has selected a receive, by peer and number (R413). -/
  taken : List (Nat × Nat)
  launches : List Launch
  teamSeq : BitVec 18
  heard : SMap Nat
  regions : List Region
  /-- HBM channels retired since the interleave was last formed, those out of use for good, and how often the interleave has
  been formed (R72, R426). -/
  retired : List Nat
  gone : List Nat
  formed : Nat
  /-- The logical clusters that the spare cluster of their quadrant stands in for (R426). -/
  spares : List Nat
deriving DecidableEq, Repr

/-- A fabric flit (R404), but for its CRC and FEC, which are functions of the rest; `dest` is the module that its packet is for. -/
structure Flit where
  dest : Nat
  seq : BitVec 12
  vc : BitVec 4
  ack : BitVec 12
  nak : Bool
  cred : BitVec 16
  payload : List Byte
deriving DecidableEq, Repr

/-- A router port (R403-R410). -/
structure Link where
  stat : Word
  /-- The other end of the link, module and port, once it has trained. -/
  wired : Option (Nat × Nat)
  /-- The next sequence number to receive in order, and the next to send. -/
  rxSeq : BitVec 12
  txSeq : BitVec 12
  /-- Flits sent and not acknowledged, oldest first (R405). -/
  replay : List Flit
  /-- Flits that a full replay buffer, a link that is not up or a want of slots keeps at the sender (R405, R410). -/
  waiting : List Flit
  /-- Buffer slots of the receiver that the sender may fill, and those to be returned to the peer (R404). -/
  slots : Nat
  owed : Nat
  /-- When the last acknowledgement or replay was (R405), and when the link went dark (R410). -/
  acked : Nat
  darkAt : Nat
  /-- A retrain in progress and the width it leads to, in lanes. -/
  retrain : Option Nat
  /-- The wavelength whose ring is saturated while the spare tunes to it (R409). -/
  tuning : Option Nat
  /-- The step of an announced reconfiguration, 0 when none (R410). -/
  ocs : Nat
  /-- Link key generation (R419). -/
  key : Nat
deriving DecidableEq, Repr

/-- A key slot (R418): the context it belongs to, and how many keys it has held. -/
structure KeySlot where
  ctx : Option (BitVec 16)
  gen : Nat
deriving DecidableEq, Repr

/-- A module's own state (R20, R415, R417, R418, R420, R424). -/
structure Module where
  health : Word
  ctxtbl : Word
  keys : SMap KeySlot
  mbReq : Vector Word 8
  /-- The request that is served, as it was submitted (R420; log 17). -/
  mbTaken : Vector Word 8
  mbResp : Vector Word 8
  mbstat : Word
  /-- Telemetry counters that are not zero, by offset (R415). -/
  telemetry : SMap Nat
  /-- The image whose signature failed at boot: 0 none, 1 the hallmark image, 2 the bench firmware (R417). -/
  bootFail : Nat
  /-- The number of the boot, for the free values of measurements and keys. -/
  boots : Nat
  links : SMap Link
  /-- The routing table: the port that traffic for a module takes (R403, R410). -/
  routes : SMap Nat
  /-- Flits of the module that wait because no route to their module is up (R403, R407). -/
  strays : List Flit
  /-- Since when the module has had no link up, while it has none (R403). -/
  downSince : Option Nat
  /-- The measurement chains of contexts with images loaded (R417): the number of their last image. -/
  chains : SMap Nat
  /-- Dies found failed since the last reset (R426). -/
  failedDies : List Nat
  /-- Tape entries spilled by a switch out, by NI, until they are reloaded (R346). -/
  spilled : List (Nat × TapeEntry)
deriving DecidableEq, Repr

/-- A translation held by a unit (R34): its context, its page and the leaf. -/
structure TlbEntry where
  ctx : BitVec 16
  base : Nat
  size : Nat
  pte : Word
  /-- The key slot of the context (R20). -/
  slot : Nat
deriving DecidableEq, Repr

/-- An entry of a quadrant's walk cache (R34): a table entry of a level that names the next table, by context and the part of the
address that selects it. -/
structure WalkEntry where
  ctx : BitVec 16
  level : Nat
  index : Nat
  pte : Word
deriving DecidableEq, Repr

/-- Where a soft error stands that no physical address names (R423): in an entry of a unit's TLB, of a quadrant's walk cache, a
tile descriptor, an accumulator, a tape entry. -/
inductive SoftPlace where
  | tlb (unit : Nat) (entry : TlbEntry)
  | walk (quadrant : Nat) (entry : WalkEntry)
  | tile (loc : Loc) (t : Nat)
  | acc (loc : Loc) (t : Nat)
  | tape (cluster : Nat) (slot : Nat)
deriving DecidableEq, Repr

/-- Bytes that a vector memory form moves (R257): where they lie, under which key slot, their VA, and the byte of the register group that the
first goes to or comes from. -/
structure VPlace where
  va : Ptr
  pa : Nat
  slot : Nat
  lane : Nat
  len : Nat
deriving DecidableEq, Repr

/-- What a command does, with the operands it latched at acceptance. -/
inductive CmdKind where
  /-- R290: `cp.copy`. -/
  | copy (dst src : Ptr)
  /-- R290: `cp.fill`. -/
  | fill (dst : Ptr) (value : Word)
  /-- R290: `cp.rows`. -/
  | rows (dst src idx : Ptr)
  /-- R290: `cp.scat`. -/
  | scat (dst src idx : Ptr)
  /-- R294: `tfill`, with the descriptor latched. -/
  | tfill (tile : Nat) (desc : Word × Word) (src : Ptr) (stride : Word) (sparse : Bool)
  /-- R294: `tdrain`. -/
  | tdrain (tile : Nat) (desc : Word × Word) (dst : Ptr) (stride : Word) (release : Bool)
  /-- R296: `tswap` with the partner core. -/
  | tswap (tile : Nat) (desc : Word × Word) (partner : Loc)
  /-- R317: `mx.mac` and `mx.macb`; an operand by tile brings its descriptor; `half` executes block 1 only (R314). -/
  | mac (scaled tr k64 : Bool) (acc : Nat) (a b : Word) (ta tb : Option (Word × Word)) (half : Bool)
  /-- R319: `mx.zero`. -/
  | mxZero (acc : Nat)
  /-- R320: `mx.ld`. -/
  | mxLd (acc : Nat) (base : Ptr)
  /-- R320: `mx.st`. -/
  | mxSt (acc : Nat) (base : Ptr)
  /-- R321: `mx.hand`. -/
  | mxHand (acc : Nat)
  /-- R327: `mx.send` to a core, with the capability it carries. -/
  | mxSend (target : Loc) (cap : Word) (word : BitVec 32) (opa opb : Ptr)
  /-- R336: `sndz` to a rank. -/
  | sndz (rank : BitVec 20) (values : Vec) (bf : Bool) (x : Word)
  /-- R337: the forward transfers: 1 `nmc`, 2 `ngt`, 3 `nsc`, 4 `nsc` with ADD, 5 `na2a`; the slot and generation of the tape
  entry that records it, and the elements taken from the hand-off queue. -/
  | transfer (kind : Nat) (x : Word) (l : Ptr) (tape : Option (Nat × BitVec 16)) (hand : Option (List Nat))
  /-- R349: `coll`: 0 add, 1 min, 2 max. -/
  | coll (op tree : Nat) (dst src : Ptr)
  /-- R344: `treplay`, with the NI its handle names and the entry it latched. -/
  | treplay (ni : Nat) (entry : TapeEntry) (delta : Word) (acc srnd : Nat) (result : Ptr)
  /-- R350: `xpost.tx`, `xpost.rx`, `xfetch`. -/
  | ethPut (ep : Nat) (mode : Nat) (addr : Ptr) (len : Nat) (peer : BitVec 32) (roff rkey : Word)
  | ethRecv (ep : Nat) (addr : Ptr) (len : Nat) (peer : BitVec 32) (tag : Word)
  | ethGet (ep : Nat) (mode : Nat) (addr : Ptr) (len : Nat) (peer : BitVec 32) (roff rkey : Word)
  /-- R364-R370: the swage commands. -/
  | stvMap
  | stvInit (index : Word)
  | stvGate (plan : List Byte) (u : List Byte) (fmt : Nat)
  | stvSwap (a b : Nat)
  | stvProb (dst : Ptr) (mask value : Word)
  | stvFix (mask value factor : Word)
  | stvNorm (dst : Ptr)
  | stvAmp (dst : Ptr) (index : Word)
  /-- R260: `vbind`. -/
  | stream (reg : Nat)
  /-- R161, R245: a vector instruction, `mx.rd` or `mx.prog` in the dispatch queue: its word and place, the `g` registers and the
  controls that it sampled at issue. -/
  | unit (word : BitVec 32) (pc : BitVec 16) (g : Vector Word 32) (vfmt mxfmt : Word)
  /-- R161, R245, R257: a vector memory form in the dispatch queue: its word, whether it stores, the first register of its group and how many, and
  the bytes of memory that it moves; none for one that acted at its issue. -/
  | vmem (word : BitVec 32) (store : Bool) (reg : BitVec 5) (regs : Nat) (places : List VPlace)
deriving DecidableEq, Repr

/-- An engine command accepted and not completed (R117), with what it sampled at acceptance (R137, R209). -/
structure Cmd where
  id : Nat
  uid : Nat
  loc : Loc
  ctr : BitVec 3
  num : BitVec 32
  ctx : BitVec 16
  user : Bool
  winp : List Word
  gtid : Word
  mx : Vector Ptr 7
  cp : Vector Ptr 5
  ni : Vector Ptr 4
  stv : Vector Ptr 2
  mxfmt : Word
  mxsca : Word
  mxscb : Word
  inf8 : Bool
  tapeb : Word
  kind : CmdKind
  /-- The barrier object named at acceptance and the generation read (R283). -/
  barrier : Option (Ptr × BitVec 32)
  /-- When it was accepted. -/
  since : Nat
  /-- Its events, but for a barrier arrival, have performed. -/
  performed : Bool
  /-- A packet of it has been placed or a partner has joined (R296, R349, R413); a sent matrix command stands in the queue of its target (R327);
  the unit has started one of the core's own, which reads and writes later (R312). -/
  begun : Bool
  /-- Bytes placed so far, and the message that the receive has taken: its peer and number (R413). -/
  placed : Nat
  message : Option (Nat × Nat)
  fault : Option FaultRec
deriving DecidableEq, Repr

/-- One transaction of a request (R79): its VA, where it performs, its bytes and how it ended. `lane` is the register of the
destination group and the byte of it that the first byte goes to (R437). -/
structure Part where
  va : Ptr
  /-- The first byte of the transaction that carries it; the parts of a swizzled transaction share one (R79). -/
  first : Ptr
  pa : Nat
  len : Nat
  /-- The bytes of the access, element or chunk that it belongs to (R207, R436). -/
  size : Nat
  lane : Nat
  data : List Byte
  /-- It has been performed. -/
  done : Bool
  /-- How it failed (R82). -/
  outcome : Option (BitVec 8)
deriving DecidableEq, Repr

/-- What a request does at its home (R76, R83, R86, R298, R299). -/
inductive ReqOp where
  | read
  | write
  /-- An atomic of R273, by its operation code, with its operands. -/
  | atomic (op : Nat) (y cmp : BitVec 128)
  | join (scope : BitVec 3) (team : BitVec 32)
  | leave
  | gbar (gen : BitVec 32)
deriving DecidableEq, Repr

/-- A request to another module in flight (R79-R88). -/
structure Req where
  id : Nat
  uid : Nat
  loc : Loc
  torig : BitVec 24
  tser : BitVec 16
  op : ReqOp
  /-- The context and privilege it was translated under (R42, R29). -/
  ctx : BitVec 16
  user : Bool
  key : Nat
  parts : List Part
  sent : Bool
  /-- It has been performed at its home, or has failed there. -/
  performed : Bool
  replied : Bool
  /-- A group operation that the home refused, with its ILLEGAL outcome (R298). -/
  refusal : Option (BitVec 8)
  flags : BitVec 6
  /-- The scope of a release store, whose later acquire loads wait for it (R113). -/
  scope : Option (BitVec 3)
  /-- When it was sent. -/
  since : Nat
deriving DecidableEq, Repr

/-- A message between the NI of its sender and the inbox of its target (R153, R164, R171). -/
structure Msg where
  id : Nat
  /-- The task that sent it, 0 for the hardware's own messages. -/
  uid : Nat
  target : Loc
  header : Word
  payload : List Word
  gtid : Word
  ctx : BitVec 16
  /-- The rank the message is for, and the placement table entry that names it, when it was sent to a rank (R164). -/
  rank : Option (BitVec 32 × BitVec 20)
  region : Option Nat
  /-- A message that re-enters by `lbk`, or is moved from a leader's inbox with LOOP set (R171, R396). -/
  loop : Bool
  /-- A posted send whose acknowledgement its sender waits for (R86). -/
  req : Option Nat
  /-- It has been refused by a full inbox and is held at the sender (R171). -/
  held : Bool
  /-- It has been queued and waits to be acknowledged. -/
  queued : Bool
  /-- The NI that sends it, by its cluster. -/
  ni : Nat
deriving DecidableEq, Repr

/-- An invalidation not acknowledged (R39). -/
structure Inval where
  id : Nat
  uid : Nat
  loc : Loc
  scope : BitVec 3
  ctx : Option (BitVec 16)
  lo : Nat
  size : Option Nat
  dropped : Bool
  /-- Requests with smaller numbers were made before the entries were dropped (R39). -/
  upto : Nat
  /-- The entries that the units of the scope dropped: the unit, the context, and the page (R39). -/
  pages : List (Nat × BitVec 16 × Nat × Nat)
deriving DecidableEq, Repr

/-- A placement table that the dispatcher knows for a team (R163, R166). -/
structure Team where
  team : BitVec 32
  plt : Word
  ctx : BitVec 16
  loc : Loc
  /-- The launches: the first rank, the count, and NOMIG. -/
  ranks : List (Nat × Nat × Bool)
deriving DecidableEq, Repr

/-- A copy of a latched control block that the units serving a core keep (R210). -/
structure Kept where
  loc : Loc
  ctx : BitVec 16
  base : Ptr
  bytes : List Byte
  since : Nat
deriving DecidableEq, Repr

/-- What moves next in the model (log 1): a thread slot's next instruction, or a step of another agent. -/
inductive Turn where
  | issue (loc : Loc) (slot : Nat)
  | event (e : Event)
deriving DecidableEq, Repr

/-- The thread that an instruction acts for: one in a slot of a core, or a parked task whose trigger fires (R281). -/
inductive Place where
  | slot (loc : Loc) (k : Nat)
  | parked (loc : Loc) (n : Nat)
deriving DecidableEq, Repr

/-- The whole load-store domain. -/
structure State where
  cores : SMap Core
  clusters : SMap Cluster
  dies : SMap Die
  modules : SMap Module
  /-- Memory by physical address (R15, R16), in the canonical form of `Memory.wf`. -/
  mem : List Host.Cell
  /-- The key, as slot and key number, under which a 64-byte unit of HBM was last written (R75). -/
  keys : SMap (Nat × Nat)
  /-- Soft errors present, by physical address of the protected unit: uncorrectable or not (R423). -/
  errs : List (Nat × Bool)
  /-- Soft errors of the other protected stores (R423). -/
  softs : List (SoftPlace × Bool)
  /-- TLBs by unit (R34). -/
  tlbs : SMap (List TlbEntry)
  /-- Walk caches by quadrant of a die (R34). -/
  walks : SMap (List WalkEntry)
  /-- Modules of the domain: 0 up to this number. -/
  domain : Nat
  unreachable : List Nat
  cmds : List Cmd
  reqs : List Req
  msgs : List Msg
  invals : List Inval
  kept : List Kept
  /-- Writes of plain stores that a `gbar` has ordered on path C and that have not performed at their homes, oldest first, each with the core that
  stored (R130, R116; log 80). -/
  released : List (Loc × BufWrite)
  teams : List Team
  /-- Writes of eight bytes that the host is about to make in BAR 2, oldest first: the module, the offset, the value (R414, R420). -/
  host : List (Nat × Nat × Word)
  /-- Module time in ck (R415), one per step in this model (log 3). -/
  now : Nat
  /-- The model's own fields (logs 1, 18): the thread that moves, the core a fresh program is placed on, the turns laid
  down, the steps that have come about, and the next numbers of tasks, commands and free values. -/
  cur : Place
  focus : Loc
  turns : List Turn
  pending : List Event
  nextId : Nat
  fresh : Nat
  /-- Operands of the trigger that fires, in place of the registers its word names (R281). -/
  ops : Option Trigger
  /-- The core and the scope whose homes a trial of a command looks for, none outside one (R116). The model's own. -/
  watch : Option (Nat × Nat)
deriving DecidableEq, Repr

/-- A fault record with every field zero. -/
def FaultRec.zero : FaultRec := ⟨0, 0, 0, 0, 0, 0, 0, 0⟩

/-- A slot that holds no task, every register at its reset value (log 7). -/
def Thread.reset : Thread where
  st := .free
  uid := 0
  pc := 0
  g := Vector.replicate 32 0
  p := Vector.replicate 8 0
  v := Vector.replicate 32 0
  q := Vector.replicate 8 0
  k := Vector.replicate 8 ⟨0, 0⟩
  status := 0
  epc := 0
  ecause := 0
  eaddr := 0
  ctxid := 0
  ctxcfg := 0
  gtid := 0
  prio := 0
  astat := 0
  mx := Vector.replicate 7 0
  cp := Vector.replicate 5 0
  ni := Vector.replicate 4 0
  stv := Vector.replicate 2 0
  faults := []
  ovf := false
  eflast := FaultRec.zero
  marks := 0
  opens := []
  trigs := []
  stage := none
  streams := []
  torig := 0
  tser := 0
  placed := false
  waits := []
  sent := 0
  sentHere := 0
  alloy := 0
  forming := none
  xedges := []
  gbarWait := none
  gbarScope := none
  buffer := []
  defer := none
  issued := none
  exempt := false
  shdPc := 0
  shdUser := false
  shdAlloy := 0

/-- A core as reset leaves it (R48, R158, R175, R187, R308, R390). -/
def Core.reset (loc : Loc) : Core where
  threads := Vector.replicate 5 Thread.reset
  lastSlot := 4
  evec := 0
  ovlv := 0
  exb := 0
  htbase := 0
  safedl := 65536
  mxfmt := 0x808
  mxsca := 0
  mxscb := 0
  mxprog := 0
  vfmt := 0
  vfstat := 0
  fstat := 0
  tapeb := 0
  tapel := 0
  tapep := 0
  tstat := 0
  altmo := 4096
  winp := Vector.replicate 8 0
  pcm := Vector.replicate 16 0
  pcmteam := 0
  ctxalw := 0
  stkcfg := 0
  prectl := 0
  reqAt := Vector.replicate 4 0
  srstate := 0x9E3779B9#32 ^^^ BitVec.ofNat 32 (loc % 2 ^ 24)
  mxcapkey := 0
  mxcapctl := 0
  tser := 0
  tiles := Vector.replicate 32 (0, 0)
  accs := []
  dq := []
  hand := []
  inbox := []
  diverted := false
  served := Vector.replicate 8 0
  redirect := []
  shadow := Vector.replicate 8 0
  shadowUser := none

/-- A cluster as reset leaves it (R67, R70, R81, R425, R432). -/
def Cluster.reset : Cluster where
  parkcfg := 0
  parkPend := none
  ovfcfg := 0
  remcfg := 0x640040
  coremap := 0xFFFF
  trccfg := 0
  trcbase := 0
  trcptr := 0
  parked := []
  tape := []
  tapeGen := []
  trees := []
  fails := []
  turn := Vector.replicate 4 0
  spare := none

/-- A die as reset leaves it (R73, R91, R93, R172, R412, R425, R429). -/
def Die.reset : Die where
  hotcfg := 0
  mig := Vector.replicate 8 ⟨0, 0, 0, 0⟩
  tmigcfg := 0x2010
  hbmsize := 128000000000
  clmap := 0xFFFFFFFFFFFFFFFF
  acctcfg := 0x3E800000000
  acctbase := 0
  counts := []
  acctSeq := 0
  acctSkip := 0
  acctWriting := false
  acctAt := none
  acctSince := 0
  epcfg := 0
  epptb := 0
  epwtb := 0
  eplo := 0
  ephi := 0
  paths := []
  taken := []
  launches := []
  teamSeq := 0
  heard := []
  regions := []
  retired := []
  gone := []
  formed := 0
  spares := []

/-- A router port as reset leaves it (R408). -/
def Link.reset : Link where
  stat := 0
  wired := none
  rxSeq := 0
  txSeq := 0
  replay := []
  waiting := []
  slots := 0
  owed := 0
  acked := 0
  darkAt := 0
  retrain := none
  tuning := none
  ocs := 0
  key := 0

/-- Module `m` as it has booted (R417, R424; logs 6, 16): its table of contexts at the start of its own HBM. -/
def Module.reset (m : Nat) : Module where
  health := 0xFFF0000000000
  ctxtbl := BitVec.ofNat 64 (m * 2 ^ 54)
  keys := []
  mbReq := Vector.replicate 8 0
  mbTaken := Vector.replicate 8 0
  mbResp := Vector.replicate 8 0
  mbstat := 1
  telemetry := [(0x28, 1)]
  bootFail := 0
  boots := 0
  links := []
  routes := []
  strays := []
  downSince := some 0
  chains := []
  failedDies := []
  spilled := []

/-- The machine right after reset: nothing runs, nothing is listed (R48, R157; logs 6, 7, 9, 16). -/
def State.reset : State where
  cores := []
  clusters := []
  dies := []
  modules := []
  mem := []
  keys := []
  errs := []
  softs := []
  tlbs := []
  walks := []
  domain := 1024
  unreachable := []
  cmds := []
  reqs := []
  msgs := []
  invals := []
  kept := []
  released := []
  teams := []
  host := []
  now := 0
  cur := .slot 0 0
  focus := 0
  turns := []
  pending := []
  nextId := 1
  fresh := 0
  ops := none
  watch := none

end Sys2Proof.Machine
end

