-- ==== Sys2Proof/Machine/Map.lean ====
section
/-! DEFINITION. Collections by key and the units of the part: reading one, changing one, and which unit a location names
(R10, R154, R162). A unit that is not listed is as reset leaves it. -/

namespace Sys2Proof.Machine

/-- What a collection lists under a key. -/
def SMap.find? {α : Type} : SMap α → Nat → Option α
  | [], _ => none
  | (k, a) :: rest, n => if k = n then some a else if n < k then none else SMap.find? rest n

/-- A collection with one key set; keys stay strictly rising. -/
def SMap.put {α : Type} : SMap α → Nat → α → SMap α
  | [], n, a => [(n, a)]
  | (k, b) :: rest, n, a =>
    if k = n then (n, a) :: rest else if n < k then (n, a) :: (k, b) :: rest else (k, b) :: SMap.put rest n a

/-- A collection with one key taken out. -/
def SMap.drop {α : Type} : SMap α → Nat → SMap α
  | [], _ => []
  | (k, b) :: rest, n => if k = n then rest else if n < k then (k, b) :: rest else (k, b) :: SMap.drop rest n

/-- R162: the kind of a location: 0 a compute core, 1 a management core. -/
def locKind (l : Loc) : Nat := l / 2 ^ 24 % 4
def locModule (l : Loc) : Nat := l / 2 ^ 14 % 2 ^ 10
def locDie (l : Loc) : Nat := l / 2 ^ 10 % 16
def locCluster (l : Loc) : Nat := l / 16 % 64
def locCore (l : Loc) : Nat := l % 16

/-- A location from its fields (R154). -/
def mkLoc (kind m d c k : Nat) : Loc := kind * 2 ^ 24 + m * 2 ^ 14 + d * 2 ^ 10 + c * 16 + k

/-- R154: management core `k` of quadrant `q` of a die. -/
def mgmtLoc (m d q k : Nat) : Loc := mkLoc 1 m d q k

/-- The key of a cluster: module, die, cluster. -/
def locClusterKey (l : Loc) : Nat := l % 2 ^ 24 / 16
/-- The key of a die: module, die. -/
def locDieKey (l : Loc) : Nat := l % 2 ^ 24 / 2 ^ 10

/-- The quadrant of a core: sixteen clusters each (R1); a management core names its own (R154). -/
def locQuadrant (l : Loc) : Nat := if locKind l = 1 then locCluster l % 4 else locCluster l / 16

def State.core (s : State) (l : Loc) : Core := (s.cores.find? l).getD (Core.reset l)
def State.setCore (s : State) (l : Loc) (c : Core) : State := { s with cores := s.cores.put l c }
def State.cluster (s : State) (k : Nat) : Cluster := (s.clusters.find? k).getD Cluster.reset
def State.setCluster (s : State) (k : Nat) (c : Cluster) : State := { s with clusters := s.clusters.put k c }
def State.die (s : State) (k : Nat) : Die := (s.dies.find? k).getD Die.reset
def State.setDie (s : State) (k : Nat) (d : Die) : State := { s with dies := s.dies.put k d }
def State.module (s : State) (k : Nat) : Module := (s.modules.find? k).getD (Module.reset k)
def State.setModule (s : State) (k : Nat) (m : Module) : State := { s with modules := s.modules.put k m }

def State.mapCore (s : State) (l : Loc) (f : Core → Core) : State := s.setCore l (f (s.core l))
def State.mapCluster (s : State) (k : Nat) (f : Cluster → Cluster) : State := s.setCluster k (f (s.cluster k))
def State.mapDie (s : State) (k : Nat) (f : Die → Die) : State := s.setDie k (f (s.die k))
def State.mapModule (s : State) (k : Nat) (f : Module → Module) : State := s.setModule k (f (s.module k))

/-- Thread `k` of a core; a number beyond the five slots names slot 4. -/
def Core.thread (c : Core) (k : Nat) : Thread := c.threads.getD k c.threads[4]
def Core.setThread (c : Core) (k : Nat) (t : Thread) : Core :=
  { c with threads := if h : k < 5 then c.threads.set k t h else c.threads }

def State.threadAt (s : State) (l : Loc) (k : Nat) : Thread := (s.core l).thread k
def State.setThreadAt (s : State) (l : Loc) (k : Nat) (t : Thread) : State := s.mapCore l (·.setThread k t)
def State.mapThreadAt (s : State) (l : Loc) (k : Nat) (f : Thread → Thread) : State :=
  s.setThreadAt l k (f (s.threadAt l k))

/-- The core at which the moving thread issues. -/
def State.loc (s : State) : Loc :=
  match s.cur with
  | .slot l _ => l
  | .parked l _ => l

/-- The slot of the moving thread; a parked task has none and reads as slot 0. -/
def State.slotNo (s : State) : Nat :=
  match s.cur with
  | .slot _ k => k
  | .parked _ _ => 0

/-- The moving thread's core. -/
def State.cr (s : State) : Core := s.core s.loc
def State.mapCr (s : State) (f : Core → Core) : State := s.mapCore s.loc f
/-- The moving thread's cluster. -/
def State.cl (s : State) : Cluster := s.cluster (locClusterKey s.loc)
def State.mapCl (s : State) (f : Cluster → Cluster) : State := s.mapCluster (locClusterKey s.loc) f

/-- The number of a loop's turn runs from 0; the state passes through them in order. -/
def iterate {α : Type} (f : Nat → α → α) : Nat → Nat → α → α
  | 0, _, a => a
  | n + 1, i, a => iterate f n (i + 1) (f i a)

/-- A fresh number for a task, command, request or message. -/
def State.newId (s : State) : Nat × State := (s.nextId, { s with nextId := s.nextId + 1 })

/-- A word that the spec leaves open (log 18). -/
def State.freeWord (s : State) : Word × State := (Config.freeWord s.fresh, { s with fresh := s.fresh + 1 })

/-- A choice among `n` that the spec leaves to the part (log 18). -/
def State.choose (s : State) (n : Nat) : Nat × State :=
  (if n ≤ 1 then 0 else Config.freeChoice n s.fresh % n, { s with fresh := s.fresh + 1 })

/-- R425, R10: whether a module is in the domain. -/
def State.member (s : State) (m : Nat) : Bool := m < s.domain

/-- R10, R424, R426: whether a die is present, enabled and not found failed; a module has twelve. -/
def State.dieOn (s : State) (m d : Nat) : Bool :=
  d < 12 && (s.module m).health.toNat.testBit (40 + d) && !((s.module m).failedDies.contains d)

/-- R425: whether a logical cluster is enabled. -/
def State.clusterOn (s : State) (m d c : Nat) : Bool := (s.die (m * 16 + d)).clmap.toNat.testBit c

/-- R425: whether a logical core is enabled. -/
def State.coreOn (s : State) (m d c k : Nat) : Bool :=
  s.clusterOn m d c && (s.cluster (m * 2 ^ 10 + d * 64 + c)).coremap.toNat.testBit k

/-- R154: whether a location names a core that is there: a compute core of an enabled cluster, or one of the two management
cores of each of the four quadrants of an enabled die. -/
def State.coreThere (s : State) (l : Loc) : Bool :=
  s.member (locModule l) && s.dieOn (locModule l) (locDie l) &&
  (if locKind l = 0 then s.coreOn (locModule l) (locDie l) (locCluster l) (locCore l)
   else locKind l = 1 && locCluster l < 4 && locCore l < 2)

/-- R403: whether the routing tables of a module mark another unreachable; a module that is declared unreachable has no route to
any other (log 14). -/
def State.cutOff (s : State) (a b : Nat) : Bool := a ≠ b && (s.unreachable.contains a || s.unreachable.contains b)

/-- Adds to a telemetry counter of a module, saturating (R415). -/
def State.count (s : State) (m off n : Nat) : State :=
  s.mapModule m fun x =>
    { x with telemetry := x.telemetry.put off (min (2 ^ 64 - 1) ((x.telemetry.find? off).getD 0 + n)) }

/-- R415: a counter of a die's block. -/
def State.countDie (s : State) (dieKey entry n : Nat) : State :=
  s.count (dieKey / 16) (0x1000 + 256 * (dieKey % 16) + 8 * entry) n

/-- Lays down a step of another agent to take its turn (log 1). -/
def State.push (s : State) (e : Event) : State := { s with pending := s.pending ++ [e] }

/-- The bits [hi:lo] of a word, as a number. -/
def bits {n : Nat} (x : BitVec n) (hi lo : Nat) : Nat := x.toNat / 2 ^ lo % 2 ^ (hi + 1 - lo)

/-- One bit of a word. -/
def bit {n : Nat} (x : BitVec n) (i : Nat) : Bool := x.toNat.testBit i

/-- A word with the bits [hi:lo] replaced. -/
def setBits {n : Nat} (x : BitVec n) (hi lo v : Nat) : BitVec n :=
  BitVec.ofNat n (x.toNat - bits x hi lo * 2 ^ lo + v % 2 ^ (hi + 1 - lo) * 2 ^ lo)

/-- A register write under a mask of writable bits: the others keep their value. -/
def masked (old new : Word) (m : Nat) : Word := (new &&& BitVec.ofNat 64 m) ||| (old &&& ~~~(BitVec.ofNat 64 m))

/-- R278, R208: Serial(a, b). -/
def serial (a b : BitVec 32) : Int := (a - b).toInt

/-- Little-endian bytes of a number (R198). -/
def toBytes : Nat → Nat → List Byte
  | 0, _ => []
  | n + 1, v => BitVec.ofNat 8 v :: toBytes n (v / 256)

/-- The number that little-endian bytes hold (R198). -/
def ofBytes : List Byte → Nat
  | [] => 0
  | b :: rest => b.toNat + 256 * ofBytes rest

/-- `n` bytes of a list from byte `i`, as a number. -/
def leAt (l : List Byte) (i n : Nat) : Nat := ofBytes ((l.drop i).take n)

/-- Every byte of a range is zero. -/
def zeroBytes (l : List Byte) (i n : Nat) : Bool := ((l.drop i).take n).all (· == 0)

/-- R200: sign extension of the low `w` bits of a number. -/
def sextInt (w v : Nat) : Int :=
  let x := v % 2 ^ w
  if w ≠ 0 && 2 ^ (w - 1) ≤ x then (x : Int) - (2 ^ w : Nat) else x

/-- R200: an address moved by a signed offset, modulo 2^80. -/
def addPtr (p : Ptr) (o : Int) : Ptr := p + BitVec.ofInt 80 o

end Sys2Proof.Machine
end

