-- ==== Sys2Proof/Machine/Mem.lean ====
section
/-! DEFINITION. Memory at its homes: physical addresses (R15, R16), what an unlisted byte reads as, the canonical list of
bytes, the encryption of HBM (R75), soft errors (R423), page hotness (R92) and frames being moved (R95, R96). -/

namespace Sys2Proof.Machine

def paModule (pa : Nat) : Nat := pa / 2 ^ 54 % 2 ^ 10
def paDie (pa : Nat) : Nat := pa / 2 ^ 50 % 16
def paKind (pa : Nat) : Nat := pa / 2 ^ 48 % 4
def paOff (pa : Nat) : Nat := pa % 2 ^ 48
def paDieKey (pa : Nat) : Nat := pa / 2 ^ 50 % 2 ^ 14

/-- A physical address from its fields (R15). -/
def mkPa (m d kind off : Nat) : Nat := m * 2 ^ 54 + d * 2 ^ 50 + kind * 2 ^ 48 + off

/-- R16: a byte of an SP1 (level 1), SP2 (level 2) or SP3 (level 3). -/
def spPa (m d level cl core off : Nat) : Nat := mkPa m d 1 (level * 2 ^ 46 + cl * 2 ^ 40 + core * 2 ^ 36 + off)

/-- A byte of a core's own SP1. -/
def sp1Pa (l : Loc) (off : Nat) : Nat := spPa (locModule l) (locDie l) 1 (locCluster l) (locCore l) (off % 2 ^ 16)

/-- A byte of a cluster's SP2. -/
def sp2Pa (clusterKey off : Nat) : Nat := spPa (clusterKey / 2 ^ 10) (clusterKey / 64 % 16) 2 (clusterKey % 64) 0 off

/-- Bytes of the module's context table (R20). -/
def contextTableBytes : Nat := 2 ^ 20

/-- What a byte that nothing has written reads as: scratchpads read zero (R48); of HBM, only the table of contexts at the
reset place of CTXTBL does (log 6); the rest of HBM and the host's memory have no value of the spec's (R75, log 4). -/
def blank (pa : Nat) : Option Byte :=
  if paKind pa = 1 then some 0
  else if paKind pa = 0 && paDie pa = 0 && paOff pa < contextTableBytes then some 0
  else none

/-- The listed byte of an address, or what an unlisted address holds. -/
def memFind (mem : List Host.Cell) (pa : Nat) : Option Byte :=
  match mem with
  | [] => blank pa
  | (a, b) :: rest => if a = pa then some b else if pa < a then blank pa else memFind rest pa

/-- An address set to a byte; an entry equal to what the address reads as unlisted is taken out. -/
def memPut (mem : List Host.Cell) (pa : Nat) (b : Byte) : List Host.Cell :=
  match mem with
  | [] => if blank pa = some b then [] else [(pa, b)]
  | (a, c) :: rest =>
    if a = pa then (if blank pa = some b then rest else (pa, b) :: rest)
    else if pa < a then (if blank pa = some b then (a, c) :: rest else (pa, b) :: (a, c) :: rest)
    else (a, c) :: memPut rest pa b

/-- The canonical form above a bound: addresses strictly rising from it, no entry equal to what its address reads as
unlisted. -/
def memWfFrom : Nat → List Host.Cell → Bool
  | _, [] => true
  | lo, (a, b) :: rest => decide (lo ≤ a) && decide (blank a ≠ some b) && memWfFrom (a + 1) rest

/-- The canonical form of memory. -/
def Memory.wf (mem : List Host.Cell) : Bool := memWfFrom 0 mem

/-- R418: the key in a slot of a module: the slot and how often it has been assigned; slot 0 is the clear slot, which is
assigned to no context. -/
def State.keyOf (s : State) (m slot : Nat) : Nat × Nat :=
  (slot, if slot = 0 then 0 else (((s.module m).keys.find? slot).map (·.gen)).getD 0)

/-- Reads a byte of HBM as it stands for a key, without regard to which unit holds it. -/
def State.plainByte (s : State) (key : Nat × Nat) (pa : Nat) : Byte :=
  (memFind s.mem pa).getD (Config.hbmUnwritten (pa / 64) (pa % 64) key)

/-- The 64 bytes of a unit in the plaintext they were written as. -/
def State.unitPlain (s : State) (key : Nat × Nat) (unit : Nat) : List Byte :=
  (List.range 64).map fun i => s.plainByte key (unit * 64 + i)

/-- R75: the byte a read under a key returns. Units written under another key give the wrong plaintext. -/
def State.readByte (s : State) (key : Nat × Nat) (pa : Nat) : Byte :=
  if paKind pa = 0 then
    match s.keys.find? (pa / 64) with
    | none => s.plainByte key pa
    | some w =>
      if w = key then s.plainByte key pa
      else Config.wrongKey (pa / 64) w key (s.unitPlain w (pa / 64)) (pa % 64)
  else if paKind pa = 3 then (memFind s.mem pa).getD (Config.hostMemory pa)
  else (memFind s.mem pa).getD 0

/-- Sets a run of listed bytes. -/
def memPutAll (mem : List Host.Cell) (pa : Nat) : List Byte → List Host.Cell
  | [] => mem
  | b :: rest => memPutAll (memPut mem pa b) (pa + 1) rest

/-- R75: a unit about to be written under a key: when it was last written under another, its other bytes become what a read
under the writer's key returned. -/
def State.rekey (s : State) (key : Nat × Nat) (unit : Nat) : State :=
  match s.keys.find? unit with
  | none => { s with keys := s.keys.put unit key }
  | some w =>
    if w = key then s
    else
      { s with
        keys := s.keys.put unit key
        mem := memPutAll s.mem (unit * 64) ((List.range 64).map fun i => s.readByte key (unit * 64 + i)) }

/-- Writes a byte at its home under a key. -/
def State.writeByte (s : State) (key : Nat × Nat) (pa : Nat) (b : Byte) : State :=
  let s := if paKind pa = 0 then s.rekey key (pa / 64) else s
  { s with mem := memPut s.mem pa b }

def State.readBytes (s : State) (key : Nat × Nat) (pa n : Nat) : List Byte :=
  (List.range n).map fun i => s.readByte key (pa + i)

def State.writeBytes (s : State) (key : Nat × Nat) (pa : Nat) : List Byte → State
  | [] => s
  | b :: rest => (s.writeByte key pa b).writeBytes key (pa + 1) rest

/-- The clear key (R75). -/
def clearKey : Nat × Nat := (0, 0)

/-- A little-endian number of a core's own SP1, wrapping within it. -/
def State.sp1Read (s : State) (l : Loc) (off n : Nat) : Nat :=
  ofBytes ((List.range n).map fun i => s.readByte clearKey (sp1Pa l (off + i)))

def State.sp2ReadBytes (s : State) (clusterKey off n : Nat) : List Byte := s.readBytes clearKey (sp2Pa clusterKey off) n
def State.sp2WriteBytes (s : State) (clusterKey off : Nat) (l : List Byte) : State :=
  s.writeBytes clearKey (sp2Pa clusterKey off) l

/-- R423: the unit of its code that holds a byte: 8 bytes of a scratchpad, 32 of HBM. -/
def eccUnit (pa : Nat) : Nat := if paKind pa = 0 then pa / 32 * 32 else pa / 8 * 8

/-- R72, R426: the channels of a die's two stacks that the interleave is formed over: 64 but for those out of use. -/
def Die.channels (d : Die) : List Nat := (List.range 64).filter fun c => !(d.gone.contains c)

/-- R72: the channel of a 256-byte unit of a die's HBM. -/
def State.channelOf (s : State) (dk unit : Nat) : Nat :=
  let d := s.die dk
  d.channels.getD (Config.channelHash dk d.formed unit % d.channels.length) 64

/-- R72: the quadrant at whose edge the controller of a channel sits: sixteen channels at each (log 18). -/
def channelQuadrant (c : Nat) : Nat := c / 16

/-- R423: bytes hold an uncorrectable error. -/
def State.eccHit (s : State) (pa n : Nat) : Bool := s.errs.any fun e => e.2 && eccUnit pa ≤ e.1 && e.1 < pa + n

/-- R423, R426: an access to these bytes meets an uncorrectable error, or a channel that is retired and not yet re-formed. -/
def State.eccBad (s : State) (pa n : Nat) : Bool :=
  s.eccHit pa n ||
  (paKind pa = 0 && !(s.die (paDieKey pa)).retired.isEmpty &&
    (List.range ((pa % 256 + n + 255) / 256)).any fun i =>
      (s.die (paDieKey pa)).retired.contains (s.channelOf (paDieKey pa) (paOff pa / 256 + i)))

/-- R423: the corrections an access makes: each is written back and counted. -/
def State.eccCorrect (s : State) (pa n : Nat) : State :=
  if s.errs.isEmpty then s
  else
    let hit := fun (e : Nat × Bool) => !e.2 && eccUnit pa ≤ e.1 && e.1 < pa + n
    let k := (s.errs.filter hit).length
    let s := { s with errs := s.errs.filter fun e => !(hit e) }
    if k = 0 then s else s.countDie (paDieKey pa) (if paKind pa = 0 then 4 else 0) k

/-- Counts an uncorrectable error that an access to these bytes meets (R415, R423). -/
def State.eccFail (s : State) (pa n : Nat) : State :=
  if s.eccHit pa n then s.countDie (paDieKey pa) (if paKind pa = 0 then 5 else 1) 1 else s

/-- R423: an access of the part's own to bytes of a protected store meets their errors: corrected, or counted (log 98). -/
def State.ownAccess (s : State) (pa n : Nat) : State := (s.eccFail pa n).eccCorrect pa n

/-- R416: some byte lies in the table of contexts of its module, which only the hallmark core writes. -/
def State.inContextTable (s : State) (pa n : Nat) : Bool :=
  let base := (s.module (paModule pa)).ctxtbl.toNat
  decide (base < pa + n) && decide (pa < base + contextTableBytes)

/-! R423: errors of stores that no physical address names. -/

/-- The error that stands at a place, if one does: uncorrectable or not. -/
def State.softAt (s : State) (p : SoftPlace) : Option Bool := (s.softs.find? fun e => e.1 = p).map (·.2)

/-- The error at a place has been met: it is gone, and counted under an entry of its die's telemetry. -/
def State.softMet (s : State) (dk entry : Nat) (p : SoftPlace) : State :=
  { s with softs := s.softs.filter fun e => e.1 ≠ p }.countDie dk entry 1

def migPhase (m : MigSlot) : Nat := bits m.stat 63 62
def migSize (m : MigSlot) : Nat := 2 ^ (12 + 2 * bits m.ctl 11 8)
def migSrc (m : MigSlot) : Nat := m.src.toNat / 2 ^ 12 * 2 ^ 12
def migDst (m : MigSlot) : Nat := m.dst.toNat / 2 ^ 12 * 2 ^ 12

/-- The migration whose source frame holds an address (R95). -/
def State.migOf (s : State) (pa : Nat) : Option MigSlot :=
  if paKind pa = 0 then
    (s.die (paDieKey pa)).mig.toList.find? fun m =>
      migPhase m ≠ 0 && migSrc m ≤ pa && pa < migSrc m + migSize m
  else none

/-- How many frames a request may pass on its way: every slot of every listed die (log 36). -/
def State.hops (s : State) : Nat := 8 * s.dies.length

/-- R96: where a request to an address is performed: a committed frame forwards it, and so may the frame it is forwarded to. -/
def State.homeFrom (s : State) : Nat → Nat → Nat
  | 0, pa => pa
  | n + 1, pa =>
    match s.migOf pa with
    | some m => if migPhase m = 3 then s.homeFrom n (migDst m + (pa - migSrc m)) else pa
    | none => pa

def State.homePa (s : State) (pa : Nat) : Nat := s.homeFrom s.hops pa

/-- R96, R98: on its way from frame to frame a request meets a module that no longer answers. -/
def State.lostFrom (s : State) : Nat → Nat → Bool
  | 0, _ => false
  | n + 1, pa =>
    match s.migOf pa with
    | some m =>
      let next := migDst m + (pa - migSrc m)
      migPhase m = 3 && (s.cutOff (paModule pa) (paModule next) || s.lostFrom n next)
    | none => false

/-- R94: an access cut at the 4 KiB granules of frames: each cut's address, its offset in the access and its length. -/
def granules (pa n : Nat) : List (Nat × Nat × Nat) :=
  if pa % 4096 + n ≤ 4096 then [(pa, 0, n)]
  else (List.range ((pa % 4096 + n + 4095) / 4096)).map fun i =>
    let lo := max pa (pa / 4096 * 4096 + 4096 * i)
    (lo, lo - pa, min (pa + n) (pa / 4096 * 4096 + 4096 * (i + 1)) - lo)

/-- R98: some byte of an access is forwarded through a module that no longer answers. -/
def State.homeLost (s : State) (pa n : Nat) : Bool := (granules pa n).any fun g => s.lostFrom s.hops g.1

/-- One saturating step of a counter field of a hotness entry (R92). -/
def hotStep (e : Word) (hi lo : Nat) : Word :=
  let v := bits e hi lo
  if v = 2 ^ (hi + 1 - lo) - 1 then e else setBits e hi lo (v + 1)

/-- R95: where the frame's copy of a write performed at an address lies, with its key slot, when its granule has been copied. -/
def State.mirrorOf (s : State) (pa : Nat) : Option (Nat × Nat) :=
  match s.migOf pa with
  | some m =>
    if migPhase m = 2 || (migPhase m = 1 && (pa - migSrc m) / 4096 < bits m.stat 31 0) then
      some (bits m.ctl 19 12, migDst m + (pa - migSrc m))
    else none
  | none => none

/-- R74, R95, R96: bytes of one granule written where a request to it is performed, and mirrored from there; one to the table of
contexts is dropped and counted (R416), but for the hallmark core's own. -/
def State.putAt (s : State) (hallmark : Bool) (slot pa : Nat) (data : List Byte) : Nat → State
  | 0 => s
  | n + 1 =>
    let at_ := s.homePa pa
    if !hallmark && s.inContextTable at_ data.length then s.count (paModule at_) 0x18 1
    else
      let s := s.writeBytes (s.keyOf (paModule at_) slot) at_ data
      match s.mirrorOf at_ with
      | some (key, copy) => s.putAt hallmark key copy data n
      | none => s

/-- The same for the cuts of an access. -/
def State.putCuts (s : State) (hallmark : Bool) (slot : Nat) (data : List Byte) : List (Nat × Nat × Nat) → State
  | [] => s
  | (pa, o, n) :: rest => (s.putAt hallmark slot pa ((data.drop o).take n) (s.hops + 1)).putCuts hallmark slot data rest

/-- R74, R95, R96, R416: bytes written at their homes by an agent other than the hallmark core. -/
def State.homePut (s : State) (slot pa : Nat) (data : List Byte) : State := s.putCuts false slot data (granules pa data.length)

/-- R92: counts one request that a controller serves for a requester: a core or a unit of a die, or none for an endpoint or the
host. -/
def State.hotUnit (s : State) (requester : Option Loc) (pa : Nat) : State :=
  let d := s.die (paDieKey pa)
  if paKind pa = 0 && bit d.hotcfg 63 && !bit d.hotcfg 61 && paOff pa < d.hbmsize.toNat then
    let quadrant := channelQuadrant (s.channelOf (paDieKey pa) (paOff pa / 256))
    let own : Option Nat := requester.bind fun l => if locDieKey l = paDieKey pa then some (locQuadrant l) else none
    if own = some quadrant then s
    else
      let at_ := mkPa (paModule pa) (paDie pa) 0 (bits d.hotcfg 12 0 * 2 ^ 24 + 8 * (paOff pa / 2 ^ 16))
      let s := s.ownAccess (s.homePa at_) 8
      let e : Word := BitVec.ofNat 64 (ofBytes (s.readBytes clearKey (s.homePa at_) 8))
      let e := hotStep e 63 48
      let e := match own with
        | some q => hotStep e (12 * q + 11) (12 * q)
        | none => e
      s.homePut 0 at_ (toBytes 8 e.toNat)
  else s

/-- R92, R72: an access is a request to the controller of each 256-byte unit that it touches (log 36). -/
def State.hotness (s : State) (requester : Option Loc) (pa n : Nat) : State :=
  (List.range ((pa % 256 + n + 255) / 256)).foldl (fun s i => s.hotUnit requester (pa / 256 * 256 + 256 * i)) s

/-- R74, R95, R96: a read of one granule performed at its home. -/
def State.readAt (s : State) (requester : Option Loc) (slot pa n : Nat) : List Byte × State :=
  let at_ := s.homePa pa
  let s := (s.hotness requester at_ n).eccCorrect at_ n
  (s.readBytes (s.keyOf (paModule at_) slot) at_ n, s)

/-- The same for the cuts of an access, in order. -/
def State.readCuts (s : State) (requester : Option Loc) (slot : Nat) : List (Nat × Nat × Nat) → List Byte × State
  | [] => ([], s)
  | (pa, _, n) :: rest =>
    let (b, s) := s.readAt requester slot pa n
    let (more, s) := s.readCuts requester slot rest
    (b ++ more, s)

/-- R74, R95, R96: a read performed at its home. -/
def State.homeRead (s : State) (requester : Option Loc) (slot pa n : Nat) : List Byte × State :=
  s.readCuts requester slot (granules pa n)

/-- R92, R423: what the homes of an access note before a write is performed: the request, and the corrections it makes. -/
def State.served (s : State) (requester : Option Loc) (pa n : Nat) : State :=
  (granules pa n).foldl (fun s g =>
    let at_ := s.homePa g.1
    (s.hotness requester at_ g.2.2).eccCorrect at_ g.2.2) s

/-- R423: the uncorrectable errors that the homes of an access meet are counted. -/
def State.eccFailAt (s : State) (pa n : Nat) : State := (granules pa n).foldl (fun s g => s.eccFail (s.homePa g.1) g.2.2) s

/-- R416, R92, R423: bytes written at their homes by the hallmark core, which has no quadrant: its request counts in TOTAL alone (log 36), and the
errors that it meets are corrected, or counted. -/
def State.hallmarkPut (s : State) (slot pa : Nat) (data : List Byte) : State :=
  ((s.eccFailAt pa data.length).served none pa data.length).putCuts true slot data (granules pa data.length)

/-- R74, R92: a write performed at its home. -/
def State.homeWrite (s : State) (requester : Option Loc) (slot pa : Nat) (data : List Byte) : State :=
  (s.served requester pa data.length).homePut slot pa data

end Sys2Proof.Machine
end

