-- ==== Sys2Proof/Machine/Park.lean ====
section
/-! DEFINITION. Parking records (R67-R69): where they lie, their layout, a thread written into one and read from one; fault
records as bytes (R265); and the moving thread, in its slot or in its record (R169, R281). -/

namespace Sys2Proof.Machine

/-- R67: SP2 offset of a parking slot. -/
def parkOff (cfg : Word) (n : Nat) : Nat := bits cfg 25 17 * 4096 + n * 9216

/-- R67: the usable slots of a cluster. -/
def parkUsable (cfg : Word) : Nat :=
  let base := bits cfg 25 17 * 4096
  min (bits cfg 6 0) ((0x200000 - base) / 9216)

/-- R67: a usable and free slot, the lowest where there are several (R68 names none; log 81); none while a write of PARKCFG
waits. -/
def Cluster.freePark (c : Cluster) : Option Nat :=
  if c.parkPend.isSome then none
  else (List.range (parkUsable c.parkcfg)).find? fun n => !(c.parked.any fun p => p.slot = n)

/-- The record's base in SP2. -/
def State.parkBase (s : State) (ck n : Nat) : Nat := parkOff (s.cluster ck).parkcfg n

/-- R265: a fault record in its 32 bytes. -/
def FaultRec.bytes (r : FaultRec) : List Byte :=
  toBytes 10 r.va.toNat ++ [0, 0] ++ [r.ctr.zeroExtend 8, r.cause, r.outc,
    BitVec.ofNat 8 (r.kind.toNat * 16 + r.level.toNat)] ++ toBytes 4 r.cmd.toNat ++ toBytes 4 r.row.toNat ++ toBytes 8 0

/-- R265: a fault record from its bytes. -/
def FaultRec.ofBytes (l : List Byte) : FaultRec where
  va := BitVec.ofNat 80 (leAt l 0 10)
  ctr := BitVec.ofNat 3 (leAt l 12 1)
  cause := BitVec.ofNat 8 (leAt l 13 1)
  outc := BitVec.ofNat 8 (leAt l 14 1)
  kind := BitVec.ofNat 2 (leAt l 15 1 / 16)
  level := BitVec.ofNat 3 (leAt l 15 1)
  cmd := BitVec.ofNat 32 (leAt l 16 4)
  row := BitVec.ofNat 32 (leAt l 20 4)

/-- R69: the fault queue's bytes, four records. -/
def faultQueueBytes (l : List FaultRec) : List Byte :=
  let b := (l.take 4).flatMap FaultRec.bytes
  b ++ List.replicate (128 - b.length) 0

/-- R69: bytes 40-47. -/
def faultStatus (t : Thread) : Nat := t.faults.length % 8 + (if t.ovf then 8 else 0) + t.marks.toNat * 256

/-- R196, R69: the counters' 64 bytes. -/
def counterBytes (k : Vector Counter 8) : List Byte := k.toList.flatMap fun c => toBytes 4 c.i.toNat ++ toBytes 4 c.c.toNat

/-- R69: bytes 16-19 of a record: the destination, the size code, REGS, RSTAT and the flags of a reply. -/
def destWord (reg file code regs rstat flags : Nat) : Nat :=
  reg % 32 + file % 8 * 2 ^ 5 + code % 16 * 2 ^ 8 + regs % 16 * 2 ^ 12 + rstat % 256 * 2 ^ 16 + flags % 64 * 2 ^ 24

/-- R69: the whole record of a thread. -/
def recordBytes (t : Thread) (resume : BitVec 16) (dest tag : Nat) : List Byte :=
  toBytes 8 t.gtid.toNat ++
  toBytes 2 resume.toNat ++ toBytes 4 (t.status.toNat % 2 ^ 32) ++ toBytes 2 0 ++
  toBytes 4 dest ++ toBytes 4 tag ++
  toBytes 4 (t.astat.toNat % 2 ^ 32) ++ toBytes 4 0 ++
  toBytes 8 (t.ctxid.toNat + t.prio.toNat * 2 ^ 16 + (if t.placed then 2 ^ 19 else 0) + t.torig.toNat * 2 ^ 24
    + t.tser.toNat * 2 ^ 48) ++
  toBytes 8 (faultStatus t) ++
  toBytes 16 0 ++
  toBytes 8 0 ++ t.g.toList.tail.flatMap (fun x => toBytes 8 x.toNat) ++
  t.p.toList.flatMap (fun x => toBytes 16 x.toNat) ++
  toBytes 32 (2 ^ 256 - 1) ++ t.q.toList.tail.flatMap (fun x => toBytes 32 x.toNat) ++
  counterBytes t.k ++
  t.v.toList.flatMap (fun x => toBytes 256 x.toNat) ++
  faultQueueBytes t.faults ++ toBytes 128 0

/-- R391: what ASTAT holds of a word: its reserved bits read zero, and a size that is none is 0. -/
def astatValue (v : Word) : Word :=
  let v := v &&& 0x8F0FFF0F
  let n := bits v 19 16
  if n = 2 || n = 4 || n = 8 then v else setBits v 19 16 0

/-- R69, R169: the thread that a record describes, at a word of SP1 (R201); what no record holds is as at reset, engine registers
zero (R306), reserved bits and SHD of STATUS zero (R7, R378, R381). -/
def threadOfRecord (b : List Byte) : Thread :=
  { Thread.reset with
    pc := BitVec.ofNat 16 (leAt b 8 2 / 4 * 4)
    status := BitVec.ofNat 64 (leAt b 10 4) &&& 0xFFFFFF07
    gtid := BitVec.ofNat 64 (leAt b 0 8)
    astat := astatValue (BitVec.ofNat 64 (leAt b 24 4))
    ctxid := BitVec.ofNat 16 (leAt b 32 2)
    prio := BitVec.ofNat 3 (leAt b 34 1)
    placed := (leAt b 34 1).testBit 3
    torig := BitVec.ofNat 24 (leAt b 35 3)
    tser := BitVec.ofNat 16 (leAt b 38 2)
    ovf := (leAt b 40 1).testBit 3
    marks := BitVec.ofNat 8 (leAt b 41 1)
    faults := (List.range (min 4 (leAt b 40 1 % 8))).map fun i => FaultRec.ofBytes (b.drop (8960 + 32 * i))
    g := Vector.ofFn fun i => if i.val = 0 then 0 else BitVec.ofNat 64 (leAt b (64 + 8 * i.val) 8)
    p := Vector.ofFn fun i => BitVec.ofNat 80 (leAt b (320 + 16 * i.val) 10)
    q := Vector.ofFn fun i => BitVec.ofNat 256 (leAt b (448 + 32 * i.val) 32)
    k := Vector.ofFn fun i =>
      ⟨BitVec.ofNat 32 (leAt b (704 + 8 * i.val) 4), BitVec.ofNat 32 (leAt b (708 + 8 * i.val) 4)⟩
    v := Vector.ofFn fun i => BitVec.ofNat 2048 (leAt b (768 + 256 * i.val) 256) }

/-- The parked task of a slot. -/
def State.parkedAt (s : State) (ck n : Nat) : Option Parked := (s.cluster ck).parked.find? fun p => p.slot = n

/-- The bytes of a record. -/
def State.recordAt (s : State) (ck n : Nat) : List Byte := s.sp2ReadBytes ck (s.parkBase ck n) 9216

/-- The thread of a parked task as its record holds it, with its commands and triggers. -/
def State.parkedThread (s : State) (ck n : Nat) : Thread :=
  let t := threadOfRecord (s.recordAt ck n)
  match s.parkedAt ck n with
  | some p => { t with uid := p.uid, opens := p.opens, trigs := p.trigs, xedges := p.xedges }
  | none => t

/-- R169, R281: what a completion, a fault or a trigger changes of a parked task is written to its record: its counters, its
faults, and a `g` register that a triggered command writes. -/
def State.setParkedThread (s : State) (ck n : Nat) (t : Thread) : State :=
  let base := s.parkBase ck n
  let s := s.sp2WriteBytes ck (base + 64) (toBytes 8 0 ++ t.g.toList.tail.flatMap (fun x => toBytes 8 x.toNat))
  let s := s.sp2WriteBytes ck (base + 704) (counterBytes t.k)
  let s := s.sp2WriteBytes ck (base + 40) (toBytes 2 (faultStatus t))
  let s := s.sp2WriteBytes ck (base + 8960) (faultQueueBytes t.faults)
  s.mapCluster ck fun c =>
    { c with parked := c.parked.map fun p => if p.slot = n then { p with opens := t.opens, trigs := t.trigs, xedges := t.xedges } else p }

/-- R423: the part reads or writes the record of a parked task: the errors that stand in it are met (log 98). -/
def State.meetRecord (s : State) (ck n : Nat) : State := s.ownAccess (sp2Pa ck (s.parkBase ck n)) 9216

/-- The same for the thread of a place, which has a record only while it is parked. -/
def State.meetPlace (s : State) : Place → State
  | .slot _ _ => s
  | .parked l n => s.meetRecord (locClusterKey l) n

/-- The thread of a place. -/
def State.threadOf (s : State) : Place → Thread
  | .slot l k => s.threadAt l k
  | .parked l n => s.parkedThread (locClusterKey l) n

def State.setThreadOf (s : State) (w : Place) (t : Thread) : State :=
  match w with
  | .slot l k => s.setThreadAt l k t
  | .parked l n => s.setParkedThread (locClusterKey l) n t

def State.mapThreadOf (s : State) (w : Place) (f : Thread → Thread) : State := s.setThreadOf w (f (s.threadOf w))

/-- The moving thread. -/
def State.thr (s : State) : Thread := s.threadOf s.cur
def State.setThr (s : State) (t : Thread) : State := s.setThreadOf s.cur t
def State.mapThr (s : State) (f : Thread → Thread) : State := s.setThr (f s.thr)

/-- R157, R169: where a task stands now, by the number it was started with: in a slot of a core, or parked. A core that is not
listed runs nothing. -/
def State.placeOf (s : State) (uid : Nat) : Option Place :=
  let inSlots := s.cores.findSome? fun e =>
    (List.range 5).findSome? fun k =>
      let t := e.2.thread k
      if t.st ≠ .free && t.uid = uid then some (Place.slot e.1 k) else none
  match inSlots with
  | some w => some w
  | none => s.clusters.findSome? fun e =>
      e.2.parked.findSome? fun p => if p.uid = uid then some (Place.parked p.loc p.slot) else none

end Sys2Proof.Machine
end

