-- ==== Sys2Proof/Machine/Inbox.lean ====
section
/-! DEFINITION. Messages and inboxes: building and sending a message (R153, R154), its arrival (R170, R171, R394), and the
start of a task (R155, R156, R158). -/

namespace Sys2Proof.Machine

/-- R154: the SRC field for a sender at a location. -/
def srcOf (l : Loc) : Nat := l % 2 ^ 24

/-- R154: a header with the fields that hardware writes. -/
def headerOf (hidx usr chan src skind : Nat) : Word :=
  BitVec.ofNat 64 (src * 2 ^ 40 + usr % 2 ^ 18 * 2 ^ 22 + skind % 4 * 2 ^ 20 + chan % 8 * 2 ^ 12 + hidx % 2 ^ 12)

def chanOf (h : Word) : Nat := bits h 14 12
def membOf (h : Word) : Nat := bits h 18 15
def hidxOf (h : Word) : Nat := bits h 11 0
def senderOf (h : Word) : BitVec 24 := BitVec.ofNat 24 (bits h 63 40)

/-- Puts a message on its way: it arrives at a step of its own (R171). -/
def State.send (s : State) (m : Msg) : State :=
  let (id, s) := s.newId
  ({ s with msgs := s.msgs ++ [{ m with id := id }] }).push (.messageArrival id)

/-- R164: a message that its NI holds before it is sent, because its rank moves; it has no region yet. -/
def State.keepUnsent (s : State) (m : Msg) : State :=
  let (id, s) := s.newId
  { s with msgs := s.msgs ++ [{ m with id := id, held := true, region := none }] }

/-- A message sent, or held unsent. -/
def State.sendOrHold (s : State) (hold : Bool) (m : Msg) : State := if hold then s.keepUnsent m else s.send m

/-- A message to a core, from its parts. The NI that sends it is the one of the cluster that its SRC names, [63:44] of the header; for a management
core, a dispatcher or the host the spec names none (R171; log 104: DESIGN CHOICE). -/
def message (target : Loc) (header : Word) (payload : List Word) (gtid : Word) (ctx : BitVec 16) : Msg where
  id := 0
  uid := 0
  target := target
  header := header
  payload := payload
  gtid := gtid
  ctx := ctx
  rank := none
  region := none
  loop := false
  req := none
  held := false
  queued := false
  ni := bits header 63 44

/-- R9: the window address of a level of the part. -/
def windowPtr (m d level cl core off : Nat) : Ptr :=
  BitVec.ofNat 80 (0xF * 2 ^ 76 + m * 2 ^ 66 + d * 2 ^ 62 + level * 2 ^ 60 + cl * 2 ^ 54 + core * 2 ^ 50 + off)

/-- R158: the stack top of a slot, as a window address of the core's own SP1. -/
def stackTop (c : Core) (l : Loc) (k : Nat) : Ptr :=
  windowPtr (locModule l) (locDie l) 1 (locCluster l) (locCore l)
    ((((bits c.stkcfg 15 4 : Nat) : Int) - k * (bits c.stkcfg 27 16 : Nat)) * 16 % 65536).toNat

/-- R156: the window address of a team region in a cluster's SP2. -/
def regionPtr (l : Loc) (reg4k : Nat) : Ptr :=
  windowPtr (locModule l) (locDie l) 2 (locCluster l) 0 (reg4k * 4096)

/-- R155: a handler entry: the PC and whether it starts in supervisor mode, none when it is invalid. -/
def State.handler (s : State) (l : Loc) (hidx : Nat) : Nat × Option (BitVec 16 × Bool) :=
  let c := s.core l
  let off := (bits c.htbase 15 12 * 4096 + 4 * hidx) % 2 ^ 16
  let e : BitVec 32 := BitVec.ofNat 32 (s.sp1Read l off 4)
  if bit e 31 && bits e 29 16 = 0 && bits e 1 0 = 0 && (!(bit e 30) || off < c.exb.toNat) then
    (off, some (BitVec.ofNat 16 (bits e 15 0), bit e 30))
  else (off, none)

/-- The next task serial of a core: the counter, past every serial whose failure record the cluster still holds (R87). -/
def nextSerial (fails : List FailRec) (torig : BitVec 24) : Nat → BitVec 16 → BitVec 16
  | 0, n => n
  | fuel + 1, n =>
    if fails.any (fun r => r.torig = torig && r.tser = n) then nextSerial fails torig fuel (n + 1) else n

/-- R156: the state in which a task starts in a slot. What R156 does not list, the slot keeps (log 8). `forceSup` starts the
overflow routine in supervisor mode (R171). -/
def State.startTask (s : State) (l : Loc) (k : Nat) (m : InMsg) (hidx : Nat) (forceSup : Bool) : State :=
  let c := s.core l
  let old := c.thread k
  let (off, h) := s.handler l hidx
  let s := s.ownAccess (sp1Pa l off) 4
  let h := if 0xFFE ≤ hidx && !forceSup then none else h
  let torig : BitVec 24 := BitVec.ofNat 24 (srcOf l)
  let fails := (s.cluster (locClusterKey l)).fails
  let tser := nextSerial fails torig (fails.length + 1) c.tser
  let (uid, s) := s.newId
  let g := (m.header :: m.payload.take 7).foldl (fun (r : Vector Word 32 × Nat) w => (r.1.setIfInBounds r.2 w, r.2 + 1))
    (Vector.replicate 32 0, 1)
  let p := (Vector.replicate 8 (0 : Ptr)).set 7 (stackTop c l k)
  let p := match m.region with
    | some r => if bits m.gtid 63 32 = 0 then p else p.set 6 (regionPtr l r)
    | none => p
  let t : Thread := { Thread.reset with
    st := .running
    uid := uid
    g := g.1
    p := p
    epc := old.epc
    ecause := old.ecause
    eaddr := old.eaddr
    eflast := old.eflast
    ctxcfg := old.ctxcfg
    ctxid := m.ctx
    gtid := m.gtid
    prio := BitVec.ofNat 3 (chanOf m.header)
    torig := torig
    tser := tser
    placed := m.region.isSome }
  let t : Thread := match h with
    | some (pc, sup) => { t with pc := pc, status := if sup || forceSup then 0 else 1 }
    | none =>
      { t with
        pc := BitVec.ofNat 16 c.evec.toNat
        ecause := 0x4002
        epc := 0
        eaddr := BitVec.ofNat 64 off
        status := 6 }
  (s.mapCore l fun c => { c with tser := tser + 1 }).setThreadAt l k t

/-- R171: the overflow routine starts in slot 4 when that slot is free. No message starts it: the fields of the header but HIDX, and the
envelope, are zero (log 103: DESIGN CHOICE). -/
def State.startOverflow (s : State) (l : Loc) : State :=
  if (s.threadAt l 4).st = .free then
    s.startTask l 4
      ⟨0xFFF#64, [], 0, 0, s.now, 0, false, false, 0, none, none, 0, none⟩ 0xFFF true
  else s

/-- QUEUED of R170. -/
def Core.queued (c : Core) : Nat := c.inbox.length
def Core.loopQ (c : Core) : Nat := (c.inbox.filter fun m => bit m.header 19).length
def Core.divQ (c : Core) : Nat := (c.inbox.filter (·.diverted)).length

/-- R171: a message queued in an inbox that has room; the 64th brings diverted mode at a compute core
(log 15). -/
def State.enqueue (s : State) (l : Loc) (m : InMsg) : State :=
  let c := s.core l
  let loopBack := bit m.header 19
  let m := { m with born := s.now, age := 0, diverted := c.diverted && !loopBack }
  let c := { c with inbox := c.inbox ++ [m] }
  if c.inbox.length = 64 && !c.diverted && locKind l = 0 then
    let c := { c with
      diverted := true
      inbox := c.inbox.map fun x => if bit x.header 19 then x else { x with diverted := true } }
    (s.setCore l c).startOverflow l
  else s.setCore l c

/-- Where an arrival at an inbox goes under its redirections: to the leader that acts first, with MEMB (R394; log 82). -/
def redirected (via : List Redirect) (l : Loc) (m : InMsg) : Loc × InMsg :=
  match via with
  | r :: _ => (r.leader, { m with header := setBits m.header 18 15 (locCore l % r.size + 1), via := some (l, r.slot) })
  | [] => (l, m)

/-- R171, R394: a message at an inbox under some of its redirections: queued there or with the leader, or refused while 64 are
queued. -/
def State.arriveVia (s : State) (via : List Redirect) (l : Loc) (m : InMsg) : Option State :=
  let (l, m) := redirected via l m
  if 64 ≤ (s.core l).queued then none else some (s.enqueue l m)

def State.arrive (s : State) (l : Loc) (m : InMsg) : Option State := s.arriveVia (s.core l).redirect l m

/-- R171: room in an inbox lets the oldest message held for it be tried again. -/
def State.retryHeld (s : State) (l : Loc) : State :=
  match s.msgs.find? fun m => m.held && !m.queued && m.target = l with
  | some m => s.push (.messageRetry m.id)
  | none => s

/-- The message as an inbox keeps it. -/
def Msg.inMsg (m : Msg) (now : Nat) : InMsg :=
  ⟨if m.loop then setBits m.header 19 19 1 else m.header, m.payload, m.gtid, m.ctx, now, 0, false,
    m.loop && membOf m.header = 0, chanOf m.header, m.region, m.rank, m.ni, none⟩

/-- R388: the fault message of a slot that stops, to management core 0 of the core's quadrant. -/
def State.faultMessage (s : State) (l : Loc) (k cause : Nat) : State :=
  let t := s.threadAt l k
  let g2 := srcOf l + k * 2 ^ 24 + cause % 256 * 2 ^ 32
  s.send (message (mgmtLoc (locModule l) (locDie l) (locQuadrant l) 0)
    (headerOf 0xFFD 0 7 (srcOf l) (locKind l))
    [BitVec.ofNat 64 g2, t.ecause, t.epc, t.eaddr, t.gtid, 0, 0] t.gtid t.ctxid)

end Sys2Proof.Machine
end

