-- ==== Sys2Proof/Machine/Ops.lean ====
section
/-! DEFINITION. The named operations: registers of the moving thread (R196, R219, R435), the program counter (R201, R287),
parting an alloy (R396, R398), taking a trap (R380, R55), returning from one (R383), and how a meaning stops. -/

namespace Sys2Proof.Machine

/-- The outcome of a step of this machine. -/
abbrev Out := Host.Outcome State Fault Refusal

/-! ### Registers -/

/-- R435: the shadow bank stands in for g1-g7 while a shadow handler runs. -/
def State.shadowed (s : State) (r : BitVec 5) : Bool := bit s.thr.status 3 && decide (1 ≤ r.toNat) && decide (r.toNat ≤ 7)

/-- R196: G[r]; g0 reads zero. -/
def State.g (s : State) (r : BitVec 5) : Word :=
  if r = 0 then 0
  else if s.shadowed r then s.cr.shadow.getD r.toNat 0
  else s.thr.g.get r.toFin

/-- R196: a write of G[r]; one to g0 is discarded. -/
def State.setG (s : State) (r : BitVec 5) (x : Word) : State :=
  if r = 0 then s
  else if s.shadowed r then s.mapCr fun c => { c with shadow := c.shadow.setIfInBounds r.toNat x }
  else s.mapThr fun t => { t with g := t.g.set r.toNat x r.isLt }

/-- R196, R197: P[r], named by the low three bits of a register field. -/
def State.p {n : Nat} (s : State) (r : BitVec n) : Ptr := s.thr.p.getD (r.toNat % 8) 0
def State.setP {n : Nat} (s : State) (r : BitVec n) (x : Ptr) : State :=
  s.mapThr fun t => { t with p := t.p.setIfInBounds (r.toNat % 8) x }

/-- R196: V[r]. -/
def State.v (s : State) (r : BitVec 5) : Vec := s.thr.v.get r.toFin
def State.setV (s : State) (r : BitVec 5) (x : Vec) : State :=
  s.mapThr fun t => { t with v := t.v.set r.toNat x r.isLt }

/-- R196: Q[r]; q0 reads all ones. -/
def State.q {n : Nat} (s : State) (r : BitVec n) : Pred :=
  if r.toNat % 8 = 0 then BitVec.allOnes 256 else s.thr.q.getD (r.toNat % 8) 0
/-- R196: a write of Q[r]; one to q0 is discarded. -/
def State.setQ {n : Nat} (s : State) (r : BitVec n) (x : Pred) : State :=
  if r.toNat % 8 = 0 then s else s.mapThr fun t => { t with q := t.q.setIfInBounds (r.toNat % 8) x }

/-- R196: the counter k[r]. -/
def State.k (s : State) (r : BitVec 3) : Counter := s.thr.k.get r.toFin
def State.setK (s : State) (r : BitVec 3) (x : Counter) : State :=
  s.mapThr fun t => { t with k := t.k.set r.toNat x r.isLt }

/-- R378: the thread is in user mode. -/
def State.user (s : State) : Bool := bit s.thr.status 0

/-- R378: the thread is in a trap handler. -/
def State.inh (s : State) : Bool := bit s.thr.status 2

def State.pc (s : State) : BitVec 16 := s.thr.pc
def State.setPc (s : State) (x : BitVec 16) : State := s.mapThr fun t => { t with pc := x }

/-! ### The program counter -/

/-- R287, R378: a `rpt` is active and the instruction at the PC is a word of its body. -/
def State.inBody (s : State) : Bool :=
  let st := s.thr.status
  let rk := bits st 26 22
  let beg := bits st 21 8 * 4
  rk ≠ 0 && !s.inh && beg ≤ s.pc.toNat && decide (s.pc.toNat < beg + 4 * rk)

/-- R208: NEXT. -/
def State.next (s : State) : BitVec 16 := s.pc + 4

/-- R201, R287: the instruction is done and the thread goes on behind it; at the last word of an active body a pass ends, the
counting register falls by one, and the body runs again or the repeat is over. A command that a trigger fires (R281) moves
no program counter. -/
def State.adv (s : State) : State :=
  if s.ops.isSome then s
  else
    let st := s.thr.status
    let rk := bits st 26 22
    let beg := bits st 21 8 * 4
    if s.inBody && s.pc.toNat + 4 = beg + 4 * rk then
      let r : BitVec 5 := BitVec.ofNat 5 (bits st 31 27)
      let n := s.g r - 1
      let s := s.setG r n
      if n = 0 then (s.mapThr fun t => { t with status := setBits t.status 26 22 0 }).setPc s.next
      else s.setPc (BitVec.ofNat 16 beg)
    else s.setPc s.next

/-! ### Parting an alloy -/

/-- R390: the group of n cores that holds a core. -/
def groupOf (l : Loc) (n : Nat) : List Loc := (List.range n).map fun i => l - locCore l % n + i

/-- R396: the redirections to the thread of a leader's slot, of a group of n cores, have ended: their messages are still to be moved. -/
def State.endRedirect (s : State) (l : Loc) (k n : Nat) : State :=
  ((groupOf l n).filter (· != l)).foldl (fun s m =>
    s.mapCore m fun c =>
      { c with redirect := c.redirect.map fun r => if r.leader = l && r.slot = k then { r with leaving := true } else r }) s

/-- R396: the alloy of a thread ends: its size, the cause and the size are noted, and each other member is freed at a step of
its own. -/
def State.partAlloy (s : State) (l : Loc) (k pcause : Nat) : State :=
  let t := s.threadAt l k
  if t.alloy = 0 then s
  else
    let n := t.alloy
    let s := s.setThreadAt l k
      { t with alloy := 0, astat := setBits (setBits t.astat 15 8 pcause) 19 16 n }
    let s := s.endRedirect l k n
    { s with pending := s.pending ++ ((groupOf l n).filter (· != l)).map fun m => Event.alloyMemberFree m }

/-- A value taken out of a list once. -/
def removeFirst {α : Type} [BEq α] (a : α) : List α → List α
  | [] => []
  | b :: rest => if a == b then rest else b :: removeFirst a rest

/-- R396: a message moved back to its member: MEMB cleared, LOOP and CHAN as they stood when it first arrived. -/
def movedBack (m : InMsg) : InMsg :=
  { m with
    via := none
    header := setBits (setBits (setBits m.header 18 15 0) 19 19 (if m.loop then 1 else 0)) 14 12 m.chan0 }

/-- R396: the messages held for a member by a redirection that has ended move to its inbox in arrival order, as far as it has
room; other redirections of the inbox still act on them. -/
def State.moveBack (s : State) (l : Loc) (r : Redirect) : List InMsg → State
  | [] => s.mapCore l fun c => { c with redirect := removeFirst r c.redirect }
  | m :: rest =>
    let s' := s.mapCore r.leader fun c => { c with inbox := removeFirst m c.inbox }
    match s'.arriveVia (removeFirst r (s.core l).redirect) l (movedBack m) with
    | some s' => s'.moveBack l r rest
    | none => s

/-- R394, R396: a message in a leader's inbox is one that a redirection of an inbox brought there; of one that came back by `lbk` MEMB alone
says so (R335; log 82). -/
def Redirect.brought (r : Redirect) (l : Loc) (m : InMsg) : Bool :=
  membOf m.header = locCore l % r.size + 1 && (m.via = some (l, r.slot) || m.via = none)

/-- R394, R396: an inbox leaves each redirection that has ended, once all of its messages have been moved. -/
def State.undoRedirect (s : State) (l : Loc) : State :=
  ((s.core l).redirect.filter (·.leaving)).foldl (fun s r => s.moveBack l r ((s.core r.leader).inbox.filter (r.brought l))) s

/-! ### Stopping a slot and taking a trap -/

/-- R55, R157, R386: a slot stops with its registers kept; its staging line is emptied (R14) and its PC-match exemption lost
(R435). -/
def State.stopSlot (s : State) (l : Loc) (k cause : Nat) : State :=
  (s.mapThreadAt l k fun t => { t with st := .stopped, stage := none, exempt := false, issued := none }).faultMessage l k cause

/-- What a trap reports (R205, R380): the cause, the outcome, the walk level, the count, the address value, and whether a data
access raised it. -/
structure TrapInfo where
  cause : Nat
  outcome : Nat
  level : Nat
  count : Nat
  value : Ptr
  data : Bool
deriving DecidableEq, Repr

/-- A trap without a walk level or a count. -/
def trapInfo (cause outcome : Nat) (value : Ptr) : TrapInfo := ⟨cause, outcome, 0, 0, value, false⟩

/-- R205: the value of ECAUSE. -/
def ecauseOf (i : TrapInfo) : Word :=
  BitVec.ofNat 64 (i.cause % 256 + i.outcome % 256 * 2 ^ 8 + i.level % 8 * 2 ^ 16 + min i.count 255 * 2 ^ 24)

/-- R391: the member of an alloy of n cores that ran the block at an SP1 offset (R395). -/
def blockMember (pc n : Nat) : Nat := (Nat.xor (pc / 64 % 8) (pc / 512 % 8)) % n

/-- R398: an alloy parts before trap state is written. -/
def State.partForTrap (s : State) (l : Loc) (k : Nat) (i : TrapInfo) : State :=
  let t := s.threadAt l k
  if t.alloy = 0 then s
  else
    let memb := if i.data then bits i.value 9 6 % t.alloy else blockMember t.pc.toNat t.alloy
    let s := s.partAlloy l k 2
    s.mapThreadAt l k fun t => { t with astat := setBits (setBits t.astat 27 24 memb) 31 31 1 }

/-- R380: a trap is taken by a thread at the instruction at its PC: the trap state is written, the mode changes and the PC goes
to the vector; a vector at or above EXB stops the slot (R55), as does any trap of a shadow handler (R435). -/
def State.takeTrap (s : State) (l : Loc) (k : Nat) (i : TrapInfo) : State :=
  let s := s.partForTrap l k i
  let c := s.core l
  let t := c.thread k
  let exb := c.exb.toNat
  let vec := if i.cause = 0x08 && c.ovlv.toNat < exb then c.ovlv.toNat else c.evec.toNat
  let t' : Thread := { t with
    issued := none
    epc := BitVec.ofNat 64 (bits i.value 79 64 * 2 ^ 48 + t.pc.toNat)
    ecause := ecauseOf i
    eaddr := BitVec.ofNat 64 i.value.toNat
    status := setBits (setBits t.status 1 0 (if bit t.status 0 then 2 else 0)) 2 2 1
    pc := BitVec.ofNat 16 vec }
  if bit t.status 3 then
    (s.setThreadAt l k { t' with pc := t.pc }).stopSlot l k i.cause
  else if exb ≤ vec then (s.setThreadAt l k t').stopSlot l k i.cause
  else s.setThreadAt l k t'

/-- R394: forming an alloy starts: every other inbox of the group redirects to the leader, and the thread waits until the group
is free; a stop takes it to the instruction at `pc` (R177). -/
def State.startForming (s : State) (l : Loc) (k n : Nat) (dest : Option (BitVec 5)) (pc : BitVec 16) : State :=
  let s := s.mapThreadAt l k fun t => { t with forming := some ⟨n, dest, s.now, pc⟩ }
  ((groupOf l n).filter (· != l)).foldl (fun s m => s.mapCore m fun c => { c with redirect := c.redirect ++ [⟨l, k, n, false⟩] }) s

/-- R393: the status with which forming fails at issue, if it does. -/
def State.formStatus (s : State) (l : Loc) (k n : Nat) : Option Nat :=
  let t := s.threadAt l k
  let exb := (s.core l).exb
  if t.alloy ≠ 0 || bit t.status 2 then some 2
  else if (groupOf l n).any fun m => !(s.coreThere m) then some 3
  else if (groupOf l n).any fun m => (s.core m).exb != exb then some 4
  else none

/-- R394: the group is free but for the caller's slot. -/
def State.groupFree (s : State) (l : Loc) (k n : Nat) : Bool :=
  (groupOf l n).all fun m => (List.range 5).all fun j => (m = l && j = k) || (s.threadAt m j).st = .free

/-- R391, R393: the status of an attempt to form, in ASTAT.STAT and in the register that takes it. -/
def State.formResult (s : State) (l : Loc) (k : Nat) (dest : Option (BitVec 5)) (status : Nat) : State :=
  let s := s.mapThreadAt l k fun t => { t with astat := setBits t.astat 3 0 status }
  match dest with
  | some d => { ({ s with cur := Place.slot l k }.setG d (BitVec.ofNat 64 status)) with cur := s.cur }
  | none => s

/-- R394: an alloy formed by a thread as far as it can be at once. -/
def State.formAlloy (s : State) (l : Loc) (k n : Nat) (dest : Option (BitVec 5)) (pc : BitVec 16) : State :=
  match s.formStatus l k n with
  | some st => s.formResult l k dest st
  | none => (s.startForming l k n dest pc).push (.alloyFormed l k)

/-- R383, R389: a parting that asked for it re-forms the alloy. -/
def State.reform (s : State) : State :=
  if bit s.thr.astat 31 then
    let s := s.mapThr fun t => { t with astat := setBits t.astat 31 31 0 }
    let n := bits s.thr.astat 19 16
    if n ≠ 0 then s.formAlloy s.loc s.slotNo n none s.pc else s
  else s

/-- R383: return from a trap; a parting that asked for it re-forms the alloy. The instruction returned to is not tested
against the PC-match table (R435). -/
def State.returnFromTrap (s : State) : State :=
  let t := s.thr
  (s.setThr { t with
    pc := BitVec.ofNat 16 (bits t.epc 15 2 * 4)
    status := setBits (setBits t.status 0 0 (bits t.status 1 1)) 2 2 0
    exempt := true }).reform

/-! ### How a meaning runs -/

/-- How a meaning ends before its effect is complete: a precise trap (R204), a stall of the thread, which issues the same
instruction again at its next turn (R157), or an end that the state already shows (parking, a stop). -/
inductive Stop where
  | trap (i : TrapInfo)
  | stall
  | ended
deriving DecidableEq, Repr

/-- A meaning in steps: state in, state out, or a stop with the state as it then stands. -/
abbrev M := EStateM Stop State

/-- The state after a meaning that took effect: the thread goes on behind the instruction. -/
def done (s : State) : Out := .next s.adv

/-- Takes a trap of the moving thread. -/
def trapOut (s : State) (i : TrapInfo) : Out := .next (s.takeTrap s.loc s.slotNo i)

/-- R203: ILLEGAL with an outcome; EADDR holds the word. -/
def illegal (outcome : Nat) (w : BitVec 32) : TrapInfo := trapInfo 0x02 outcome (w.zeroExtend 80)

/-- R203: PRIV, EADDR 0. -/
def privTrap : TrapInfo := trapInfo 0x03 0 0

/-- R395: the core from whose SP1 a thread fetches: its own, or the member of its alloy that runs the block. -/
def State.fetchLoc (s : State) (l : Loc) (k : Nat) (pc : Nat) : Loc :=
  let n := (s.threadAt l k).alloy
  if n = 0 then l else l - locCore l % n + blockMember pc n

/-- R56: the word of an instruction of the thread that has issued from a PC and stalls there. -/
def Thread.issuedAt (t : Thread) (pc : BitVec 16) : Option (BitVec 32) :=
  match t.issued with
  | some (at_, w) => if at_ = pc then some w else none
  | none => none

/-- R214, R281, R56: the word that the moving thread issues: the one at its PC, or one that has issued from there and stalls, or the word of
the trigger that fires. -/
def State.word (s : State) : BitVec 32 :=
  match s.ops with
  | some t => t.word
  | none => (s.thr.issuedAt s.pc).getD (BitVec.ofNat 32 (s.sp1Read (s.fetchLoc s.loc s.slotNo s.pc.toNat) s.pc.toNat 4))

/-- R157, R202: a word of a group whose instructions go to a unit or an engine: vector, matrix, copy, tile, NI, collective, tape, swage and
endpoint. One that such a group does not take yet is not ready. -/
def toEngine (w : BitVec 32) : Bool :=
  let op := bits w 31 26
  op = 0x19 || op = 0x1A || (decide (0x27 ≤ op) && decide (op ≤ 0x34)) || op = 0x38

/-- A thread that stalls issues the same instruction again, which has been tested against the PC-match table (R435); the pieces that a store
has sent are not sent again. It has issued, and a lower EXB does not reach it (R56), but for one of a unit or an engine that has asked nothing of
others: a tile state or a full queue makes that not ready (R157). -/
def State.held (s : State) : State :=
  let w := s.word
  s.mapThr fun t => { t with
    exempt := true
    sent := t.sentHere
    sentHere := 0
    issued := if toEngine w && t.waits.isEmpty && t.sentHere = 0 && t.gbarWait.isNone then none else some (t.pc, w) }

/-- R157: the moving thread was not ready: its instruction has not issued, and it has been tested against the PC-match table (R435). -/
def State.unissued (s : State) : State := s.mapThr fun t => { t with exempt := true }

/-- Runs a meaning: a trap is delivered, a stall leaves the thread where it is. -/
def runM (m : M Unit) (s : State) : Out :=
  match m.run s with
  | .ok _ s => .next s
  | .error (.trap i) s => trapOut s i
  | .error .stall s => .next s.held
  | .error .ended s => .next s

/-- Runs a meaning and goes on behind the instruction. -/
def runAdv (m : M Unit) (s : State) : Out := runM (do m; modify State.adv) s

/-- Ends a meaning with a trap. -/
def raise {α : Type} (i : TrapInfo) : M α := throw (.trap i)

/-- Ends a meaning with ILLEGAL. -/
def raiseIllegal {α : Type} (outcome : Nat) (w : BitVec 32) : M α := throw (.trap (illegal outcome w))

/-- Ends a meaning with a stall. -/
def stall {α : Type} : M α := throw .stall

/-- A trap unless a condition holds. -/
def demand (ok : Bool) (i : TrapInfo) : M Unit := if ok then pure () else raise i

/-- Runs `f` at 0 to n − 1 in order. -/
def forUpTo (f : Nat → M Unit) : Nat → Nat → M Unit
  | 0, _ => pure ()
  | n + 1, i => do f i; forUpTo f n (i + 1)

/-- Runs `f` at 0 to n − 1 in order, collecting the answers. -/
def collect {α : Type} (f : Nat → M α) : Nat → Nat → M (List α)
  | 0, _ => pure []
  | n + 1, i => do
    let a ← f i
    let rest ← collect f n (i + 1)
    pure (a :: rest)

/-- Runs a meaning and answers its trap or end instead of passing it on; the state is as the stop left it. A stall passes. -/
def attempt {α : Type} (m : M α) : M (Except Stop α) := fun s =>
  match m.run s with
  | .ok a s => .ok (.ok a) s
  | .error (.trap i) s => .ok (.error (.trap i)) s
  | .error e s => .error e s

/-- R203 step 7: ILLEGAL for the word being issued. -/
def badOperand {α : Type} (outcome : Nat) : M α := do throw (.trap (illegal outcome (← get).word))

/-- R203 step 7: a check of an operand. -/
def check (ok : Bool) (outcome : Nat) : M Unit := if ok then pure () else badOperand outcome

/-- R287: a word of an active body that may not stand there. -/
def outsideBody : M Unit := do
  let s ← get
  check (!s.inBody) 0x06

end Sys2Proof.Machine
end

