-- ==== Sys2Proof/Machine/Routes.lean ====
section
/-! DEFINITION. The fabric between modules: router ports and the state of their links (R403, R408), the routing tables, and flits sent
on a port with its replay buffer and its flow control (R404, R405, R410, R428). -/

namespace Sys2Proof.Machine

/-! ### Ports -/

def Module.link (m : Module) (p : Nat) : Link := (m.links.find? p).getD Link.reset

def State.port (s : State) (m p : Nat) : Link := (s.module m).link p
def State.mapLink (s : State) (m p : Nat) (f : Link → Link) : State :=
  s.mapModule m fun x => { x with links := x.links.put p (f (x.link p)) }

/-- R403: a port of the router that carries links to other modules. -/
def fabricPort (p : Nat) : Bool := decide (p < 126)
/-- R403: a port with an optical link to another group. -/
def globalPort (p : Nat) : Bool := decide (62 ≤ p ∧ p < 126)

/-- R408: the fields of LNKSTAT. -/
def Link.state (x : Link) : Nat := bits x.stat 63 62
def Link.width (x : Link) : Nat := bits x.stat 61 60
def Link.erased (x : Link) (lane : Nat) : Bool := bit x.stat (52 + lane)
def Link.spareUsed (x : Link) : Bool := bit x.stat 51 || x.tuning.isSome

/-- R410: a link that takes new traffic: it is up and no reconfiguration holds it. -/
def Link.isOpen (x : Link) : Bool := x.state = 2 && x.ocs = 0

/-- R403, R410: a link that a routing table may go on naming: it is up or in an announced reconfiguration. -/
def Link.isKept (x : Link) : Bool := x.state = 2 || x.ocs ≠ 0

/-- The other end of a link that has trained. -/
def Link.peerPort (x : Link) : Nat := (x.wired.getD (0, 0)).2
def Link.peerModule (x : Link) : Nat := (x.wired.getD (0, 0)).1

/-- R406: the lanes of a width, as LNKSTAT holds it. -/
def widthLanes (w : Nat) : Nat :=
  match w with
  | 0 => 8
  | 1 => 4
  | 2 => 2
  | _ => 0

/-! ### Flits -/

/-- A flit but for its sequence number. -/
def Flit.rest (f : Flit) : FlitRest := ⟨f.vc, f.ack, f.nak, f.cred, f.payload⟩

/-- R404: bytes 0–241 of a flit, over which its CRC runs. -/
def Flit.body (f : Flit) : List Byte :=
  toBytes 2 (f.seq.toNat + f.vc.toNat * 2 ^ 12) ++ toBytes 2 (f.ack.toNat + f.nak.toNat * 2 ^ 15) ++ toBytes 2 f.cred.toNat ++
    f.payload.take 236 ++ List.replicate (236 - f.payload.length) 0

/-- R404: the 256 bytes of a flit. -/
def Flit.bytes (f : Flit) : List Byte :=
  let b := f.body ++ toBytes 8 (Config.crc64 f.body).toNat
  b ++ toBytes 6 (Config.fec b).toNat

/-- R405: flits acknowledged up to and including a sequence number leave the replay buffer. -/
def acknowledged (l : List Flit) (seq : BitVec 12) : List Flit :=
  if l.any fun f => f.seq = seq then (l.dropWhile fun f => f.seq ≠ seq).drop 1 else l

/-- R428: cycles or flits counted on a router port's channel, at the die that hosts it. -/
def State.countLink (s : State) (m p v flits stall : Nat) : State :=
  s.mapDie (m * 16 + p % 12) fun d =>
    let k := 8 * (336 + p) + v
    let c := (d.counts.find? k).getD (0, 0)
    { d with counts := d.counts.put k (c.1 + flits, c.2 + stall) }

/-- A flit goes to the module at the other end, where it is received at a step of its own (R405), and is counted (R428). -/
def State.putFlit (s : State) (m p : Nat) (f : Flit) : State :=
  let x := s.port m p
  (s.countLink m p (f.vc.toNat % 8) 1 0).push
    (.flitReceive x.peerModule x.peerPort f.seq f.rest true)

/-- R405, R410: whether a link takes a new flit now: it is up, no reconfiguration holds it, its replay buffer has room and the
receiver has a slot. -/
def Link.ready (x : Link) : Bool := x.isOpen && x.replay.length < 1024 && x.slots ≠ 0

/-- A flit that waits at a port is sent when the port takes it: it gets its number, the acknowledgement of what has been received
and the slots owed to the peer (R404). -/
def State.sendNext (s : State) (m p : Nat) : State :=
  let x := s.port m p
  match x.waiting with
  | [] => s
  | f :: rest =>
    if x.ready then
      let f := { f with seq := x.txSeq, ack := x.rxSeq - 1, cred := BitVec.ofNat 16 x.owed }
      (s.mapLink m p fun x => { x with
        waiting := rest
        replay := x.replay ++ [f]
        txSeq := x.txSeq + 1
        slots := x.slots - 1
        owed := 0
        acked := if x.replay.isEmpty then s.now else x.acked }).putFlit m p f
    else s

/-- As many as it takes. -/
def State.pump (s : State) (m p : Nat) : State := iterate (fun _ s => s.sendNext m p) (s.port m p).waiting.length 0 s

/-! ### Routing tables -/

/-- The ports to other modules whose links are as asked. -/
def Module.portsOf (x : Module) (ok : Link → Bool) : List Nat := (x.links.filter fun e => fabricPort e.1 && ok e.2).map (·.1)

/-- The ports of a module whose links are up. -/
def Module.upPorts (x : Module) : List Nat := x.portsOf fun y => y.state = 2

/-- The ports of a module whose links are as asked and lead to another. -/
def State.portsTo (s : State) (ok : Link → Bool) (a b : Nat) : List Nat :=
  ((s.module a).portsOf ok).filter fun p => (s.port a p).peerModule = b

/-- R403: the routes from a module to another over such links: the port of the first hop, and that of a second one by way of a third
module. A route crosses at most three routers and uses at most one global link. -/
def State.routesOver (s : State) (ok : Link → Bool) (a b : Nat) : List (Nat × Option Nat) :=
  (s.portsTo ok a b).map (fun p => (p, none)) ++
  ((s.module a).portsOf ok).flatMap fun p =>
    let x := (s.port a p).peerModule
    if x = b || x = a then []
    else ((s.portsTo ok x b).filter fun q => !(globalPort p && globalPort q)).map fun q => (p, some q)

/-- The routes that take new traffic. -/
def State.routesTo (s : State) (a b : Nat) : List (Nat × Option Nat) := s.routesOver Link.isOpen a b

def State.portHeld (s : State) (m p : Nat) : Bool := (s.port m p).isKept

/-- R403: the hops, as modules and ports, by which the routing tables take traffic from one module to another; none where a table names no
port or one whose link is down. -/
def State.hopsOf (s : State) (a b : Nat) : List (Nat × Nat) :=
  match ((s.module a).routes.find? b).filter (s.portHeld a) with
  | none => []
  | some p =>
    let x := (s.port a p).peerModule
    if x = b then [(a, p)]
    else match ((s.module x).routes.find? b).filter fun q => s.portHeld x q && (s.port x q).peerModule = b with
      | some q => [(a, p), (x, q)]
      | none => []

/-- R403, R406: the hops from one module to another: those of the tables while they hold, else one of the routes that are up, which the domain's
tables choose (log 24); none while no route is up. -/
def State.route (s : State) (a b : Nat) : List (Nat × Nat) × State :=
  match s.hopsOf a b with
  | h :: more => (h :: more, s)
  | [] =>
    let l := s.routesTo a b
    if l.isEmpty then ([], s)
    else
      let (i, s) := s.choose l.length
      let (p, q) := l.getD i (0, none)
      let x := (s.port a p).peerModule
      let s := s.mapModule a fun y => { y with routes := y.routes.put b p }
      match q with
      | none => ([(a, p)], s)
      | some q => ([(a, p), (x, q)], s.mapModule x fun y => { y with routes := y.routes.put b q })

/-- R410: the route between two modules passes through a link whose reconfiguration is announced: the one that the tables name or, where they
name none and none is open, one that could be. -/
def State.routeFrozen (s : State) (a b : Nat) : Bool :=
  a ≠ b && match s.hopsOf a b with
    | [] => (s.routesTo a b).isEmpty && !(s.routesOver Link.isKept a b).isEmpty
    | hops => hops.any fun h => (s.port h.1 h.2).ocs ≠ 0

/-- R403, R410: traffic from a module to another waits: its route is held by a reconfiguration, or no route is up while the routing tables do
not mark either of them unreachable. -/
def State.routePaused (s : State) (a b : Nat) : Bool :=
  s.routeFrozen a b ||
    (a ≠ b && s.member b && !(s.cutOff a b) && (s.hopsOf a b).isEmpty && (s.routesTo a b).isEmpty)

/-- No route is up between two modules, and none is in a reconfiguration that pauses TMO (R82). -/
def State.noRoute (s : State) (a b : Nat) : Bool := s.routePaused a b && !(s.routeFrozen a b)

/-- Log 24: the flits in which a packet with so many bytes of data travels. -/
def flitCount (n : Nat) : Nat := (n + 32 + 235) / 236

/-- Flits that a port is to send. -/
def State.addFlits (s : State) (h : Nat × Nat) (l : List Flit) : State :=
  (s.mapLink h.1 h.2 fun x => { x with waiting := x.waiting ++ l }).pump h.1 h.2

/-- R403, R407: flits that no route takes wait at their module until one is up, those for a module out of reach excepted. -/
def State.strand (s : State) (m : Nat) (l : List Flit) : State :=
  s.mapModule m fun x => { x with strays := x.strays ++ l.filter fun f => !(s.cutOff m f.dest) }

/-- R404: a packet with `n` bytes of data goes from a module to another as flits on the port of each hop of its route; their channel and
payload are free (log 24). While no route is up they wait; for a module out of reach nothing goes (R82). -/
def State.sendPacket (s : State) (a b n : Nat) : State :=
  let (hops, s) := s.route a b
  if hops.isEmpty && !(s.routePaused a b) then s
  else
    let (v, s) := s.choose 8
    let flit := fun (i : Nat) => (⟨b, 0, BitVec.ofNat 4 v, 0, false, 0, (List.range 236).map (Config.packetByte (s.fresh + i))⟩ : Flit)
    let k := flitCount n
    let l := (List.range k).map flit
    let s := { s with fresh := s.fresh + k }
    if hops.isEmpty then s.strand a l else hops.foldl (fun s h => s.addFlits h l) s

/-- R406: flits that a module can no longer send where they stand take another route, or wait for one. -/
def State.reroute (s : State) (m : Nat) (l : List Flit) : State :=
  l.foldl (fun s f => match s.route m f.dest with
    | (h :: _, s) => s.addFlits h [f]
    | ([], s) => s.strand m [f]) s

/-- Flits that wait for a route, once one is up. -/
def State.sendStrays (s : State) : State :=
  s.modules.foldl (fun s e => e.2.strays.foldl (fun s f => match s.route e.1 f.dest with
    | ([], s) => s.strand e.1 [f]
    | (hops, s) => hops.foldl (fun s h => s.addFlits h [f]) s) (s.mapModule e.1 fun x => { x with strays := [] })) s

/-! ### What passes with time -/

/-- The acknowledgements and slots of the peer that have come back on a link by now (R404, R405). -/
def State.syncLink (s : State) (m p : Nat) : State :=
  let x := s.port m p
  if x.state ≠ 2 then s
  else
    let y := s.port x.peerModule x.peerPort
    let left := acknowledged x.replay (y.rxSeq - 1)
    let s := s.mapLink x.peerModule x.peerPort fun y => { y with owed := 0 }
    (s.mapLink m p fun x => { x with
      replay := left
      slots := x.slots + y.owed
      acked := if left.length = x.replay.length then x.acked else s.now }).pump m p

/-- The links of the domain, by module and port. -/
def State.allLinks (s : State) : List (Nat × Nat) := s.modules.flatMap fun e => e.2.links.map fun l => (e.1, l.1)

def State.syncLinks (s : State) : State := (s.allLinks.foldl (fun s e => s.syncLink e.1 e.2) s).sendStrays

/-- R428: a ck in which a flit stands at the head of a channel and the link has no slot: the channels, each once. -/
def Link.stalledChannels (x : Link) : List Nat :=
  if x.state = 2 && x.slots = 0 then (x.waiting.map fun f => f.vc.toNat % 8).eraseDups else []

def State.countStalls (s : State) : State :=
  s.allLinks.foldl (fun s e => (s.port e.1 e.2).stalledChannels.foldl (fun s v => s.countLink e.1 e.2 v 0 1) s) s

end Sys2Proof.Machine
end

