-- ==== Sys2Proof/Machine/Translate.lean ====
section
/-! DEFINITION. Translation: window space (R9-R14), page tables and the walk (R20-R33), TLBs (R34-R36), and the checks on a
physical address (R16, R17, R47, R53, R71, R73, R423, R425). -/

namespace Sys2Proof.Machine

/-- R29: the kinds of access. -/
inductive AccessKind where
  | load | store | atomic
deriving DecidableEq, Repr

/-- Who makes an access: the translating unit's TLB (R34), the path (R17), the core that the access issues from, and the
context, privilege and windows it is made under (R12, R21, R29). -/
structure Who where
  unit : Nat
  path : Path
  eth : Bool
  loc : Loc
  ctx : BitVec 16
  user : Bool
  winp : List Word
deriving DecidableEq, Repr

/-! R34: the numbers of the translating units: a kind in the low three bits, the place above. -/
def coreUnit (l : Loc) : Nat := 8 * l
def pipeUnit (l : Loc) (b : Bool) : Nat := 8 * (l % 2 ^ 24 / 4 * 4) + (if b then 2 else 1)
def copyUnit (ck : Nat) : Nat := 8 * (ck * 16) + 3
def niUnit (ck : Nat) : Nat := 8 * (ck * 16) + 4
def swageUnit (dk : Nat) : Nat := 8 * (dk * 2 ^ 10) + 5
def ethUnit (dk e : Nat) : Nat := 8 * (dk * 2 ^ 10 + e) + 6

/-- R34: the entries that a unit's TLB holds. -/
def unitEntries (u : Nat) : Nat :=
  match u % 8 with
  | 0 => 64
  | 1 => 128
  | 2 => 128
  | 3 => 256
  | 6 => 1024
  | _ => 512

/-- R34: the quadrant whose walk cache serves a unit: the unit's own; for the units at a die's edge quadrant 0 (log 11). -/
def quadrantKey (l : Loc) : Nat := 4 * locDieKey l + locQuadrant l % 4
def Who.quadrant (w : Who) : Nat :=
  if w.unit % 8 = 5 || w.unit % 8 = 6 then 4 * (w.unit / 8 % 2 ^ 24 / 2 ^ 10) else quadrantKey w.loc

/-- R92: whom a home counts a request for: none for an Ethernet endpoint. -/
def Who.requester (w : Who) : Option Loc := if w.eth then none else some w.loc

/-- R21, R281: the context, privilege and windows that an instruction acts under: the thread's own, or what a trigger that
fires has latched. -/
def State.actCtx (s : State) : BitVec 16 := match s.ops with | some t => t.ctx | none => s.thr.ctxid
def State.actUser (s : State) : Bool := match s.ops with | some t => t.user | none => s.user
def State.actWinp (s : State) : List Word := match s.ops with | some t => t.winp | none => s.cr.winp.toList

/-- The core's own access on path C (R21). -/
def State.coreWho (s : State) : Who where
  unit := coreUnit s.loc
  path := .c
  eth := false
  loc := s.loc
  ctx := s.actCtx
  user := s.actUser
  winp := s.actWinp

/-- Where an access goes: the physical address, the key slot its request carries (R75), how many bytes from here lie in the
same page, stripe unit and destination (R89), and whether the address was one of window space. -/
structure Target where
  pa : Nat
  slot : Nat
  limit : Nat
  window : Bool
deriving DecidableEq, Repr

/-- A trap of a data access. -/
def accessTrap (cause outcome level : Nat) (va : Ptr) : TrapInfo := ⟨cause, outcome, level, 0, va, true⟩

/-! ### Window space -/

def winModule (va : Ptr) : Nat := bits va 75 66
def winDie (va : Ptr) : Nat := bits va 65 62
def winLevel (va : Ptr) : Nat := bits va 61 60
def winCluster (va : Ptr) : Nat := bits va 59 54
def winCore (va : Ptr) : Nat := bits va 53 50
def winOff (va : Ptr) : Nat := bits va 49 0

/-- R8: a window-space address. -/
def isWindow (va : Ptr) : Bool := bits va 79 76 = 0xF

/-- R14: an address of a message window. -/
def isMessageWindow (va : Ptr) : Bool := isWindow va && winLevel va = 0 && bit va 49

/-- R10, R14: the bits of a window address that must be zero. -/
def winZero (va : Ptr) : Bool :=
  match winLevel va with
  | 0 => bits va 48 36 = 0 && (!(bit va 49) || bits va 35 6 = 0)
  | 1 => bits va 49 16 = 0
  | 2 => winCore va = 0 && bits va 49 21 = 0
  | _ => winCluster va = 0 && winCore va = 0 && bits va 49 28 = 0

/-- Offsets from which register blocks of a core and of a die lie (R207, R91). -/
def coreRegBase : Nat := 0x200000000
def dieRegBase : Nat := 0x800000000

/-- R425: whether the cluster and core that a location names are there, as far as the level or register offset uses them. -/
def State.placeThere (s : State) (m d level cl core off : Nat) : Bool :=
  s.member m && s.dieOn m d &&
  match level with
  | 0 => dieRegBase ≤ off || (if coreRegBase ≤ off then s.coreOn m d cl core else s.clusterOn m d cl)
  | 1 => s.coreOn m d cl core
  | 2 => s.clusterOn m d cl
  | _ => true

/-- R12: whether one permission register allows an access. -/
def winpAllows (va : Ptr) (k : AccessKind) (message : Bool) (w : Word) : Bool :=
  bit w 63 && bits w 59 58 = winLevel va &&
  bits w 57 48 ≤ winModule va && winModule va ≤ bits w 47 38 &&
  bits w 37 34 ≤ winDie va && winDie va ≤ bits w 33 30 &&
  (winLevel va = 3 || (bits w 29 24 ≤ winCluster va && winCluster va ≤ bits w 23 18)) &&
  (match k, message with
   | .load, _ => bit w 62
   | .store, true => bit w 60
   | .store, false => bit w 61
   | .atomic, true => false
   | .atomic, false => bit w 61 && bit w 62)

/-- R10, R12, R13: the physical address of a window address. R14 says what a thread's store to a message window does; an access of any other unit
to one that MS allows is taken for one of registers, and refused there with outcome 0 (log 101: DESIGN CHOICE). -/
def State.window (s : State) (w : Who) (k : AccessKind) (va : Ptr) : Except TrapInfo Target :=
  let message := isMessageWindow va
  let off := if winLevel va = 0 then bits va 35 0 else winOff va
  let there :=
    if message then s.placeThere (winModule va) (winDie va) 1 (winCluster va) (winCore va) 0
    else s.placeThere (winModule va) (winDie va) (winLevel va) (winCluster va) (winCore va) off
  if !(winZero va) || !there || (message && k = .load) then .error (accessTrap 0x09 0 0 va)
  else if !(w.winp.any (winpAllows va k message)) then .error (accessTrap 0x09 0 0 va)
  else
    let size := match winLevel va with
      | 0 => 2 ^ 36
      | 1 => 2 ^ 16
      | 2 => 2 ^ 21
      | _ => 2 ^ 28
    let pa :=
      if winLevel va = 0 then
        mkPa (winModule va) (winDie va) 2 (winCluster va * 2 ^ 40 + winCore va * 2 ^ 36 + off)
      else spPa (winModule va) (winDie va) (winLevel va) (winCluster va) (winCore va) off
    .ok ⟨pa, 0, size - off, true⟩

/-! ### Page-table entries -/

def pteSize (e : Word) : Nat := 2 ^ (12 + 2 * bits e 11 8)
def pteStriped (e : Word) : Bool := bit e 7
/-- R30: 2^m and the stripe unit. -/
def pteGroup (e : Word) : Nat := 2 ^ bits e 47 44
def pteUnit (e : Word) : Nat := 2 ^ (12 + 2 * bits e 43 41)

/-- R27, R30: an entry that is malformed at a level. -/
def malformed (lv : Nat) (e : Word) : Bool :=
  if bit e 1 then
    let s := bits e 11 8
    (12 ≤ s) || (lv = 0 && 7 ≤ s) || (lv = 1 && s ≤ 6) || (2 ≤ lv) ||
    (if pteStriped e then
      let share := pteSize e / pteGroup e
      bits e 49 48 ≠ 0 || 11 ≤ bits e 47 44 || 5 ≤ bits e 43 41 ||
      pteSize e < pteGroup e * pteUnit e || bits e 63 54 % pteGroup e ≠ 0 ||
      (bits e 40 12 * 2 ^ 12) % share ≠ 0
     else (bits e 63 12 * 2 ^ 12) % pteSize e ≠ 0)
  else lv = 0 || bits e 15 2 ≠ 0 || 2 ≤ bits e 49 48

/-- R25, R31: the physical address that a leaf gives an address, and the bytes up to the end of its page or stripe unit. -/
def leafPa (e : Word) (va : Ptr) : Nat × Nat :=
  let o := va.toNat % pteSize e
  if pteStriped e then
    let u := pteUnit e
    let i := o / u
    (mkPa (bits e 63 54 + i % pteGroup e) (bits e 53 50) 0 (bits e 40 12 * 2 ^ 12 + (i / pteGroup e * u + o % u)),
      u - o % u)
  else (bits e 63 12 * 2 ^ 12 + o, pteSize e - o)

/-- R29: the rights of a leaf that an access needs, without regard to U. -/
def leafRights (e : Word) : AccessKind → Bool
  | .load => bit e 2
  | .store => bit e 3
  | .atomic => bit e 2 && bit e 3

/-- R29: a leaf grants an access. -/
def leafGrants (e : Word) (user : Bool) (k : AccessKind) : Bool := leafRights e k && (!user || bit e 4)

/-! ### TLBs -/

/-- R34: an entry matches an address of a context. -/
def TlbEntry.covers (t : TlbEntry) (ctx : BitVec 16) (va : Ptr) : Bool :=
  t.ctx = ctx && t.base ≤ va.toNat && va.toNat < t.base + t.size

def State.tlb (s : State) (u : Nat) : List TlbEntry := (s.tlbs.find? u).getD []
def State.setTlb (s : State) (u : Nat) (l : List TlbEntry) : State := { s with tlbs := s.tlbs.put u l }

/-- R36: the smallest matching entry; every larger matching one is dropped. -/
def tlbLookup (l : List TlbEntry) (ctx : BitVec 16) (va : Ptr) : Option TlbEntry × List TlbEntry :=
  match (l.filter fun t => t.covers ctx va).foldl (fun (b : Option TlbEntry) t =>
      match b with
      | none => some t
      | some x => if t.size < x.size then some t else b) none with
  | none => (none, l)
  | some x => (some x, l.filter fun t => !(t.covers ctx va) || t.size ≤ x.size)

/-- R34: a translation put into a unit's TLB; the oldest entry goes when it is full (log 11). -/
def tlbInsert (u : Nat) (l : List TlbEntry) (t : TlbEntry) : List TlbEntry :=
  let l := l.filter (· ≠ t)
  (if unitEntries u ≤ l.length then l.tail else l) ++ [t]

/-! ### Walk caches -/

def State.walkCache (s : State) (q : Nat) : List WalkEntry := (s.walks.find? q).getD []

/-- R34: the bytes that an entry of a level covers. -/
def walkSpan (lv : Nat) : Nat := 2 ^ (13 * lv + 12)

/-- R34: a table entry of levels 5 to 1 put into a quadrant's walk cache; the oldest goes when it is full (log 11). -/
def State.keepWalk (s : State) (q : Nat) (e : WalkEntry) : State :=
  if e.level = 0 then s
  else
    let l := (s.walkCache q).filter (· ≠ e)
    { s with walks := s.walks.put q ((if 1024 ≤ l.length then l.tail else l) ++ [e]) }

/-- R34: the entry of the lowest level that a walk cache holds for an address, where the walk then starts. -/
def State.walkHit (s : State) (q : Nat) (ctx : BitVec 16) (va : Ptr) : Option WalkEntry :=
  (List.range 5).findSome? fun i =>
    (s.walkCache q).find? fun e => e.ctx = ctx && e.level = i + 1 && e.index = va.toNat / walkSpan (i + 1)

/-! ### Errors in TLBs and walk caches (R423) -/

/-- A TLB entry with an error is met by a lookup: corrected, or dropped and walked again. -/
def State.tlbError (s : State) (u : Nat) (t : TlbEntry) : State :=
  match s.softAt (.tlb u t) with
  | some true => (s.setTlb u ((s.tlb u).filter (· ≠ t))).softMet (u / 8 % 2 ^ 24 / 2 ^ 10) 6 (.tlb u t)
  | some false => s.softMet (u / 8 % 2 ^ 24 / 2 ^ 10) 0 (.tlb u t)
  | none => s

/-- A lookup of a unit's TLB meets the errors of the entries that match. -/
def State.tlbErrors (s : State) (u : Nat) (ctx : BitVec 16) (va : Ptr) : State :=
  if s.softs.isEmpty then s
  else ((s.tlb u).filter fun t => t.covers ctx va).foldl (fun s t => s.tlbError u t) s

/-- The same of a walk cache. -/
def State.walkSofts (s : State) (q : Nat) (ctx : BitVec 16) (va : Ptr) : State :=
  if s.softs.isEmpty then s
  else ((s.walkCache q).filter fun e => e.ctx = ctx && e.index = va.toNat / walkSpan e.level).foldl (fun s e =>
    match s.softAt (.walk q e) with
    | some true => { s with walks := s.walks.put q ((s.walkCache q).filter (· ≠ e)) }.softMet (q / 4) 6 (.walk q e)
    | some false => s.softMet (q / 4) 0 (.walk q e)
    | none => s) s

/-! ### Checks on a physical address -/

/-- R16, R425: the address names a byte that is there, to the end of the access. -/
def State.paThere (s : State) (pa n : Nat) : Bool :=
  let m := paModule pa
  let d := paDie pa
  let off := paOff pa
  let cl := off / 2 ^ 40 % 64
  let core := off / 2 ^ 36 % 16
  let byte := off % 2 ^ 36
  s.member m && s.dieOn m d &&
  match paKind pa with
  | 0 => off < 2 ^ 37
  | 1 =>
    match off / 2 ^ 46 with
    | 1 => byte + n ≤ 2 ^ 16 && s.coreOn m d cl core
    | 2 => byte + n ≤ 2 ^ 21 && core = 0 && s.clusterOn m d cl
    | 3 => byte + n ≤ 2 ^ 28 && core = 0 && cl = 0
    | _ => false
  | 2 => off / 2 ^ 46 = 0 && s.placeThere m d 0 cl core byte
  | _ => true

/-- R17: the kinds that a unit may reach. -/
def kindReach (p : Path) (eth : Bool) (kind : Nat) : Bool :=
  match kind with
  | 2 => !eth && (p = .c || p = .x || p = .n)
  | 3 => eth || p = .x || p = .n
  | _ => true

/-- R53: some byte lies in an SP1 below its core's EXB. -/
def State.execOnly (s : State) (pa : Nat) : Bool :=
  paKind pa = 1 && paOff pa / 2 ^ 46 = 1 &&
  decide (paOff pa % 2 ^ 36 <
    (s.core (mkLoc 0 (paModule pa) (paDie pa) (paOff pa / 2 ^ 40 % 64) (paOff pa / 2 ^ 36 % 16))).exb.toNat)

/-- Two ranges of bytes share one. -/
def overlap (a n b m : Nat) : Bool := decide (0 < n) && decide (0 < m) && decide (a < b + m) && decide (b < a + n)

/-- R70: the heaps of a cluster, when they are usable. -/
def heapRange (cfg : Word) : Nat × Nat :=
  let base := bits cfg 25 17 * 4096
  let size := 16 * bits cfg 3 0 * 4096
  if base + size ≤ 0x200000 then (base, size) else (0, 0)

/-- R71: some byte lies in a usable parking slot or a heap. -/
def State.guarded (s : State) (pa n : Nat) : Bool :=
  paKind pa = 1 && paOff pa / 2 ^ 46 = 2 &&
  (let c := s.cluster (paDieKey pa * 64 + paOff pa / 2 ^ 40 % 64)
   let byte := paOff pa % 2 ^ 36
   overlap byte n (parkOff c.parkcfg 0) (parkUsable c.parkcfg * 9216) ||
   overlap byte n (heapRange c.ovfcfg).1 (heapRange c.ovfcfg).2)

/-- R73: some byte lies at or above HBMSIZE. -/
def State.beyondHbm (s : State) (pa n : Nat) : Bool :=
  paKind pa = 0 && decide ((s.die (paDieKey pa)).hbmsize.toNat < paOff pa + n)

/-- How a check at the home of one granule ends: the cause and outcome for a requester of the same module, or none when it passes
(R16, R53, R71, R73, R423); a committed frame's requests are performed, and so checked, at the destination (R96). -/
def State.checkAt (s : State) (user : Bool) (pa n : Nat) : Option (Nat × Nat) :=
  let at_ := s.homePa pa
  if !(s.paThere pa n) || !(s.paThere at_ n) then some (0x09, 0)
  else if s.beyondHbm at_ n then some (0x09, 0x13)
  else if s.execOnly pa then some (0x07, 0)
  else if user && s.guarded pa n then some (0x09, 0x12)
  else if paKind pa ≠ 2 && s.eccBad at_ n then some (0x09, 0x10)
  else none

/-- How the checks of an access at its homes end. -/
def State.homeCheck (s : State) (user : Bool) (pa n : Nat) : Option (Nat × Nat) :=
  (granules pa n).findSome? fun g => s.checkAt user g.1 g.2.2

/-! ### The walk -/

/-- R33: a walk's read, from module `m`, of bytes at a physical address under a key slot, none when it fails. -/
def State.walkRead (s : State) (m slot pa n : Nat) : Option Nat :=
  if s.cutOff m (paModule pa) || s.homeLost pa n || 2 ≤ paKind pa || (s.homeCheck false pa n).isSome then none
  else
    let at_ := s.homePa pa
    some (ofBytes (s.readBytes (s.keyOf (paModule at_) slot) at_ n))

/-- R423: what a walk's read corrects, or counts as an uncorrectable error. -/
def State.walkErrors (s : State) (pa n : Nat) : State := s.ownAccess (s.homePa pa) n

/-- R403, R404, R410: a transaction that a unit of one module makes in another, with the bytes that go there and come back: while a
reconfiguration holds the route, or none is up, it waits at the sender. -/
def crossTo (a b out back : Nat) : M Unit := do
  let s ← get
  if a = b then pure ()
  else if s.routePaused a b then stall
  else set ((s.sendPacket a b out).sendPacket b a back)

/-- R33, R82: a walk's read made: one of another module may get no reply within TMO, which is the part's to say (log 83). -/
def walkFetch (m slot pa n : Nat) : M (Option Nat) := do
  if (← get).noRoute m (paModule pa) then pure none
  else do
    crossTo m (paModule pa) 0 n
    let r := (← get).walkRead m slot pa n
    modify fun s => s.walkErrors pa n
    if paModule pa = m then pure r
    else do
      let lost ← modifyGet fun s => s.choose 2
      pure (if lost = 1 then none else r)

/-- R28: sets A, and D for a store or atomic, in the replica that the walk read, by an atomic of the walker's own, which the home counts
(R92, log 36); a frame being moved mirrors or forwards it (R95, R96). -/
def State.setAD (s : State) (requester : Option Loc) (slot pa : Nat) (e : Word) (k : AccessKind) : State × Word :=
  let want := 2 ^ 5 + (if k = .load then 0 else 2 ^ 6)
  let e' := e ||| BitVec.ofNat 64 want
  if e' = e || s.homeLost pa 8 then (s, e') else (s.homeWrite requester slot pa (toBytes 8 e'.toNat), e')

/-- R33: the page fault of an access. -/
def pageFault (k : AccessKind) (outcome level : Nat) (va : Ptr) : TrapInfo :=
  accessTrap (match k with | .load => 0x05 | _ => 0x06) outcome level va

/-- R32: the index that a level takes from an address. -/
def walkIndex (va : Ptr) (lv : Nat) : Nat := if lv = 5 then bits va 79 77 else bits va (13 * lv + 24) (13 * lv + 12)

/-- R32: the levels of a walk, from `lv` − 1 down; the table entries that name a table are kept in the walk cache once the walk has
succeeded (R34, R35). -/
def walkFrom (w : Who) (k : AccessKind) (va : Ptr) (slot : Nat) : Nat → Nat → List WalkEntry → M Target
  | 0, _, _ => raise (pageFault k 0x03 0 va)
  | lv + 1, table, seen => do
    let at_ := table + 8 * walkIndex va lv
    match ← walkFetch (locModule w.loc) slot at_ 8 with
    | none => raise (pageFault k 0x05 lv va)
    | some x =>
      let s ← get
      let e : Word := BitVec.ofNat 64 x
      if !(bit e 0) then raise (pageFault k 0x00 lv va)
      else if malformed lv e then raise (pageFault k 0x03 lv va)
      else if !(bit e 1) then walkFrom w k va slot lv (bits e 63 16 * 2 ^ 16) (seen ++ [⟨w.ctx, lv, va.toNat / walkSpan lv, e⟩])
      else if pteStriped e && decide (s.domain < bits e 63 54 + pteGroup e) then raise (pageFault k 0x06 lv va)
      else if w.user && !(bit e 4) then raise (pageFault k 0x02 lv va)
      else if !(leafRights e k) then raise (pageFault k 0x01 lv va)
      else do
        let s := seen.foldl (fun s x => s.keepWalk w.quadrant x) s
        let (s, e) := s.setAD w.requester slot at_ e k
        let base := va.toNat / pteSize e * pteSize e
        set (s.setTlb w.unit (tlbInsert w.unit (s.tlb w.unit) ⟨w.ctx, base, pteSize e, e, slot⟩))
        let (pa, limit) := leafPa e va
        pure ⟨pa, slot, limit, false⟩

/-- R20: the two words of a context's entry, none when they cannot be read. -/
def State.contextEntry (s : State) (m : Nat) (ctx : BitVec 16) : Option (Word × Word) :=
  match s.walkRead m 255 ((s.module m).ctxtbl.toNat + 16 * ctx.toNat) 16 with
  | none => none
  | some x => some (BitVec.ofNat 64 x, BitVec.ofNat 64 (x / 2 ^ 64))

/-- R27: a malformed context entry. -/
def contextMalformed (a b : Word) : Bool := bits a 15 1 ≠ 0 || bits b 63 9 ≠ 0 || 2 ≤ bits a 49 48

/-- R32, R34: a walk from the context table, or from the lowest level that the walk cache holds. -/
def walk (w : Who) (k : AccessKind) (va : Ptr) : M Target := do
  modify fun s => s.walkSofts w.quadrant w.ctx va
  let s ← get
  let m := locModule w.loc
  let at_ := (s.module m).ctxtbl.toNat + 16 * w.ctx.toNat
  match ← walkFetch m 255 at_ 16 with
  | none => raise (pageFault k 0x05 6 va)
  | some x =>
    let a : Word := BitVec.ofNat 64 x
    let b : Word := BitVec.ofNat 64 (x / 2 ^ 64)
    if !(bit a 0) then raise (pageFault k 0x04 6 va)
    else if contextMalformed a b then raise (pageFault k 0x03 6 va)
    else
      match s.walkHit w.quadrant w.ctx va with
      | some e => walkFrom w k va (bits b 7 0) e.level (bits e.pte 63 16 * 2 ^ 16) []
      | none => walkFrom w k va (bits b 7 0) 6 (bits a 63 16 * 2 ^ 16) []

/-- R29, R32, R36: a paged address; a hit that does not grant the access, or that a store finds clean, walks. -/
def translatePaged (w : Who) (k : AccessKind) (va : Ptr) : M Target := do
  modify fun s => s.tlbErrors w.unit w.ctx va
  let s ← get
  let (hit, rest) := tlbLookup (s.tlb w.unit) w.ctx va
  match hit with
  | some t =>
    if leafGrants t.pte w.user k && (k = .load || bit t.pte 6) then do
      set (s.setTlb w.unit rest)
      let (pa, limit) := leafPa t.pte va
      pure ⟨pa, t.slot, limit, false⟩
    else do
      set (s.setTlb w.unit (rest.filter (· ≠ t)))
      walk w k va
  | none => walk w k va

/-- R32: Translate. -/
def translate (w : Who) (k : AccessKind) (va : Ptr) : M Target := do
  if isWindow va then
    match (← get).window w k va with
    | .ok t => pure t
    | .error e => raise e
  else translatePaged w k va

/-! ### Invalidation -/

/-- R37: whether a unit lies in the scope of an invalidation by a core. -/
def unitInScope (l : Loc) (scope u : Nat) : Bool :=
  let at_ := u / 8
  match scope with
  | 1 => u = coreUnit l
  | 2 => u % 8 ≤ 4 && locKind at_ = locKind l && (if locKind l = 0 then locClusterKey at_ = locClusterKey l else at_ = l)
  | 3 => locDieKey at_ = locDieKey l
  | 4 => locModule at_ = locModule l
  | _ => true

/-- R37: whether the walk cache of a quadrant lies in the scope of an invalidation by a core. -/
def walkInScope (l : Loc) (scope q : Nat) : Bool :=
  match scope with
  | 1 => false
  | 2 => q = quadrantKey l
  | 3 => q / 4 = locDieKey l
  | 4 => q / 64 = locModule l
  | _ => true

/-- R39: whether an entry is covered by an invalidation. -/
def invalCovers (i : Inval) (t : TlbEntry) : Bool :=
  (match i.ctx with | none => true | some c => t.ctx = c) &&
  (match i.size with | none => true | some n => overlap t.base t.size i.lo n)

def invalCoversWalk (i : Inval) (e : WalkEntry) : Bool :=
  (match i.ctx with | none => true | some c => e.ctx = c) &&
  (match i.size with | none => true | some n => overlap (e.index * walkSpan e.level) (walkSpan e.level) i.lo n)

end Sys2Proof.Machine
end

