-- ==== Sys2Proof/Machine/Home.lean ====
section
/-! DEFINITION. Accesses of engines and units to memory: the pieces of an access (R89), the swizzle (R49, R50), the checks on
the way and at the home with their outcomes (R17, R53, R71, R73, R82), and reads, writes and element atomics performed there
(R74, R76). -/

namespace Sys2Proof.Machine

/-- R49: the swizzled place of the chunk that holds an address, as the chunk's number in its 128-byte line. -/
def swizzleChunk (xs : Nat) (va : Ptr) : Nat :=
  if xs = 0 then bits va 6 4 else Nat.xor (bits va 6 4) (bits va (xs + 9) (xs + 7))

/-- R49, R50: the parts of a piece at their swizzled places: the physical address, the offset in the piece, the length; with a
bound on the turns, the bytes left and the offset reached. -/
def swizzled (xs : Nat) (va : Ptr) (pa : Nat) : Nat → Nat → Nat → List (Nat × Nat × Nat)
  | 0, _, _ => []
  | turns + 1, left, o =>
    if left = 0 then []
    else
      let v := va + BitVec.ofNat 80 o
      let k := min (16 - v.toNat % 16) left
      (pa + o - bits v 6 4 * 16 + swizzleChunk xs v * 16, o, k) :: swizzled xs va pa turns (left - k) (o + k)

/-- The parts of a piece: whole, but for a swizzled one in a scratchpad. -/
def chunks (xs : Nat) (va : Ptr) (pa n : Nat) : List (Nat × Nat × Nat) :=
  if xs = 0 || paKind pa ≠ 1 then [(pa, 0, n)] else swizzled xs va pa n n 0

/-- R17, R82: how an access fails before it performs: its cause and outcome, none when it may perform. Another module answers
with the outcomes of R82. A request of the home's own module that a frame forwards to a module out of reach ends as NO_REPLY too (R98),
and so a store of that module traps at once, with 0x0B and outcome 1 (log 97). -/
def State.refusal (s : State) (w : Who) (pa n : Nat) : Option (Nat × Nat) :=
  if !(kindReach w.path w.eth (paKind pa)) then some (0x09, 0)
  else if paModule pa = locModule w.loc then
    match s.homeCheck w.user pa n with
    | some e => some e
    | none => if s.homeLost pa n then some (0x0B, 1) else none
  else if s.cutOff (locModule w.loc) (paModule pa) || !(s.member (paModule pa)) then some (0x0B, 0)
  else
    match s.homeCheck w.user pa n with
    | some (0x07, _) => some (0x0B, 3)
    | some (_, 0x10) => some (0x0B, 4)
    | some _ => some (0x0B, 2)
    | none => if s.homeLost pa n then some (0x0B, 1) else none

/-- The refusal of the first part of a piece that is refused. -/
def State.refusalOf (s : State) (w : Who) : List (Nat × Nat × Nat) → Option (Nat × Nat)
  | [] => none
  | (pa, _, n) :: rest =>
    match s.refusal w pa n with
    | some e => some e
    | none => s.refusalOf w rest

/-- A piece of an access, translated and checked: its parts and its length. -/
structure Piece where
  va : Ptr
  off : Nat
  len : Nat
  slot : Nat
  window : Bool
  parts : List (Nat × Nat × Nat)
deriving DecidableEq, Repr

/-- R89, R79: translates the piece of an access that begins `off` bytes in; what a unit other than a core asks of another module is one
transaction. -/
def piece (w : Who) (k : AccessKind) (va : Ptr) (xs n off : Nat) : M Piece := do
  let v := va + BitVec.ofNat 80 off
  let t ← translate w k v
  let len := min (n - off) (max 1 t.limit)
  let len := if w.path ≠ .c && paModule t.pa ≠ locModule w.loc then min len (128 - t.pa % 128) else len
  pure ⟨v, off, len, t.slot, t.window, chunks xs v t.pa len⟩

/-- The pieces of an access in ascending order, each handled before the next is translated (R89). -/
def forPieces (w : Who) (k : AccessKind) (va : Ptr) (xs n : Nat) (f : Piece → M Unit) : Nat → Nat → M Unit
  | 0, _ => pure ()
  | fuel + 1, off => do
    if off < n then
      let p ← piece w k va xs n off
      f p
      forPieces w k va xs n f fuel (off + p.len)
    else pure ()

/-- The same, with what each piece yields in order. -/
def mapPieces {α : Type} (w : Who) (k : AccessKind) (va : Ptr) (xs n : Nat) (f : Piece → M (List α)) : Nat → Nat → M (List α)
  | 0, _ => pure []
  | fuel + 1, off => do
    if off < n then
      let p ← piece w k va xs n off
      let a ← f p
      let rest ← mapPieces w k va xs n f fuel (off + p.len)
      pure (a ++ rest)
    else pure []

/-- R265: how far into a refused piece its first faulting byte lies. -/
def State.firstBad (s : State) (w : Who) : List (Nat × Nat × Nat) → Nat
  | [] => 0
  | (pa, o, n) :: rest =>
    if (s.refusal w pa n).isSome then
      o + ((List.range n).find? fun i => (s.refusal w (pa + i) 1).isSome).getD 0
    else s.firstBad w rest

/-- R415, R423: the uncorrectable error that refuses a piece is counted where it stands. -/
def State.countFailed (s : State) (w : Who) : List (Nat × Nat × Nat) → State
  | [] => s
  | (pa, _, n) :: rest =>
    match s.refusal w pa n with
    | some (_, o) => if o = 0x10 || o = 4 then s.eccFail (s.homePa pa) n else s
    | none => s.countFailed w rest

def regOff (pa : Nat) : Nat := pa % 2 ^ 36
/-- The core that a register or SP1 address names. -/
def regCore (pa : Nat) : Loc := mkLoc 0 (paModule pa) (paDie pa) (paOff pa / 2 ^ 40 % 64) (paOff pa / 2 ^ 36 % 16)

/-- R106, R425: the level of a home: 1 for what a core has, 2 for a cluster, 3 for a die; a register's by its block. -/
def homeLevel (pa : Nat) : Nat :=
  match paKind pa with
  | 1 => paOff pa / 2 ^ 46
  | 2 => if dieRegBase ≤ regOff pa then 3 else if coreRegBase ≤ regOff pa then 1 else 2
  | _ => 3

/-- R106: whether the home of a physical address lies in the instance of a scope for a core: at core scope its SP1 and registers, at
cluster scope also its SP2, its registers and those of the other cores, at die scope the scratchpads, registers and HBM of the die, at
module scope every home but host memory. -/
def homeInScope (l : Loc) (scope pa : Nat) : Bool :=
  match scope with
  | 1 => homeLevel pa = 1 && regCore pa = l
  | 2 => homeLevel pa ≤ 2 && locKind l = 0 && locClusterKey (regCore pa) = locClusterKey l
  | 3 => paKind pa ≠ 3 && paDieKey pa = locDieKey l
  | 4 => paKind pa ≠ 3 && paModule pa = locModule l
  | _ => true

/-- R107: a request that a frame forwards lies in an instance only if both homes do. -/
def State.paInScope (s : State) (l : Loc) (scope pa : Nat) : Bool :=
  homeInScope l scope pa && homeInScope l scope (s.homePa pa)

/-- R116: a trial of a command asks for homes in a scope, and an engine's piece has one there. -/
def State.watched (s : State) (w : Who) (p : Piece) : Bool :=
  match s.watch with
  | some (l, scope) => w.path ≠ .c && p.parts.any fun x => s.paInScope l scope x.1
  | none => false

/-- Ends with the fault of a refused piece: a core's names the piece, an engine's its first faulting byte (R90, R265). A trial ends at a home
that it asks for. -/
def checkPiece (w : Who) (p : Piece) : M Unit := do
  let s ← get
  if s.watched w p then throw .ended
  match s.refusalOf w p.parts with
  | some (c, o) =>
    set (s.countFailed w p.parts)
    let at_ := if w.path = .c then p.va else p.va + BitVec.ofNat 80 (s.firstBad w p.parts)
    raise (accessTrap c o 0 at_)
  | none => pure ()

/-- R74: reads the parts of a piece at their homes. -/
def readParts (w : Who) (slot : Nat) : List (Nat × Nat × Nat) → M (List Byte)
  | [] => pure []
  | (pa, _, n) :: rest => do
    let (b, s) := (← get).homeRead w.requester slot pa n
    set s
    let more ← readParts w slot rest
    pure (b ++ more)

/-- R74: writes the parts of a piece at their homes. -/
def writeParts (w : Who) (slot : Nat) (data : List Byte) : List (Nat × Nat × Nat) → M Unit
  | [] => pure ()
  | (pa, o, n) :: rest => do
    modify fun s => s.homeWrite w.requester slot pa ((data.drop o).take n)
    writeParts w slot data rest

/-- A piece that lies in register space; there is memory nowhere in it. -/
def Piece.inRegisters (p : Piece) : Bool := p.parts.any fun x => paKind x.1 = 2

/-- The module where a piece lies. -/
def Piece.module (p : Piece) : Nat := paModule (p.parts.headD (0, 0, 0)).1

/-- R82, R410: what a unit does with a piece at its home; in another module it is a transaction, which may get no reply within TMO, whether it has
been performed there or not: the part's to say (log 83). -/
def across {α : Type} (w : Who) (p : Piece) (out back : Nat) (act : M α) : M α := do
  if p.module = locModule w.loc then act
  else do
    if (← get).noRoute (locModule w.loc) p.module then raise (accessTrap 0x0B 1 0 p.va)
    crossTo (locModule w.loc) p.module out back
    let n ← modifyGet fun s => s.choose 3
    if n = 1 then raise (accessTrap 0x0B 1 0 p.va)
    let a ← act
    if n = 2 then raise (accessTrap 0x0B 1 0 p.va)
    pure a

/-- R76: writes the parts of a piece that the same atomic has read; the request is counted once (R92). -/
def putParts (slot : Nat) (data : List Byte) : List (Nat × Nat × Nat) → M Unit
  | [] => pure ()
  | (pa, o, n) :: rest => do
    modify fun s => s.homePut slot pa ((data.drop o).take n)
    putParts slot data rest

/-- R76: the bytes of some parts, replaced by what a function of them gives, none for no write. -/
def atomicParts (w : Who) (slot : Nat) (parts : List (Nat × Nat × Nat)) (f : List Byte → M (Option (List Byte))) : M (List Byte) := do
  let old ← readParts w slot parts
  match ← f old with
  | some new => do
    putParts slot new parts
    pure old
  | none => pure old

/-- A read of `n` bytes of memory by a unit, with `reg` reading what lies in register space. -/
def readWith (reg : Who → Piece → M (List Byte)) (w : Who) (va : Ptr) (n xs : Nat) : M (List Byte) :=
  mapPieces w .load va xs n (fun p => do
    checkPiece w p
    across w p 0 p.len (if p.inRegisters then reg w p else readParts w p.slot p.parts)) n 0

/-- R76: an element atomic of a unit: naturally aligned, or it faults with CAUSE 0x04 and outcome 0x01; none acts on a register
(R436); `f` gives the new value, none for no write. -/
def memAtomic (w : Who) (va : Ptr) (n xs : Nat) (f : List Byte → M (Option (List Byte))) : M (List Byte) := do
  if va.toNat % n ≠ 0 then raise (accessTrap 0x04 0x01 0 va)
  let p ← piece w .atomic va xs n 0
  checkPiece w p
  if p.inRegisters then raise (accessTrap 0x09 0 0 p.va)
  across w p n n (atomicParts w p.slot p.parts f)

/-- R34: the NI of a cluster, working for a context (R21). -/
def niWho (l : Loc) (ctx : BitVec 16) (user : Bool) (winp : List Word) : Who := ⟨niUnit (locClusterKey l), .n, false, l, ctx, user, winp⟩

/-- R163: a team's placement entry for a rank, read at its home by an NI, none when it cannot be read or no table is known. It is no event of
a command (log 37). The table is found by the team's identifier alone: where two contexts use one, the later launch's stands for both (log 84). -/
def placement (l : Loc) (team : BitVec 32) (rank : BitVec 20) : M (Option Word) := do
  match (← get).teams.find? fun t => t.team = team with
  | none => pure none
  | some t => do
    let watch := (← get).watch
    modify fun s => { s with watch := none }
    let r ← attempt (readWith (fun _ p => raise (accessTrap 0x09 0 0 p.va)) (niWho l t.ctx false [])
        (t.plt.zeroExtend 80 + BitVec.ofNat 80 (8 * rank.toNat)) 8 0)
    modify fun s => { s with watch := watch }
    pure (match r with
      | .ok b => some (BitVec.ofNat 64 (ofBytes b))
      | .error _ => none)

def entryLoc (e : Word) : Loc := bits e 63 40
def entryEpoch (e : Word) : Nat := bits e 39 28
def entryState (e : Word) : Nat := bits e 27 26
def entryRegion (e : Word) : Nat := bits e 25 17

end Sys2Proof.Machine
end

