-- ==== Sys2Proof/Machine/Group.lean ====
section
/-! DEFINITION. Group objects (R165): the fields, and the atomics of `join`, `leave`, `gbar` and a withdrawal at the object's
home (R298, R299). -/

namespace Sys2Proof.Machine

/-- R165: the fields of a group object. -/
structure Group where
  mcount : BitVec 32
  arrived : BitVec 32
  gen : BitVec 32
  pend : BitVec 32
  scope : BitVec 8
  flags : BitVec 8
  team : BitVec 32
deriving DecidableEq, Repr

def Group.valid (o : Group) : Bool := bit o.flags 0

/-- The object from its first 28 bytes. -/
def Group.ofBytes (b : List Byte) : Group :=
  ⟨BitVec.ofNat 32 (leAt b 0 4), BitVec.ofNat 32 (leAt b 4 4), BitVec.ofNat 32 (leAt b 8 4), BitVec.ofNat 32 (leAt b 12 4),
    BitVec.ofNat 8 (leAt b 16 1), BitVec.ofNat 8 (leAt b 17 1), BitVec.ofNat 32 (leAt b 24 4)⟩

/-- The object's first 28 bytes, the reserved ones as they stood. -/
def Group.toBytes (o : Group) (old : List Byte) : List Byte :=
  Machine.toBytes 4 o.mcount.toNat ++ Machine.toBytes 4 o.arrived.toNat ++ Machine.toBytes 4 o.gen.toNat ++
  Machine.toBytes 4 o.pend.toNat ++ [o.scope, o.flags] ++ (old.drop 18).take 6 ++ Machine.toBytes 4 o.team.toNat

/-- R298: `join`: the object after it and the generation returned, or the outcome that refuses it. -/
def Group.join (o : Group) (scope : BitVec 3) (team : BitVec 32) : Except Nat (Group × BitVec 32) :=
  if !o.valid then
    .ok ({ o with mcount := 1, arrived := 0, pend := 0, scope := scope.zeroExtend 8, flags := 1, team := team }, o.gen)
  else if o.team ≠ team then .error 0x07
  else if o.arrived = 0 then .ok ({ o with mcount := o.mcount + 1 }, o.gen)
  else .ok ({ o with pend := o.pend + 1 }, o.gen + 1)

/-- R165: a generation completes. -/
def Group.complete (o : Group) : Group := { o with arrived := 0, mcount := o.mcount + o.pend, pend := 0, gen := o.gen + 1 }

/-- R165: `leave`: the object after it and whether a generation completed, or the outcome that refuses it. -/
def Group.leave (o : Group) : Except Nat (Group × Bool) :=
  if !o.valid then .error 0x06
  else
    let o := { o with mcount := o.mcount - 1 }
    let ends := decide (o.arrived ≠ 0 ∧ o.mcount ≤ o.arrived) || decide (o.mcount = 0 ∧ o.pend ≠ 0)
    let o := if ends then o.complete else o
    .ok (if o.mcount = 0 && o.pend = 0 then { o with flags := setBits o.flags 0 0 0 } else o, ends)

/-- R299: the arrival of `gbar`: the object after it, the generation read and whether it completed it. -/
def Group.arrive (o : Group) : Except Nat (Group × BitVec 32 × Bool) :=
  if !o.valid then .error 0x06
  else
    let g := o.gen
    let o := { o with arrived := o.arrived + 1 }
    if o.mcount ≤ o.arrived then .ok (o.complete, g, true) else .ok (o, g, false)

/-- R165: the home releases the reply of every arrival held for a generation. -/
def State.releaseArrivals (s : State) (pa : Nat) (gen : BitVec 32) : State :=
  let free := fun (t : Thread) =>
    match t.gbarWait with
    | some w => if w.pa = pa && w.gen = gen then { t with gbarWait := some { w with released := true } } else t
    | none => t
  let held := s.reqs.filter fun r =>
    r.performed && !r.replied && r.op = .gbar gen && (r.parts.any fun p => p.pa = pa)
  { s with
    cores := s.cores.map fun e => (e.1, { e.2 with threads := e.2.threads.map free })
    pending := s.pending ++ held.map fun r => Event.remoteReply r.id }

/-- The bytes of an object at its home. -/
def State.groupBytes (s : State) (key : Nat × Nat) (pa : Nat) : List Byte := s.readBytes key (s.homePa pa) 28

/-- An object written at its home by an atomic that has read it there; the atomic is counted once (R92). -/
def State.putGroup (s : State) (requester : Loc) (slot pa : Nat) (o : Group) : State :=
  s.homeWrite (some requester) slot pa (o.toBytes (s.groupBytes (s.keyOf (paModule (s.homePa pa)) slot) pa))

/-- The object at its home. -/
def State.groupAt (s : State) (slot pa : Nat) : Group := Group.ofBytes (s.groupBytes (s.keyOf (paModule (s.homePa pa)) slot) pa)

/-- R299: a forced stop withdraws an arrival; the answer says whether the generation was still open. -/
def State.withdraw (s : State) (requester : Loc) (w : GbarWait) : Bool × State :=
  let o := s.groupAt w.slot w.pa
  if o.gen = w.gen then (true, s.putGroup requester w.slot w.pa { o with arrived := o.arrived - 1 }) else (false, s)

end Sys2Proof.Machine
end

