-- ==== Sys2Proof/Machine/Tasks.lean ====
section
/-! DEFINITION. Tasks: ending one (R302, R387), parking one (R169, R177), continuations (R169), selecting a message for a slot
(R159) and what a task finds there (R156, R84), pre-emption (R174, R177), the overflow registers (R170, R171). -/

namespace Sys2Proof.Machine

/-! ### Ending -/

/-- R394, R396: an alloy being formed is given up: the other inboxes leave redirect mode. -/
def State.undoForming (s : State) (l : Loc) (k : Nat) : State :=
  match (s.threadAt l k).forming with
  | none => s
  | some f =>
    let s := s.mapThreadAt l k fun t => { t with forming := none }
    ((groupOf l f.size).filter (· != l)).foldl (fun s m => s.undoRedirect m) (s.endRedirect l k f.size)

/-- R354: the stores of a slot that have not performed perform, in order (log 80). -/
def State.drain (s : State) (l : Loc) (k : Nat) : State :=
  let t := s.threadAt l k
  if t.buffer.isEmpty then s
  else (t.buffer.flatten.foldl (fun s b => s.homeWrite (some l) b.slot b.pa b.data) s).mapThreadAt l k fun t => { t with buffer := [] }

/-- R130: the stores that a `gbar` has ordered perform, in order (log 80). -/
def State.performReleased (s : State) : State :=
  if s.released.isEmpty then s
  else s.released.foldl (fun s b => s.homeWrite (some b.1) b.2.slot b.2.pa b.2.data) { s with released := [] }

/-- R130: the stores of a slot that have not performed are ordered on path C, and may perform at their homes later (log 80). -/
def State.release (s : State) (l : Loc) (k : Nat) : State :=
  { s with released := s.released ++ (s.threadAt l k).buffer.flatten.map fun b => (l, b) }.mapThreadAt l k fun t => { t with buffer := [] }

/-- The stores of every slot of some cores perform, and those that a `gbar` has ordered. -/
def State.drainAll (s : State) (of : Loc → Bool) : State :=
  (s.cores.flatMap fun e => if of e.1 then (List.range 5).map fun k => (e.1, k) else []).foldl (fun s e => s.drain e.1 e.2) s.performReleased

/-- R157: a slot falls free. What the thread waited for, its triggers, streams and staging line go with it; a diverted inbox
whose routine could not start in slot 4 starts it now (R171). -/
def State.freeSlot (s : State) (l : Loc) (k : Nat) : State :=
  let s := s.drain l k
  let t := s.threadAt l k
  let s := { s with reqs := s.reqs.filter fun r => !(t.waits.contains r.id) }
  let s := s.setThreadAt l k
    { t with st := .free, waits := [], stage := none, trigs := [], streams := [], opens := [], gbarWait := none,
             gbarScope := none, exempt := false, xedges := [], issued := none }
  let s := s.mapCore l fun c => if c.shadowUser = some k then { c with shadowUser := none } else c
  if k = 4 && (s.core l).diverted then s.startOverflow l else s

/-- R302, R387: a task ends: an alloy parts, the triggers, the unconsumed hand-off slots and the streams are discarded, the
slot falls free. -/
def State.endTask (s : State) (l : Loc) (k : Nat) : State :=
  let s := (s.partAlloy l k 4).undoForming l k
  let uid := (s.threadAt l k).uid
  let s := s.mapCore l fun c => { c with hand := c.hand.filter fun h => h.uid ≠ uid }
  let s := { s with cmds := s.cmds.filter fun c => !(c.uid = uid && match c.kind with
    | .stream _ => true
    | _ => false) }
  let s := if (s.core l).dq.isEmpty then s else s.push (.dispatchServe (locClusterKey l) (locCore l / 4))
  s.freeSlot l k

/-! ### Parking -/

/-- R176, R177: the bytes of a record that a stop at a safe point writes, by offset: all but the registers that the live-map
entry does not mark. -/
def liveBytes (e : BitVec 128) (b : List Byte) : List (Nat × List Byte) :=
  let regs := fun (first bit_ n base size : Nat) =>
    ((List.range n).filter fun i => first ≤ i && bit e (bit_ + i)).map fun i => (base + size * i, (b.drop (base + size * i)).take size)
  [(0, b.take 64)] ++ regs 1 96 32 64 8 ++ regs 0 56 8 320 16 ++ regs 1 48 8 448 32 ++ regs 0 40 8 704 8 ++ regs 0 64 32 768 256 ++
  [(8960, b.drop 8960)]

/-- R200: the pointer register that an M-format load updates and by how much; its word, by major opcode: the scalar loads, `ldp`
and `vld`. It is taken from the load's word when its task parks (log 98: DESIGN CHOICE). -/
def owedUpdate (w : BitVec 32) : Option (Nat × Int) :=
  let n := match bits w 31 26 with
    | 0x0C => 1
    | 0x0D => 1
    | 0x0E => 2
    | 0x0F => 2
    | 0x10 => 4
    | 0x11 => 4
    | 0x12 => 8
    | 0x13 => 16
    | 0x19 => 256
    | _ => 0
  if n ≠ 0 && (bits w 17 16 = 1 || bits w 17 16 = 2) then some (bits w 20 18, sextInt 13 (bits w 12 0) * n) else none

/-- R169, R177: the thread of a slot goes into a parking slot: the record is written, whole or at a safe point what a live-map
entry marks, the slot marked occupied, the task slot freed. -/
def State.parkThread (s : State) (l : Loc) (k n : Nat) (t : Thread) (resume : BitVec 16) (dest tag : Nat)
    (req : Option Nat) (live : Option (BitVec 128)) (update : Option (Nat × Int)) : State :=
  let ck := locClusterKey l
  let s := s.meetRecord ck n
  let p : Parked := ⟨n, t.uid, l, req, t.opens, t.trigs, t.xedges, 0, live, update⟩
  let b := recordBytes t resume dest tag
  let parts := match live with
    | some e => liveBytes e b
    | none => [(0, b)]
  let s := parts.foldl (fun s x => s.sp2WriteBytes ck (s.parkBase ck n + x.1) x.2) s
  let s := s.mapCluster ck fun c => { c with parked := c.parked ++ [p] }
  (s.setThreadAt l k { t with waits := [] }).freeSlot l k

/-- R67, R168, R381, R262: a read from another module parks the moving thread: a parking slot is free, and the thread is in no
trap handler, no shadow handler and no alloy, and has no bound register. -/
def State.parkSlot (s : State) : Option Nat :=
  match s.cur with
  | .parked _ _ => none
  | .slot l _ =>
    let t := s.thr
    if bit t.status 2 || bit t.status 3 || t.alloy ≠ 0 || !t.streams.isEmpty then none
    else (s.cluster (locClusterKey l)).freePark

/-- R176: where a live-map entry lies in SP1, and the entry. -/
def State.liveOff (s : State) (l : Loc) (n : Nat) : Nat := bits (s.core l).htbase 15 12 * 4096 + 0x4000 + 16 * n
def State.liveEntry (s : State) (l : Loc) (n : Nat) : BitVec 128 := BitVec.ofNat 128 (s.sp1Read l (s.liveOff l n) 16)

/-- R423: the errors that a read of a live-map entry meets. -/
def State.liveRead (s : State) (l : Loc) (n : Nat) : State := s.ownAccess (sp1Pa l (s.liveOff l n)) 16

/-- R176, R177: a thread with only the registers that an entry marks live. -/
def liveOnly (e : BitVec 128) (t : Thread) : Thread :=
  { t with
    g := Vector.ofFn fun i => if bit e (96 + i.val) then t.g.get i else 0
    v := Vector.ofFn fun i => if bit e (64 + i.val) then t.v.get i else 0
    p := Vector.ofFn fun i => if bit e (56 + i.val) then t.p.get i else 0
    q := Vector.ofFn fun i => if bit e (48 + i.val) then t.q.get i else 0
    k := Vector.ofFn fun i => if bit e (40 + i.val) then t.k.get i else ⟨0, 0⟩ }

/-- R174: pre-emption of a slot has been done: PSs, DONE, FORCED, REQ. -/
def preemptDone (w : Word) (k n : Nat) (forced : Bool) : Word :=
  let w := setBits w (38 + 7 * k) (32 + 7 * k) n
  let w := setBits w (16 + k) (16 + k) 1
  let w := if forced then setBits w (24 + k) (24 + k) 1 else w
  setBits w k k 0

/-- R398: an alloy parts before a stop; REFORM is left as it is. -/
def State.partForStop (s : State) (l : Loc) (k : Nat) : State :=
  let t := s.threadAt l k
  if t.alloy = 0 then s
  else
    let memb := blockMember t.pc.toNat t.alloy
    (s.partAlloy l k 3).mapThreadAt l k fun t => { t with astat := setBits t.astat 27 24 memb }

/-- R177: a task slot stops at a safe point with live-map entry `e`, resuming behind it. -/
def State.stopSafe (s : State) (l : Loc) (k n e : Nat) (resume : BitVec 16) : State :=
  let s := s.partForStop l k
  let s := s.liveRead l e
  let s := s.parkThread l k n (s.threadAt l k) resume (destWord 0 6 0 0 0 0) 0 none (some (s.liveEntry l e)) none
  s.mapCore l fun c => { c with prectl := preemptDone c.prectl k n false }

/-- R299: the arrival of a thread that waits at an object, and whether its generation has completed: at an object of this module,
or by a request to another that has performed. -/
def State.gbarOf (s : State) (t : Thread) : Option GbarWait :=
  match t.gbarWait with
  | some w => some w
  | none => (s.reqs.find? fun r => t.waits.contains r.id && r.performed).bind fun r =>
      match r.op, r.parts with
      | .gbar gen, p :: _ => some ⟨p.pa, r.key, gen, 0, r.replied || r.refusal.isSome⟩
      | _, _ => none

/-- R177, R299: a task slot stops by force, before the instruction at its PC (an `alloy` that forms is one, R393), or behind a
barrier that has completed. -/
def State.stopForced (s : State) (l : Loc) (k n : Nat) : State :=
  let s := (s.mapThreadAt l k fun t => match t.forming with
    | some f => { t with pc := f.pc }
    | none => t).partForStop l k |>.undoForming l k
  let t := s.threadAt l k
  let (s, t) := match s.gbarOf t with
    | none => (s, t)
    | some w =>
      let (isOpen, s) := if w.released then (false, s) else s.withdraw l w
      let s := { s with reqs := s.reqs.filter fun r => !(t.waits.contains r.id) }
      let t := { t with gbarWait := none, waits := [] }
      if isOpen then (s, t)
      else
        let s' := ({ s with cur := Place.slot l k }.setThreadAt l k t).adv
        ({ s' with cur := s.cur }, s'.threadAt l k)
  let (ecause, epc, eaddr) := (t.ecause, t.epc, t.eaddr)
  let s := s.parkThread l k n t t.pc (destWord 0 7 0 0 0 0) 0 none none none
  let s := s.mapCore l fun c => { c with prectl := preemptDone c.prectl k n true }
  let s := s.mapThreadAt l k fun t => { t with ecause := ecause, epc := epc, eaddr := eaddr }
  s.faultMessage l k 0x0F

/-! ### Continuations -/

/-- R169: the continuation of a parked task is sent: to the core that its placement entry names, else to the core that parked
it. -/
def sendContinuation (ck n : Nat) : M Unit := do
  modify fun s => s.meetRecord ck n
  let s ← get
  match s.parkedAt ck n with
  | none => pure ()
  | some p => do
    let t := s.parkedThread ck n
    let team : BitVec 32 := BitVec.ofNat 32 (bits t.gtid 63 32)
    let entry ← if t.placed && team ≠ 0 then placement p.loc team (BitVec.ofNat 20 (bits t.gtid 31 12)) else pure none
    let target := match entry with
      | some e => if entryState e = 1 then entryLoc e else p.loc
      | none => p.loc
    let m := message target (headerOf 0xFFE 0 7 (srcOf p.loc / 2 ^ 10 * 2 ^ 10) 3) [BitVec.ofNat 64 n, 0, 0, 0, 0, 0, 0] t.gtid
      t.ctxid
    modify fun s => s.send { m with uid := p.uid, ni := ck }

/-- R84, R437, R69: the task goes on with its registers as the record holds them; what is left is the outcome. An RSTAT that R69 does not list
ends as a refusal with outcome 0 (log 85). After a stop at a safe point the registers not marked live read zero (R177). -/
def State.resume (s : State) (l : Loc) (k n : Nat) : State :=
  let ck := locClusterKey l
  match s.parkedAt ck n with
  | none => s
  | some p =>
    let s := s.meetRecord ck n
    let b := s.recordAt ck n
    let dest := leAt b 16 4
    let file := dest / 2 ^ 5 % 8
    let rstat := dest / 2 ^ 16 % 256
    let old := s.threadAt l k
    let t := threadOfRecord b
    let pre := 6 ≤ file
    let t : Thread := { t with
      st := .running
      uid := p.uid
      opens := p.opens
      trigs := p.trigs
      xedges := p.xedges
      epc := old.epc
      ecause := old.ecause
      eaddr := old.eaddr
      eflast := old.eflast
      ctxcfg := old.ctxcfg
      pc := if pre then t.pc else t.pc - 4 }
    let s := s.mapCluster ck fun c => { c with parked := c.parked.filter fun p => p.slot ≠ n }
    let s := s.mapCore l fun c => { c with fstat := c.fstat ||| BitVec.ofNat 64 (dest / 2 ^ 24 % 64) }
    let here := { s with cur := Place.slot l k }
    let word : BitVec 32 := BitVec.ofNat 32 (s.sp1Read l (if pre then t.pc - 4 else t.pc).toNat 4)
    if file = 6 then
      let s := if p.live.isNone then s.liveRead l (bits word 7 0) else s
      s.setThreadAt l k (liveOnly (p.live.getD (s.liveEntry l (bits word 7 0))) t)
    else if pre then s.setThreadAt l k t
    else if rstat = 1 then
      { (here.setThreadAt l k t).adv with cur := s.cur }
    else if 0x80 ≤ rstat then
      (s.setThreadAt l k t).takeTrap l k (accessTrap 0x0B (rstat - 0x80) 0 p.va)
    else
      (s.setThreadAt l k t).takeTrap l k (illegal (rstat - 0x40) word)

/-! ### Selection -/

/-- R159: the message that an inbox selects: the highest channel, in it the sender after the one last served, of that sender
the oldest. Senders of different SKIND with equal SRC count as one (log 103: DESIGN CHOICE). -/
def Core.pick (c : Core) : Option InMsg :=
  let ok := c.inbox.filter fun m => !m.diverted
  let ch := ok.foldl (fun b m => max b (chanOf m.header)) 0
  let ok := ok.filter fun m => chanOf m.header = ch
  let last := (c.served.getD ch 0).toNat
  let rank := fun (m : InMsg) => ((senderOf m.header).toNat + 2 ^ 24 - 1 - last) % 2 ^ 24
  ok.foldl (fun (b : Option InMsg) m =>
    match b with
    | none => some m
    | some x => if rank m < rank x then some m else b) none

/-- R394, R396: no message is selected on a core whose inbox redirects, whose group is forming an alloy or stands in one, or while
messages of a member of its group are still to be moved. -/
def State.selectBlocked (s : State) (l : Loc) : Bool :=
  let c := s.core l
  !c.redirect.isEmpty || (c.threads.toList.any fun t => t.st ≠ .free && (t.alloy ≠ 0 || t.forming.isSome)) ||
  ((groupOf l 8).any fun m => (s.core m).redirect.any fun r => (groupOf r.leader r.size).contains l)

/-- R154, R166: a message at a die's dispatcher that is a launch. -/
def isLaunch (l : Loc) (m : InMsg) : Bool := locKind l = 1 && locCluster l = 0 && locCore l = 0 && hidxOf m.header = 0

/-- R159: a message leaves the inbox that has selected it; its sender has been served on its channel. -/
def State.takeOut (s : State) (l : Loc) (m : InMsg) : State :=
  (s.mapCore l fun c =>
    { c with inbox := removeFirst m c.inbox, served := c.served.setIfInBounds (chanOf m.header) (senderOf m.header) }).retryHeld l

/-- R159: the slot that takes the next message, when one is free and the core may select: the lowest free one (log 86). -/
def State.selectSlot (s : State) (l : Loc) : Option Nat :=
  if s.coreThere l && locKind l = 0 && !(s.selectBlocked l) && ((s.core l).pick).isSome then
    (List.range 4).find? fun k => (s.threadAt l k).st = .free
  else none

/-- R159, R388: the software of a management core takes the next message; a launch is left to the dispatcher's own step (R167), and what
else the message brings about is that software's (log 15). -/
def State.kernelTakes (s : State) (l : Loc) : State :=
  match (s.core l).pick with
  | some m => if isLaunch l m then s else s.takeOut l m
  | none => s

/-- R159, R156, R169: a free slot takes the next message. -/
def State.selectTask (s : State) (l : Loc) : State :=
  match s.selectSlot l, (s.core l).pick with
  | some k, some m =>
    let s := s.takeOut l m
    if hidxOf m.header = 0xFFE && bits m.header 21 20 = 3 then s.resume l k ((m.payload.headD 0).toNat % 128)
    else s.startTask l k m (hidxOf m.header) false
  | _, _ => s

/-- R159: an inbox's next message is taken, by a slot or by the software of a management core. -/
def State.select (s : State) (l : Loc) : State := if locKind l = 1 then s.kernelTakes l else s.selectTask l

/-! ### The registers of pre-emption, parking, slots and the inbox -/

/-- R174: a write of PRECTL: REQ as written, DONE and FORCED cleared where the bit is 1. -/
def State.writePrectl (s : State) (l : Loc) (w : Word) : State :=
  s.mapCore l fun c =>
    let old := bits c.prectl 3 0
    let reqAt := (List.range 4).foldl (fun (v : Vector Nat 4) i =>
      if bit w i && !(old.testBit i) then v.setIfInBounds i s.now else v) c.reqAt
    { c with
      prectl := setBits (c.prectl &&& ~~~(w &&& 0x0F0F0000#64)) 3 0 (bits w 3 0)
      reqAt := reqAt }

/-- R174: a request for one slot, made or withdrawn. -/
def State.requestPreempt (s : State) (l : Loc) (k : Nat) : State :=
  s.writePrectl l (setBits 0 3 0 (bits (s.core l).prectl 3 0 ||| 2 ^ (k % 4)))

/-- R174: PARKRES: a slot is marked occupied and its continuation queued. The address of a failure that its record reports is a
free value (log 18). -/
def parkRes (l : Loc) (n : Nat) : M Unit := do
  let ck := locClusterKey l
  let s ← get
  if n < parkUsable (s.cluster ck).parkcfg then
    if (s.parkedAt ck n).isNone then
      let (uid, s) := s.newId
      let (va, s) := s.freeWord
      set (s.mapCluster ck fun c => { c with parked := c.parked ++ [⟨n, uid, l, none, [], [], [], va.zeroExtend 80, none, none⟩] })
    sendContinuation ck n
  else pure ()

/-- R245: the word of an instruction that stands in a dispatch queue for the unit: one of the unit's own, or a vector memory form with bytes to
move. -/
def CmdKind.unitWord : CmdKind → Option (BitVec 32)
  | .unit w _ _ _ _ => some w
  | .vmem w _ _ _ (_ :: _) => some w
  | _ => none

/-- R175, R177, R262, R381: a forced stop of a slot falls due and may be taken, in this parking slot. -/
def State.forcedStopDue (s : State) (l : Loc) (k : Nat) : Option Nat :=
  let c := s.core l
  let t := c.thread k
  if k < 4 && bit c.prectl k && t.st = .running && !(bit t.status 2) && !(bit t.status 3) && t.streams.isEmpty &&
      !(s.cmds.any fun c => c.uid = t.uid && c.kind.unitWord.isSome) &&
      (t.waits.all fun i => s.reqs.any fun r => r.id = i && r.performed && match r.op with
        | .gbar _ => true
        | _ => false) && decide (c.reqAt.getD k 0 + c.safedl.toNat ≤ s.now) then
    (s.cluster (locClusterKey l)).freePark
  else none

/-- R387: RESUME. -/
def State.slotResume (s : State) (l : Loc) (k : Nat) : State :=
  if (s.threadAt l k).st = .stopped then s.mapThreadAt l k fun t => { t with st := .running } else s

/-- R387: DISCARD. -/
def State.slotDiscard (s : State) (l : Loc) (k : Nat) : State :=
  if (s.threadAt l k).st = .free then s else s.endTask l k

/-- R387: a write of SLOTCTL. -/
def State.writeSlotctl (s : State) (l : Loc) (k : Nat) (w : Word) : State :=
  let s := if (s.threadAt l k).st = .stopped then
      s.mapThreadAt l k fun t => { t with pc := BitVec.ofNat 16 (bits w 15 2 * 4) }
    else s
  match bits w 60 59 with
  | 1 => s.slotResume l k
  | 2 => s.slotDiscard l k
  | _ => s

/-- R387: what SLOTCTL reads. -/
def slotctl (t : Thread) : Word :=
  let st := match t.st with
    | .free => 0
    | .running => 1
    | .stopped => 2
  BitVec.ofNat 64 (st * 2 ^ 62 + (if bit t.status 2 then 2 ^ 61 else 0) + (if t.st = .stopped then t.pc.toNat / 4 * 4 else 0))

/-- R170: IBXPOP. -/
def State.ibxPop (s : State) (l : Loc) : State :=
  match (s.core l).inbox.find? (·.diverted) with
  | none => s
  | some m => (s.mapCore l fun c => { c with inbox := removeFirst m c.inbox }).retryHeld l

/-- R170: END, when no diverted message is queued. -/
def State.ibxEnd (s : State) (l : Loc) : State :=
  if (s.core l).divQ = 0 then s.mapCore l fun c => { c with diverted := false } else s

/-- R170: IBXSTAT. -/
def Core.ibxstat (c : Core) : Word :=
  BitVec.ofNat 64 ((if c.diverted then 2 ^ 63 else 0) + c.loopQ * 2 ^ 16 + c.divQ * 2 ^ 8 + c.queued)

/-- R153: the 64 bytes of a message's content and the 16 of its envelope. -/
def contentBytes (m : InMsg) : List Byte :=
  let b := toBytes 8 m.header.toNat ++ (m.payload.take 7).flatMap fun x => toBytes 8 x.toNat
  b ++ List.replicate (64 - b.length) 0
def envelopeBytes (m : InMsg) : List Byte := toBytes 8 m.gtid.toNat ++ toBytes 2 m.ctx.toNat ++ toBytes 6 0

end Sys2Proof.Machine
end

