-- ==== Sys2Proof/Machine/Ctrl.lean ====
section
/-! DEFINITION. Control registers (R206, R207): their numbers, who may reach them, what each reads, and what a write keeps. -/

namespace Sys2Proof.Machine

/-- R206: the per-thread registers. -/
def threadCtrl (n : Nat) : Bool := n ≤ 3 || n = 8 || n = 9 || n = 0xC || n = 0xE || n = 0x28

/-- R206: an assigned number. -/
def ctrlAssigned (n : Nat) : Bool :=
  n ≤ 0x13 || (0x18 ≤ n && n ≤ 0x1A) || (0x20 ≤ n && n ≤ 0x23) || n = 0x28 || n = 0x29 || n = 0x30 ||
  (0x40 ≤ n && n ≤ 0x47) || (0x80 ≤ n && n ≤ 0x8F)

/-- R206: the registers whose bits clear where a 1 is written. -/
def ctrlW1C (n : Nat) : Bool := n = 0x19 || n = 0x1A || n = 0x23

/-- R206: user mode may read the register. -/
def ctrlUserRead (n : Nat) : Bool := !(1 ≤ n && n ≤ 4) && n < 0x40

/-- R206: user mode may write the register whole. -/
def ctrlUserWrite (n : Nat) : Bool := (0x10 ≤ n && n ≤ 0x12) || n = 0x18

/-- R162: CORELOC. -/
def coreloc (l : Loc) : Word := BitVec.ofNat 64 (srcOf l + locKind l * 2 ^ 24)

/-- R206: what a per-core register reads. -/
def State.coreCtrl (s : State) (l : Loc) (n : Nat) : Word :=
  let c := s.core l
  match n with
  | 0x04 => c.evec
  | 0x05 => c.ovlv
  | 0x06 => c.exb
  | 0x07 => c.htbase
  | 0x0A => 0x8040
  | 0x0B => 2048
  | 0x0D => coreloc l
  | 0x0F => c.safedl
  | 0x10 => c.mxfmt
  | 0x11 => c.mxsca
  | 0x12 => c.mxscb
  | 0x13 => c.mxprog
  | 0x18 => c.vfmt
  | 0x19 => c.vfstat
  | 0x1A => c.fstat
  | 0x20 => c.tapeb
  | 0x21 => c.tapel
  | 0x22 => c.tapep
  | 0x23 => c.tstat
  | 0x29 => c.altmo
  | 0x30 => (s.module (locModule l)).health
  | n =>
    if 0x40 ≤ n && n ≤ 0x47 then c.winp.getD (n - 0x40) 0
    else if 0x80 ≤ n && n ≤ 0x8F then c.pcm.getD (n - 0x80) 0
    else 0

/-- R206: what a per-thread register reads. -/
def Thread.ctrl (t : Thread) (n : Nat) : Word :=
  match n with
  | 0x00 => t.status
  | 0x01 => t.epc
  | 0x02 => t.ecause
  | 0x03 => t.eaddr
  | 0x08 => t.ctxid.zeroExtend 64
  | 0x09 => t.ctxcfg
  | 0x0C => t.gtid
  | 0x0E => t.prio.zeroExtend 64
  | 0x28 => t.astat
  | _ => 0

/-- R206: what a control register reads for the moving thread. -/
def State.ctrl (s : State) (n : Nat) : Word := if threadCtrl n then s.thr.ctrl n else s.coreCtrl s.loc n

/-- R186: a rounding mode field of a control register: 101 to 111 store 000. -/
def legalMode (w : Word) (hi lo : Nat) : Word := if 5 ≤ bits w hi lo then setBits w hi lo 0 else w

/-- R52: what a write of EXB stores. -/
def exbValue (w : Word) : Word := BitVec.ofNat 64 (min 0x400 (bits w 16 6) * 64)

/-- A write to a per-core register in supervisor mode (R377): what the fields of its table take. Flags clear where a 1 is
written. -/
def Core.writeCtrl (c : Core) (n : Nat) (v : Word) : Core :=
  match n with
  | 0x04 => { c with evec := v &&& 0xFFFC }
  | 0x05 => { c with ovlv := v &&& 0xFFFC }
  | 0x06 => { c with exb := exbValue v }
  | 0x07 => { c with htbase := v &&& 0xF000 }
  | 0x0F => { c with safedl := v &&& 0xFFFFFFFF }
  | 0x10 => { c with mxfmt := legalMode (v &&& 0x1F1F1F) 18 16 }
  | 0x11 => { c with mxsca := v }
  | 0x12 => { c with mxscb := v }
  | 0x13 => { c with mxprog := v &&& 0xFFFF }
  | 0x18 => { c with vfmt := legalMode (legalMode (v &&& 0xF1F) 10 8) 2 0 }
  | 0x19 => { c with vfstat := c.vfstat &&& ~~~v }
  | 0x1A => { c with fstat := c.fstat &&& ~~~v }
  | 0x20 => { c with tapeb := v &&& 0xFFFFFFFFFFFF0000 }
  | 0x21 => { c with tapel := v &&& 0xFFFF }
  | 0x22 => { c with tapep := if bits v 1 0 = 3 then 0 else v &&& 3 }
  | 0x23 => { c with tstat := c.tstat &&& ~~~v }
  | 0x29 => { c with altmo := v &&& 0xFFFFFFFF }
  | n =>
    if 0x40 ≤ n && n ≤ 0x47 then { c with winp := c.winp.setIfInBounds (n - 0x40) (v &&& 0xFFFFFFFFFFFC0000) }
    else if 0x80 ≤ n && n ≤ 0x8F then { c with pcm := c.pcm.setIfInBounds (n - 0x80) (v &&& 0xFFFFFF003FFFFFFC) }
    else c

/-- A write to a per-thread register in supervisor mode (R377). CTXID is checked by its callers (R19). -/
def Thread.writeCtrl (t : Thread) (n : Nat) (v : Word) : Thread :=
  match n with
  | 0x00 => { t with status := (v &&& 0xFFFFFF07) ||| (t.status &&& 8) }
  | 0x01 => { t with epc := v &&& 0xFFFF00000000FFFC }
  | 0x02 => { t with ecause := v &&& 0xFF07FFFF }
  | 0x03 => { t with eaddr := v }
  | 0x08 => { t with ctxid := BitVec.ofNat 16 v.toNat }
  | 0x09 => { t with ctxcfg := v &&& 1 }
  | 0x0C => { t with gtid := v }
  | 0x28 => { t with astat := astatValue v }
  | _ => t

/-- R19: a context that a core's CTXALW lets its supervisor software load. -/
def ctxAllowed (alw : Word) (ctx : Nat) : Bool := bit alw 63 && bits alw 15 0 ≤ ctx && ctx ≤ bits alw 47 32

/-- R19, R377: a control register written by the moving thread. -/
def writeCtrl (n : Nat) (v : Word) : M Unit := do
  let s ← get
  if n = 8 && !(ctxAllowed s.cr.ctxalw (bits v 15 0)) then raise (trapInfo 0x03 0x01 0)
  if threadCtrl n then set (s.mapThr fun t => t.writeCtrl n v)
  else set (s.mapCr fun c => c.writeCtrl n v)

/-- R192: the flags of a core's scalar operations. -/
def State.raiseF (s : State) (f : BitVec 6) : State := s.mapCr fun c => { c with fstat := c.fstat ||| f.zeroExtend 64 }

/-- R192: the flags of a core's vector, matrix, swage and NI operations. -/
def State.raiseVF (s : State) (l : Loc) (f : BitVec 6) : State :=
  s.mapCore l fun c => { c with vfstat := c.vfstat ||| f.zeroExtend 64 }

end Sys2Proof.Machine
end

