-- ==== Sys2Proof/Machine/BaseDie.lean ====
section
/-! DEFINITION. The base dies: the table of page hotness (R91, R92) and the page-migration engine (R93-R98). -/

namespace Sys2Proof.Machine

/-! ### Hotness -/

/-- R91: the physical address of the hotness table of a die. -/
def hotTable (dk : Nat) (cfg : Word) : Nat := mkPa (dk / 16) (dk % 16) 0 (bits cfg 12 0 * 2 ^ 24)

/-- R91: CLR: clearing of the table begins; it ends at a step of its own. -/
def State.hotClear (s : State) (dk : Nat) : State :=
  (s.mapDie dk fun d => { d with hotcfg := setBits d.hotcfg 61 61 1 }).push (.hotcfgClearDone dk)

/-- The entries of a hotness table from `g` on, each read and rewritten at its home (R95, R96, R423). -/
def State.hotEntries (s : State) (base : Nat) (f : Word → Word) : Nat → Nat → State
  | 0, _ => s
  | n + 1, g =>
    let at_ := s.homePa (base + 8 * g)
    let s := s.ownAccess at_ 8
    let e : Word := BitVec.ofNat 64 (ofBytes (s.readBytes clearKey at_ 8))
    (s.homePut 0 (base + 8 * g) (toBytes 8 (f e).toNat)).hotEntries base f n (g + 1)

/-- R91: clearing ends: every entry of the table where BASE16M then places it is zero (log 87), and BUSY falls. -/
def State.hotClearDone (s : State) (dk : Nat) : State :=
  let cfg := (s.die dk).hotcfg
  if bit cfg 61 then
    (s.hotEntries (hotTable dk cfg) (fun _ => 0) (2 ^ 21) 0).mapDie dk fun d => { d with hotcfg := setBits d.hotcfg 61 61 0 }
  else s

/-- R91, R92: an entry with every counter shifted right by one. -/
def hotShift (e : Word) : Word :=
  BitVec.ofNat 64 (bits e 63 48 / 2 * 2 ^ 48 + bits e 47 36 / 2 * 2 ^ 36 + bits e 35 24 / 2 * 2 ^ 24 +
    bits e 23 12 / 2 * 2 ^ 12 + bits e 11 0 / 2)

/-- R91: decay of the whole table, when a period is set. -/
def State.hotDecay (s : State) (dk : Nat) : State :=
  let cfg := (s.die dk).hotcfg
  if bits cfg 47 44 ≠ 0 && !(bit cfg 61) then s.hotEntries (hotTable dk cfg) hotShift (2 ^ 21) 0 else s

/-- R91: a write of HOTCFG. -/
def State.writeHotcfg (s : State) (dk : Nat) (w : Word) : State :=
  let s := s.mapDie dk fun d => { d with hotcfg := masked d.hotcfg w 0x8000F00000001FFF }
  if bit w 62 then s.hotClear dk else s

/-! ### Migration -/

def Die.slotOf (d : Die) (n : Nat) : MigSlot := d.mig.getD n ⟨0, 0, 0, 0⟩
def State.migSlot (s : State) (dk n : Nat) : MigSlot := (s.die dk).slotOf n
def State.mapMig (s : State) (dk n : Nat) (f : MigSlot → MigSlot) : State :=
  s.mapDie dk fun d => { d with mig := d.mig.setIfInBounds n (f (d.slotOf n)) }

/-- MIGSTAT with a phase and an error. -/
def migStat (w : Word) (phase err : Nat) : Word := setBits (setBits w 63 62 phase) 59 56 err

/-- R93: a START that is malformed; a size code that the field does not give is taken as one (log 87). -/
def State.migMalformed (s : State) (dk n : Nat) : Bool :=
  let m := s.migSlot dk n
  let size := migSize m
  let src := migSrc m
  let dst := migDst m
  12 ≤ bits m.ctl 11 8 || src % size ≠ 0 || dst % size ≠ 0 || paKind src ≠ 0 || paDieKey src ≠ dk || paKind dst ≠ 0 ||
  overlap src size dst size ||
  (List.range 8).any fun i =>
    let o := s.migSlot dk i
    i ≠ n && migPhase o ≠ 0 && overlap src size (migSrc o) (migSize o)

/-- R94: START. -/
def State.migStart (s : State) (dk n : Nat) : State :=
  let m := s.migSlot dk n
  if migPhase m ≠ 0 then s.mapMig dk n fun m => { m with stat := setBits m.stat 59 56 5 }
  else if s.migMalformed dk n then s.mapMig dk n fun m => { m with stat := setBits m.stat 59 56 1 }
  else (s.mapMig dk n fun m => { m with stat := 0x4000000000000000 }).push (.migGranuleCopied dk n)

/-- R94, R96: COMMIT. -/
def State.migCommit (s : State) (dk n : Nat) : State :=
  if migPhase (s.migSlot dk n) = 2 then s.mapMig dk n fun m => { m with stat := migStat m.stat 3 0 }
  else s.mapMig dk n fun m => { m with stat := setBits m.stat 59 56 5 }

/-- R97: the hotness entries of a frame are zeroed. -/
def State.hotForget (s : State) (dk src size : Nat) : State :=
  s.hotEntries (hotTable dk (s.die dk).hotcfg) (fun _ => 0) ((size + 65535) / 65536) (paOff src / 65536)

/-- R94, R97: RELEASE. -/
def State.migRelease (s : State) (dk n : Nat) : State :=
  let m := s.migSlot dk n
  if migPhase m = 3 then
    (s.hotForget dk (migSrc m) (migSize m)).mapMig dk n fun m => { m with stat := migStat m.stat 0 0 }
  else s.mapMig dk n fun m => { m with stat := setBits m.stat 59 56 5 }

/-- R94: ABORT. -/
def State.migAbort (s : State) (dk n : Nat) : State :=
  let ph := migPhase (s.migSlot dk n)
  if ph = 1 || ph = 2 then s.mapMig dk n fun m => { m with stat := migStat m.stat 0 4 } else s

/-- R94: a migration that ends in an error: 0x2 for a destination out of reach, while it copies or has copied, 0x3 for a source
that cannot be read. -/
def State.migError (s : State) (dk n : Nat) (unreachable : Bool) : State :=
  let ph := migPhase (s.migSlot dk n)
  if ph = 1 || (ph = 2 && unreachable) then
    s.mapMig dk n fun m => { m with stat := migStat m.stat 0 (if unreachable then 2 else 3) }
  else s

/-- R94: the migrations of a die whose destination its module can no longer reach. -/
def State.migLost (s : State) (dk : Nat) : State :=
  (List.range 8).foldl (fun s n =>
    if s.cutOff (dk / 16) (paModule (migDst (s.migSlot dk n))) then s.migError dk n true else s) s

/-- R94, R95: the next granule is written at the destination, re-encrypted there. A destination that is not there or lies beyond
its capacity ends as one out of reach, a source beyond its capacity as one that cannot be read (log 87). A route that a reconfiguration holds is
waited for (R410). -/
def State.migGranule (s : State) (dk n : Nat) : State :=
  let m := s.migSlot dk n
  let i := bits m.stat 31 0
  let src := migSrc m + 4096 * i
  let dst := migDst m + 4096 * i
  if migPhase m ≠ 1 || s.routePaused (dk / 16) (paModule dst) then s
  else
    let key := bits m.ctl 19 12
    if s.cutOff (dk / 16) (paModule dst) || !(s.paThere dst 4096) || s.beyondHbm dst 4096 then s.push (.migCopyError dk n true)
    else if s.eccBad src 4096 || s.beyondHbm src 4096 then (s.eccFail src 4096).push (.migCopyError dk n false)
    else
      let s := s.eccCorrect src 4096
      let data := s.readBytes (s.keyOf (paModule src) key) src 4096
      let s := if paModule dst = dk / 16 then s else (s.sendPacket (dk / 16) (paModule dst) 4096).sendPacket (paModule dst) (dk / 16) 0
      let s := s.homePut key dst data
      let last := decide (migSize m ≤ 4096 * (i + 1))
      let s := s.mapMig dk n fun m => { m with stat := setBits (setBits m.stat 31 0 (i + 1)) 63 62 (if last then 2 else 1) }
      if last then s else s.push (.migGranuleCopied dk n)

/-- R93, R94: a write of MIGCTL: the fields, then the command; ABORT before a command of the same write. The frames,
size and key are not latched at START: a later write changes those of the running migration (log 87). -/
def State.writeMigctl (s : State) (dk n : Nat) (w : Word) : State :=
  let s := s.mapMig dk n fun m => { m with ctl := w &&& 0xFFF00 }
  let s := if bit w 0 then s.migAbort dk n else s
  match bits w 2 1 with
  | 1 => s.migStart dk n
  | 2 => s.migCommit dk n
  | 3 => s.migRelease dk n
  | _ => s

end Sys2Proof.Machine
end

