-- ==== Sys2Proof/Machine/Regs.lean ====
section
/-! DEFINITION. Register space (R10, R207, R436): the blocks of a core, a cluster and a die, what each register reads, and what
a write does. -/

namespace Sys2Proof.Machine

/-! ### Reads -/

/-- R265: eight bytes of the fault queues, EFQCNT and EFLAST of the task slots. -/
def Core.faultRegs (c : Core) (o : Nat) : Option Nat :=
  if 0x100 ≤ o && o < 0x300 then
    let t := c.thread ((o - 0x100) / 128)
    let r := (t.faults[(o - 0x100) % 128 / 32]?).getD FaultRec.zero
    some (leAt r.bytes (o % 32) 8)
  else if 0x300 ≤ o && o < 0x320 then
    let t := c.thread ((o - 0x300) / 8)
    some (t.faults.length + (if t.ovf then 8 else 0))
  else if 0x380 ≤ o && o < 0x400 then some (leAt (c.thread ((o - 0x380) / 32)).eflast.bytes (o % 32) 8)
  else none

/-- R170: bytes of IBXENV and IBXHEAD: the oldest diverted message, zero when none is queued. -/
def Core.inboxBytes (c : Core) (o n : Nat) : Nat :=
  match c.inbox.find? (·.diverted) with
  | none => 0
  | some m => if o < 0x20 then leAt (envelopeBytes m) (o - 0x10) n else leAt (contentBytes m) (o - 0x40) n

/-- What an aligned 8-byte read of a core's register block gives, none where no rule assigns the offset. -/
def State.readCoreReg (s : State) (l : Loc) (o : Nat) : Option Nat :=
  let c := s.core l
  if o = 0x00 then some c.ibxstat.toNat
  else if o = 0x08 then some 0
  else if 0x20 ≤ o && o < 0x40 then some 0
  else if o < 0x80 then some (c.inboxBytes o 8)
  else if o = 0x80 then some c.srstate.toNat
  else if o = 0x90 then some c.stkcfg.toNat
  else if o = 0xA0 then some c.prectl.toNat
  else if o = 0xA8 then some 0
  else if o < 0x100 then none
  else if o < 0x400 then c.faultRegs o
  else if o < 0x428 then some (slotctl (c.thread ((o - 0x400) / 8))).toNat
  else if o = 0x500 then some 0
  else if o = 0x508 then some c.mxcapctl.toNat
  else if o = 0x600 then some c.pcmteam.toNat
  else if o = 0x700 then some c.ctxalw.toNat
  else if 0x10000 ≤ o && o < 0x14000 then
    let n := (o - 0x10000) / 8
    if ctrlAssigned n && !(threadCtrl n) then some (s.coreCtrl l n).toNat else none
  else none

/-- The same of a cluster's block (R67, R70, R81, R425, R432). -/
def State.readClusterReg (s : State) (ck o : Nat) : Option Nat :=
  let c := s.cluster ck
  match o with
  | 0x00 => some (match c.parkPend with
      | some w => (setBits w 63 63 1).toNat
      | none => c.parkcfg.toNat)
  | 0x08 => some c.ovfcfg.toNat
  | 0x10 => some c.remcfg.toNat
  | 0x18 => some c.coremap.toNat
  | 0x20 => some c.trccfg.toNat
  | 0x28 => some c.trcbase.toNat
  | 0x30 => some c.trcptr.toNat
  | _ => none

/-- R415: a telemetry entry: the version, the time, `MBSTAT` at boot and the counters; gauges are what the part measures
(log 18). -/
def State.telemetry (s : State) (m o : Nat) : Nat :=
  if o = 0x00 then 1
  else if o = 0x08 then s.now
  else if 0x1000 ≤ o && o < 0x1C00 && (o / 8 % 32 = 7 || o / 8 % 32 = 8) then
    (Config.gauge (m * 16 + (o - 0x1000) / 256) (o / 8 % 32) s.now).toNat
  else ((s.module m).telemetry.find? o).getD 0

/-- R420: eight bytes of the mailbox. -/
def Module.mailbox (m : Module) (o : Nat) : Option Nat :=
  if o < 0x40 then some (m.mbReq.getD (o / 8) 0).toNat
  else if o < 0x80 then some (m.mbResp.getD ((o - 0x40) / 8) 0).toNat
  else if o = 0x80 then some 0
  else if o = 0x88 then some m.mbstat.toNat
  else none

/-- The same of a die's block; the mailbox and the telemetry answer management cores alone (R415, R420). -/
def State.readDieReg (s : State) (req : Loc) (dk o : Nat) : Option Nat :=
  let d := s.die dk
  if o = 0x800000000 then some d.hotcfg.toNat
  else if 0x800010000 ≤ o && o < 0x800010100 then
    let m := d.slotOf ((o - 0x800010000) / 32)
    some (match o / 8 % 4 with
      | 0 => m.src
      | 1 => m.dst
      | 2 => m.ctl
      | _ => m.stat).toNat
  else if o = 0x800020000 then some d.tmigcfg.toNat
  else if o = 0x800030000 then some d.clmap.toNat
  else if o = 0x800030008 then some d.hbmsize.toNat
  else if o = 0x800040000 then some d.acctcfg.toNat
  else if o = 0x800040008 then some d.acctbase.toNat
  else if 0x900000000 ≤ o && o < 0x900002400 && o % 64 = 0 && (o - 0x900000000) / 64 % 12 = dk % 16 then
    some (((s.module (dk / 16)).link ((o - 0x900000000) / 64)).stat).toNat
  else if dk % 16 < 8 && o = 0xA00000000 then some d.epcfg.toNat
  else if dk % 16 < 8 && o = 0xA00000008 then some d.epptb.toNat
  else if dk % 16 < 8 && o = 0xA00000010 then some d.epwtb.toNat
  else if dk % 16 = 0 && locKind req = 1 && 0xB00000000 ≤ o && o < 0xB00010000 then (s.module (dk / 16)).mailbox (o - 0xB00000000)
  else if dk % 16 = 0 && locKind req = 1 && 0xC00000000 ≤ o && o < 0xC00100000 then
    some (s.telemetry (dk / 16) (o - 0xC00000000))
  else none

/-- R170: the registers that take narrower loads. -/
def narrowReg (o : Nat) : Bool :=
  (coreRegBase + 0x10 ≤ o && o < coreRegBase + 0x20) || (coreRegBase + 0x40 ≤ o && o < coreRegBase + 0x80)

/-- R436: what an aligned 8-byte read at an offset gives, none where no rule assigns it. -/
def State.regValue (s : State) (req : Loc) (pa : Nat) : Option Nat :=
  let o := regOff pa
  if dieRegBase ≤ o then s.readDieReg req (paDieKey pa) o
  else if coreRegBase ≤ o then s.readCoreReg (regCore pa) (o - coreRegBase)
  else if 0x100000000 ≤ o then s.readClusterReg (locClusterKey (regCore pa)) (o - 0x100000000)
  else none

/-- R436: a load of register space by a core: its value, or the cause and outcome that refuse it: the size and offset before
the privilege. Every register asks for supervisor mode. -/
def State.regRead (s : State) (req : Loc) (user : Bool) (pa n : Nat) : Except (Nat × Nat) Nat :=
  let o := regOff pa
  if narrowReg o then
    if (n = 1 || n = 2 || n = 4 || n = 8) && o % n = 0 then
      if user then .error (0x03, 0) else .ok ((s.core (regCore pa)).inboxBytes (o - coreRegBase) n)
    else .error (0x09, 0)
  else if n = 8 && o % 8 = 0 then
    match s.regValue req pa with
    | none => .error (0x09, 0)
    | some x => if user then .error (0x03, 0) else .ok x
  else .error (0x09, 0)

/-! ### Writes -/

/-- R67: a write of PARKCFG: it waits until no slot is occupied. -/
def State.writeParkcfg (s : State) (ck : Nat) (w : Word) : State :=
  let w := w &&& 0x3FE007F
  let w := if 64 < bits w 6 0 then setBits w 6 0 64 else w
  (s.mapCluster ck fun c => { c with parkPend := some w }).push (.parkcfgApply ck)

/-- R67: the waiting write takes effect. -/
def State.applyParkcfg (s : State) (ck : Nat) : State :=
  s.mapCluster ck fun c =>
    match c.parkPend with
    | some w => if c.parked.isEmpty then { c with parkcfg := w, parkPend := none } else c
    | none => c

/-- R70: what a write of OVFCFG stores. -/
def ovfValue (w : Word) : Word :=
  let w := w &&& 0x3FE000F
  if 8 < bits w 3 0 then setBits w 3 0 8 else w

/-- R81: what a write of REMCFG stores. -/
def remValue (w : Word) : Word :=
  let w := w &&& 0xFFFF007F
  let w := if bits w 31 16 = 0 then setBits w 31 16 1 else w
  let w := if bits w 6 0 = 0 then setBits w 6 0 1 else w
  if 64 < bits w 6 0 then setBits w 6 0 64 else w

/-- R432: what a write of TRCCFG stores. -/
def trcValue (w : Word) : Word :=
  let w := w &&& 0xFFE00000FFFFFFFF
  let w := if 10 ≤ bits w 61 57 && bits w 61 57 ≤ 24 then w else setBits w 61 57 0
  if 8 < bits w 56 53 then setBits w 56 53 8 else w

/-- R432: any write of TRCPTR. -/
def State.clearTrcptr (s : State) (ck : Nat) : State := s.mapCluster ck fun c => { c with trcptr := 0 }

/-- R429: what a write of ACCTCFG stores. -/
def acctValue (w : Word) : Word :=
  let w := w &&& 0x800003FF0000FFFF
  if bits w 41 32 = 0 then setBits w 41 32 1 else if 1000 < bits w 41 32 then setBits w 41 32 1000 else w

/-- R56: EXB takes a value at one ck for every thread of the core. -/
def State.setExb (s : State) (l : Loc) (w : Word) : State := s.mapCore l fun c => { c with exb := exbValue w }

/-- R19: a write of CTXALW from the hallmark core. -/
def State.setCtxalw (s : State) (l : Loc) (w : Word) : State := s.mapCore l fun c => { c with ctxalw := w &&& 0x8000FFFF0000FFFF }

/-- R416: a write that only the hallmark core may make is dropped and counted. -/
def State.dropped (s : State) (m : Nat) : State := s.count m 0x18 1

/-- R412: a write of EPCFG: the value, and the range of the writing core with it. -/
def State.writeEpcfg (s : State) (dk : Nat) (req : Loc) (w : Word) : State :=
  let alw := (s.core req).ctxalw
  s.mapDie dk fun d =>
    { d with
      epcfg := w &&& 0x8000FFFFFFFFFFFF
      eplo := BitVec.ofNat 16 (bits alw 15 0)
      ephi := BitVec.ofNat 16 (bits alw 47 32) }

/-- R420, R417: a write of MBDOOR submits the request, unless one is busy or the hallmark firmware has not started; a command that is none of the five is refused with a
reason that the part chooses (log 18). -/
def State.submit (s : State) (m : Nat) : State :=
  let x := s.module m
  if x.mbstat = 2 || x.bootFail = 1 then s
  else
    let cmd := bits (x.mbReq.getD 0 0) 7 0
    let busy := s.mapModule m fun x => { x with mbstat := 2, mbTaken := x.mbReq }
    match cmd with
    | 1 => busy.push (.assign m)
    | 2 => busy.push (.retire m)
    | 3 => busy.push (.switch m)
    | 4 => busy.push (.quote m)
    | 5 => busy.push (.health m)
    | _ =>
      let (r, s) := s.choose 16
      s.mapModule m fun x => { x with mbstat := BitVec.ofNat 64 (0x80 + r) }

/-- R420: a write of eight bytes of the mailbox: of the request, or of MBDOOR; the rest is read-only. -/
def State.writeMailbox (s : State) (m o : Nat) (w : Word) : State :=
  if o < 0x40 then s.mapModule m fun x => { x with mbReq := x.mbReq.setIfInBounds (o / 8) w }
  else if o = 0x80 && bit w 0 then s.submit m
  else s

/-- R414: eight bytes that the host reads: of BAR 2, the mailbox, or BAR 4, the telemetry registers. -/
def State.hostRead (s : State) (m bar o : Nat) : Option Nat :=
  match bar with
  | 2 => (s.module m).mailbox o
  | 4 => some (s.telemetry m o)
  | _ => none

/-- A write of a core's register block at an assigned offset. -/
def writeCoreReg (l : Loc) (o : Nat) (w : Word) : M Unit := do
  let s ← get
  if o = 0x00 then (if bit w 62 then set (s.ibxEnd l) else pure ())
  else if o = 0x08 then set (s.ibxPop l)
  else if o = 0x80 then
    set (s.mapCore l fun c => { c with srstate := if bits w 31 0 = 0 then 1 else BitVec.ofNat 32 w.toNat })
  else if o = 0x90 then set (s.mapCore l fun c => { c with stkcfg := w &&& 0xFFFFFF0 })
  else if o = 0xA0 then set (s.writePrectl l w)
  else if o = 0xA8 then parkRes l (bits w 6 0)
  else if 0x300 ≤ o && o < 0x320 then
    (if bit w 3 then set (s.mapThreadAt l ((o - 0x300) / 8) fun t => { t with ovf := false }) else pure ())
  else if 0x400 ≤ o && o < 0x428 then set (s.writeSlotctl l ((o - 0x400) / 8) w)
  else if o = 0x500 then set (s.mapCore l fun c => { c with mxcapkey := w })
  else if o = 0x508 then set (s.mapCore l fun c => { c with mxcapctl := w &&& 0x8000FFFF0000FFFF })
  else if o = 0x600 then set (s.mapCore l fun c => { c with pcmteam := w &&& 0xFFFFFFFF })
  else if o = 0x700 then set (s.dropped (locModule l))
  else if 0x10000 ≤ o && o < 0x14000 then
    (if o = 0x10030 then set (s.setExb l w) else set (s.mapCore l fun c => c.writeCtrl ((o - 0x10000) / 8) w))
  else pure ()

/-- A write of a cluster's block. -/
def State.writeClusterReg (s : State) (ck o : Nat) (w : Word) : State :=
  match o with
  | 0x00 => s.writeParkcfg ck w
  | 0x08 => s.mapCluster ck fun c => { c with ovfcfg := ovfValue w }
  | 0x10 => s.mapCluster ck fun c => { c with remcfg := remValue w }
  | 0x20 => s.mapCluster ck fun c => { c with trccfg := trcValue w }
  | 0x28 => s.mapCluster ck fun c => { c with trcbase := w }
  | 0x30 => s.clearTrcptr ck
  | _ => s

/-- A write of a die's block; EPCFG's context is checked against the range of the writing core (R19, R412). -/
def writeDieReg (req : Loc) (va : Ptr) (dk o : Nat) (w : Word) : M Unit := do
  let s ← get
  if o = 0x800000000 then set (s.writeHotcfg dk w)
  else if 0x800010000 ≤ o && o < 0x800010100 then
    let n := (o - 0x800010000) / 32
    match o / 8 % 4 with
    | 0 => set (s.mapMig dk n fun m => { m with src := w &&& 0xFFFFFFFFFFFFF000 })
    | 1 => set (s.mapMig dk n fun m => { m with dst := w &&& 0xFFFFFFFFFFFFF000 })
    | 2 => set (s.writeMigctl dk n w)
    | _ => pure ()
  else if o = 0x800020000 then set (s.mapDie dk fun d => { d with tmigcfg := w &&& 0x800000000000FFFF })
  else if o = 0x800040000 then set (s.mapDie dk fun d => { d with acctcfg := acctValue w })
  else if o = 0x800040008 then set (s.mapDie dk fun d => { d with acctbase := w })
  else if o = 0xA00000000 then
    (if ctxAllowed (s.core req).ctxalw (bits w 15 0) then set (s.writeEpcfg dk req w)
     else raise ⟨0x03, 0x01, 0, 0, va, true⟩)
  else if o = 0xA00000008 then set (s.mapDie dk fun d => { d with epptb := w })
  else if o = 0xA00000010 then set (s.mapDie dk fun d => { d with epwtb := w })
  else if 0xB00000000 ≤ o then set (s.writeMailbox (dk / 16) (o - 0xB00000000) w)
  else pure ()

/-- R207, R436: a store of register space by a core: refused for its size or offset, then for its privilege, else it acts. -/
def regWrite (req : Loc) (user : Bool) (va : Ptr) (pa n : Nat) (w : Word) : M Unit := do
  let s ← get
  let o := regOff pa
  if n ≠ 8 || o % 8 ≠ 0 || narrowReg o || (s.regValue req pa).isNone then raise (accessTrap 0x09 0 0 va)
  else if user then raise ⟨0x03, 0, 0, 0, va, true⟩
  else if dieRegBase ≤ o then writeDieReg req va (paDieKey pa) o w
  else if coreRegBase ≤ o then writeCoreReg (regCore pa) (o - coreRegBase) w
  else set (s.writeClusterReg (locClusterKey (regCore pa)) (o - 0x100000000) w)

/-! ### Accesses of engines and units -/

/-- R17, R82: how a register block's refusal reaches a unit: as it stands in its own module, else as REFUSED_ACCESS. -/
def regFault (w : Who) (p : Piece) (pa c o : Nat) : TrapInfo :=
  if paModule pa = locModule w.loc then accessTrap c o 0 p.va else accessTrap 0x0B 2 0 p.va

/-- R436: a unit reads a piece of register space by aligned accesses of eight bytes, in ascending order (log 88). -/
def regReadPiece (w : Who) (p : Piece) : M (List Byte) := do
  let pa := (p.parts.headD (0, 0, 0)).1
  if pa % 8 ≠ 0 || p.len % 8 ≠ 0 then raise (regFault w p pa 0x09 0)
  let words ← collect (fun i => do
    match (← get).regRead w.loc w.user (pa + 8 * i) 8 with
    | .ok x => pure x
    | .error (c, o) => raise (regFault w p pa c o)) (p.len / 8) 0
  pure (words.flatMap fun x => toBytes 8 x)

/-- The same for a write. -/
def regWritePiece (w : Who) (data : List Byte) (p : Piece) : M Unit := do
  let pa := (p.parts.headD (0, 0, 0)).1
  if pa % 8 ≠ 0 || p.len % 8 ≠ 0 then raise (regFault w p pa 0x09 0)
  forUpTo (fun i => do
    match ← attempt (regWrite w.loc w.user p.va (pa + 8 * i) 8 (BitVec.ofNat 64 (leAt data (p.off + 8 * i) 8))) with
    | .ok _ => pure ()
    | .error (.trap e) => raise (regFault w p pa e.cause e.outcome)
    | .error e => throw e) (p.len / 8) 0

/-- A read of `n` bytes by a unit, of memory or registers as its path reaches them (R17). -/
def memRead (w : Who) (va : Ptr) (n xs : Nat) : M (List Byte) := readWith regReadPiece w va n xs

/-- A write of bytes by a unit, to memory or registers. -/
def memWrite (w : Who) (va : Ptr) (data : List Byte) (xs : Nat) : M Unit :=
  forPieces w .store va xs data.length (fun p => do
    checkPiece w p
    across w p p.len 0 (if p.inRegisters then regWritePiece w data p
      else writeParts w p.slot ((data.drop p.off).take p.len) p.parts)) data.length 0

end Sys2Proof.Machine
end

