-- ==== Sys2Proof/Machine/Access.lean ====
section
/-! DEFINITION. The core's accesses on path C: loads (R83, R90), stores (R86, R90), atomics (R76, R273), message windows (R14),
requests to other modules with parking and stalling (R68, R83, R169), posted stores and their failures (R86-R88), and what an
`xfence` holds back (R115). -/

namespace Sys2Proof.Machine

/-! ### Waiting -/

/-- R276, R88: the posted stores and sends of a task not acknowledged. -/
def State.posted (s : State) (uid : Nat) : List Req := s.reqs.filter fun r => r.uid = uid && r.op = .write

/-- R129: the messages of a task inside its module that have not reached an inbox: writes on path C that have not performed. A
continuation is none of them. -/
def State.unsent (s : State) (uid : Nat) : List Msg :=
  s.msgs.filter fun m => m.uid = uid && m.req.isNone && !m.queued && bits m.header 21 20 ≠ 3

/-- R106: whether a core lies in the instance of a scope for a core, as the home of what is written to it; at thread scope every
home does. -/
def locInScope (l : Loc) (scope : Nat) (target : Loc) : Bool :=
  match scope with
  | 1 => target = l
  | 2 => locKind l = 0 && locKind target = 0 && locClusterKey target = locClusterKey l
  | 3 => locDieKey target = locDieKey l
  | 4 => locModule target = locModule l
  | _ => true

/-- R116: waits for the messages sent by path C writes to inboxes in the instance of a scope; none at thread scope. -/
def awaitSends (scope : Nat) : M Unit := do
  let s ← get
  if scope ≠ 0 && (s.unsent s.thr.uid).any fun m => locInScope s.loc scope m.target then stall else pure ()

/-- The accesses of a command by a unit on a path, under what it sampled (R21, R29). -/
def Cmd.who (c : Cmd) (unit : Nat) (path : Path) : Who := ⟨unit, path, false, c.loc, c.ctx, c.user, c.winp⟩

/-- R34: the cluster's copy engine and NI, working for a command. -/
def Cmd.copyWho (c : Cmd) : Who := c.who (copyUnit (locClusterKey c.loc)) .x
def Cmd.niWho (c : Cmd) : Who := c.who (niUnit (locClusterKey c.loc)) .n

/-- R116, R283: the arrival of a command at its barrier is still to perform, with the object's home in the instance of a scope for a core. -/
def State.arrivalIn (s : State) (l : Loc) (scope : Nat) (c : Cmd) : Bool :=
  match c.barrier with
  | some (va, _) => c.fault.isNone && (scope = 0 || match (piece c.copyWho .atomic va 0 64 0).run s with
    | .ok p _ => p.parts.any fun x => s.paInScope l scope x.1
    | .error .stall _ => true
    | .error _ _ => false)
  | none => false

/-- R261: the number of chunks. -/
def Stream.total (x : Stream) : Nat := x.n0 * x.n1

/-- R261: the first chunk of a stream that has not performed: of a write stream the oldest that is produced and not written, or the next. -/
def Stream.first (x : Stream) : Nat := if x.write then x.used - x.ready.length else x.used + x.ready.length

/-- R261: the chunks of a stream that are still to perform; after a fault of a write stream, none. -/
def Stream.left (x : Stream) : Nat := if x.stopped then 0 else x.total - x.first

/-- The stream of a command that binds a register, while it is bound. -/
def State.streamOf (s : State) (c : Cmd) : Option Stream :=
  match s.placeOf c.uid with
  | none => none
  | some w => (s.threadOf w).streams.find? fun x => x.cmd = c.id

/-- R116, R117: events of a command are still to perform; those of a stream are its chunks, which may perform before its `vfree` (R260). -/
def State.working (s : State) (c : Cmd) : Bool :=
  !c.performed && match c.kind with
    | .stream _ => (s.streamOf c).any fun x => x.left ≠ 0
    | _ => true

/-- R115, R116: an edge still holds something back: a command that it names has events to perform, or its barrier arrival in the instance is
to come, or a store or message has not performed. -/
def State.edgeHolds (s : State) (e : XEdge) : Bool :=
  e.cmds.any fun i =>
    (s.cmds.any fun c => c.id = i && (s.working c || s.arrivalIn s.loc e.scope.toNat c)) || (s.reqs.any fun r => r.id = i) ||
      s.msgs.any fun m => m.id = i && !m.queued

/-- R115: an access on a path waits while an earlier `xfence` holds it back. -/
def gate (q : Path) : M Unit := do
  let s ← get
  if s.thr.xedges.any fun e => e.q = q && s.edgeHolds e then stall else pure ()

/-- R88: waits for the posted stores, then raises REMOTE_STORE with the failure record, which delivery clears. -/
def awaitPosted : M Unit := do
  let s ← get
  let t := s.thr
  if !(s.posted t.uid).isEmpty then stall
  else
    match s.cl.fails.find? fun r => r.torig = t.torig && r.tser = t.tser with
    | none => pure ()
    | some r => do
      set (s.mapCl fun c => { c with fails := c.fails.filter fun x => !(x.torig = t.torig && x.tser = t.tser) })
      raise ⟨0x0A, r.outc.toNat, 0, r.count, r.va, false⟩

/-- R87: a failed transaction, with its place in the order of issue, is added to a record: the VA and outcome of the first
issued, and the count. -/
def FailRec.add (r : FailRec) (num : Nat) (va : Ptr) (outc : BitVec 8) : FailRec :=
  let r := { r with count := r.count + 1 }
  if num < r.num then { r with num := num, va := va, outc := outc } else r

/-- R87: a failed transaction of a task is noted. -/
def State.noteFailure (s : State) (ck : Nat) (torig : BitVec 24) (tser : BitVec 16) (num : Nat) (va : Ptr) (outc : BitVec 8) : State :=
  s.mapCluster ck fun c =>
    if c.fails.any fun r => r.torig = torig && r.tser = tser then
      { c with fails := c.fails.map fun r => if r.torig = torig && r.tser = tser then r.add num va outc else r }
    else { c with fails := c.fails ++ [⟨torig, tser, num, va, outc, 1⟩] }

/-! ### Requests to other modules -/

/-- R79: the transactions of a piece in another module: up to 128 bytes, cut at 128-byte boundaries. -/
def transactions (va : Ptr) (lane : Nat) : Nat → Nat → Nat → List Part
  | 0, _, _ => []
  | fuel + 1, pa, n =>
    if n = 0 then []
    else
      let k := min n (128 - pa % 128)
      ⟨va, va, pa, k, k, lane, [], false, none⟩ ::
        transactions (va + BitVec.ofNat 80 k) (lane + k) fuel (pa + k) (n - k)

/-- R79: the transactions of a piece in another module whose bytes go from a lane of the destination on, of an access of `size` bytes. The swizzle
moves chunks within a 128-byte line, so the chunks of one line travel in one transaction. -/
def Piece.transactions (p : Piece) (size lane : Nat) : List Part :=
  (p.parts.flatMap fun x => Machine.transactions (p.va + BitVec.ofNat 80 x.2.1) (lane + x.2.1) x.2.2 x.1 x.2.2).map fun t =>
    { t with first := BitVec.ofNat 80 (max p.va.toNat (t.va.toNat / 128 * 128)), size := size }

/-- R69, R437: how a reply of a parked instruction is written: the destination's register, file, size code and REGS. -/
structure Dest where
  reg : Nat
  file : Nat
  code : Nat
  regs : Nat
deriving DecidableEq, Repr

/-- A new request of the moving thread. -/
def State.newReq (s : State) (op : ReqOp) (key : Nat) (parts : List Part) : Nat × State :=
  let (id, s) := s.newId
  let t := s.thr
  let r : Req := ⟨id, t.uid, s.loc, t.torig, t.tser, op, s.actCtx, s.user, key, parts, false, false, false, none, 0, none, s.now⟩
  (id, ({ s with reqs := s.reqs ++ [r] }).push (.remoteRequest id))

/-- Two requests are the same instruction's: the same operation on the same bytes. -/
def sameRequest (op : ReqOp) (parts : List Part) (r : Req) : Bool :=
  (match op, r.op with
   | .gbar _, .gbar _ => true
   | a, b => a = b) &&
  r.parts.map (fun p => (p.va, p.len)) = parts.map (fun p => (p.va, p.len))

/-- The instruction has made a request. -/
def State.asked (s : State) (op : ReqOp) (parts : List Part) : Bool := s.reqs.any fun r => s.thr.waits.contains r.id && sameRequest op parts r

/-- R68, R83, R84: the answer to a request that the instruction has made. The first issue sends it and parks the task, or
stalls it in its slot; the issue that finds the reply takes it, or ends with its failure. -/
def awaitRequest (op : ReqOp) (key : Nat) (parts : List Part) (dest : Option Dest) (w : BitVec 32) :
    M Req := do
  let s ← get
  let t := s.thr
  match s.reqs.find? fun r => t.waits.contains r.id && sameRequest op parts r with
  | some r =>
    if !r.replied then stall
    else
      match r.refusal, r.parts.find? fun p => p.outcome.isSome with
      | some n, _ => raiseIllegal n.toNat w
      | none, some p => raise (accessTrap 0x0B (p.outcome.getD 0).toNat 0 p.first)
      | none, none => pure r
  | none =>
    let (id, s) := s.newReq op key parts
    match dest, s.parkSlot, s.cur with
    | some d, some n, .slot l k => do
      set (s.parkThread l k n t (t.pc + 4) (destWord d.reg d.file d.code d.regs 0 0) id (some id) none (owedUpdate s.word))
      throw .ended
    | _, _, _ => do
      set (s.mapThr fun t => { t with waits := t.waits ++ [id] })
      stall

/-- A finished instruction is done with the requests that it made. -/
def State.endWaits (s : State) : State :=
  let t := s.thr
  if t.waits.isEmpty && t.sent = 0 && t.sentHere = 0 && t.issued.isNone then s
  else { s with reqs := s.reqs.filter fun r => !(t.waits.contains r.id) }.mapThr fun t =>
    { t with waits := [], sent := 0, sentHere := 0, issued := none }

/-- Runs a meaning that may make requests: on its end, with or without a trap, the requests are done with. -/
def runC (m : M Unit) (s : State) : Out :=
  match m.run s with
  | .ok _ s => .next s.endWaits
  | .error (.trap i) s => trapOut s.endWaits i
  | .error .stall s => .next s.held
  | .error .ended s => .next s

/-- The same, going on behind the instruction. -/
def runCAdv (m : M Unit) (s : State) : Out := runC (do m; modify State.adv) s

/-- R111, R124, R56: an access to one place comes after one to another: both in a 128-byte line, both in a register block, or a write of EXB after a
store to that SP1. -/
def placesOrdered (pa earlier : Nat) : Bool :=
  if paKind pa = 2 then
    (paKind earlier = 2 && pa / 2 ^ 28 = earlier / 2 ^ 28) ||
      (regOff pa = coreRegBase + 0x10030 && paKind earlier = 1 && paOff earlier / 2 ^ 46 = 1 &&
        paDieKey pa = paDieKey earlier && paOff pa % 2 ^ 46 / 2 ^ 36 = paOff earlier % 2 ^ 46 / 2 ^ 36)
  else paKind earlier ≠ 2 && pa / 128 = earlier / 128

/-! ### Reads -/

/-- A part that has been read here. -/
def Part.here (va : Ptr) (pa lane : Nat) (b : List Byte) : Part := ⟨va, va, pa, b.length, b.length, lane, b, true, none⟩

/-- A write that is still to perform touches bytes that an access names. -/
def BufWrite.touches (b : BufWrite) (parts : List (Nat × Nat × Nat)) : Bool := parts.any fun x => overlap b.pa b.data.length x.1 x.2.2

/-- R110, R124, R130: the thread's own stores that have not performed, and those that a `gbar` has ordered, do so before a read of one of their
bytes (log 80). -/
def State.beforeRead (s : State) (parts : List (Nat × Nat × Nat)) : State :=
  let s := if s.released.any fun b => b.2.touches parts then s.performReleased else s
  if s.thr.buffer.any fun w => w.any fun b => b.touches parts then s.drain s.loc s.slotNo else s

/-- R109, R110, R245: a vector memory form of the task that stands in the dispatch queue moves some of these bytes; a write comes after queued
reads of them too. -/
def State.clash (s : State) (uid : Nat) (writes : Bool) (parts : List (Nat × Nat × Nat)) : Bool :=
  s.cmds.any fun c => c.uid = uid && match c.kind with
    | .vmem _ store _ _ places => (store || writes) && places.any fun x => parts.any fun y => overlap x.pa x.len y.1 y.2.2
    | _ => false

/-- R109, R110: an access waits for the queued forms of its thread that move its bytes. -/
def awaitQueued (writes : Bool) (parts : List (Nat × Nat × Nat)) : M Unit := do
  let s ← get
  if s.clash s.thr.uid writes parts then stall else pure ()

/-- Reads a piece: here when it lies in this module, else the transactions to be sent. -/
def readPiece (w : Who) (size lane : Nat) (p : Piece) : M (List Part) := do
  let s ← get
  match p.parts with
  | [] => pure []
  | (pa, _, n) :: _ =>
    if !(kindReach w.path w.eth (paKind pa)) then raise (accessTrap 0x09 0 0 p.va)
    else if paModule pa ≠ locModule w.loc then
      pure (p.transactions size (lane + p.off))
    else do
      checkPiece w p
      awaitQueued false p.parts
      if p.inRegisters then
        match s.regRead w.loc w.user pa n with
        | .ok x => pure [Part.here p.va pa (lane + p.off) (toBytes n x)]
        | .error (c, o) => raise (accessTrap c o 0 p.va)
      else do
        modify fun s => s.beforeRead p.parts
        let b ← readParts w p.slot p.parts
        pure [Part.here p.va pa (lane + p.off) b]

/-- The elements of a read: where each lies, its bytes, and where it goes in the destination group. -/
abbrev Elems := List (Ptr × Nat × Nat)

/-- R14: an access that is not naturally aligned to a message-window address. -/
def messageAligned (va : Ptr) (n : Nat) : M Unit := do
  if isMessageWindow va && va.toNat % n ≠ 0 then raise (accessTrap 0x09 0x14 0 va) else pure ()

/-- Reads elements in order up to a fault: the parts, the key slot, and the fault. -/
def readElems (w : Who) (xs : Nat) : Elems → M (List Part × Nat × Option TrapInfo)
  | [] => pure ([], 0, none)
  | (va, n, lane) :: rest => do
    let rec pieces : Nat → Nat → Nat → List Part → M (List Part × Nat × Option TrapInfo)
      | 0, _, key, acc => pure (acc, key, none)
      | fuel + 1, off, key, acc =>
        if off < n then do
          match ← attempt (do
            messageAligned va n
            let p ← piece w .load va xs n off
            let q ← readPiece w n lane p
            pure (p, q)) with
          | .ok (p, q) => pieces fuel (off + p.len) p.slot (acc ++ q)
          | .error (.trap i) => pure (acc, key, some i)
          | .error e => throw e
        else pure (acc, key, none)
    let (a, key, f) ← pieces n 0 0 []
    match f with
    | some i => pure (a, key, some i)
    | none => do
      let (b, key', f) ← readElems w xs rest
      pure (a ++ b, if rest.isEmpty then key else max key key', f)

/-- R80, R83, R90: a read by a core of some elements: the bytes with their places. What lies in another module is asked for
there; a fault found at the issuer counts only when no lower part fails, and
such a read stalls in its slot, since no record can say how it ends (log 102: DESIGN CHOICE). What lies here is read, and counted (R92), when the
rest is asked for, and not again while the thread waits. -/
def coreRead (w : Who) (xs : Nat) (elems : Elems) (dest : Option Dest) (word : BitVec 32) :
    M (List Part) := do
  let before ← get
  let (parts, key, fault) ← readElems w xs elems
  let parts ← if parts.all (·.done) then pure parts
    else do
      if before.asked .read parts then set before
      let r ← awaitRequest .read key parts (if fault.isSome then none else dest) word
      pure r.parts
  match fault with
  | some i => raise i
  | none => pure parts

/-- The bytes of parts in order. -/
def partBytes (l : List Part) : List Byte := l.flatMap (·.data)

/-- A plain read of `n` bytes by the moving thread (R208: Read on path C), by a scalar instruction. -/
def load (va : Ptr) (n xs : Nat) (dest : Option Dest) (word : BitVec 32) : M (List Byte) := do
  gate .c
  let w := (← get).coreWho
  partBytes <$> coreRead w xs [(va, n, 0)] dest word

/-! ### Writes -/

/-- R86: at most STMAX posted stores of a thread may be unacknowledged; a further one stalls it. -/
def roomForPosted : M Unit := do
  let s ← get
  if bits s.cl.remcfg 6 0 ≤ (s.posted s.thr.uid).length then stall else pure ()

/-- R86: a piece for another module, of a store of `size` bytes, is posted. -/
def post (p : Piece) (size : Nat) (data : List Byte) : M Unit := do
  roomForPosted
  let s ← get
  let parts := (p.transactions size 0).map fun t => { t with data := (data.drop t.lane).take t.len }
  let (_, s) := s.newReq .write p.slot parts
  set s

/-- R86, R90: a piece that went in an earlier turn of an instruction that stalled does not go again. -/
def once (m : M Unit) : M Unit := do
  let t := (← get).thr
  if t.sent ≤ t.sentHere then m
  modify fun s => s.mapThr fun t => { t with sentHere := t.sentHere + 1 }

/-- R74: the parts of a piece written at their homes, or noted while the store that issues is not to perform at once (log 80). -/
def coreParts (w : Who) (slot : Nat) (data : List Byte) (parts : List (Nat × Nat × Nat)) : M Unit := do
  match (← get).thr.defer with
  | none => writeParts w slot data parts
  | some l => modify fun s => s.mapThr fun t =>
      { t with defer := some (l ++ parts.map fun x => ⟨x.1, slot, (data.drop x.2.1).take x.2.2⟩) }

/-- Writes a piece: at its home in this module, or posted. -/
def writePiece (w : Who) (data : List Byte) (p : Piece) : M Unit := do
  let d := (data.drop p.off).take p.len
  match p.parts with
  | [] => pure ()
  | (pa, _, n) :: _ =>
    if !(kindReach w.path w.eth (paKind pa)) then raise (accessTrap 0x09 0 0 p.va)
    else if paModule pa ≠ locModule w.loc then once (post p data.length d)
    else do
      checkPiece w p
      awaitQueued true p.parts
      if p.inRegisters then once (regWrite w.loc w.user p.va pa n (BitVec.ofNat 64 (ofBytes d)))
      else once (coreParts w p.slot d p.parts)

/-- R90: a write by a core: each piece goes as it is translated. -/
def coreWrite (w : Who) (va : Ptr) (data : List Byte) (xs : Nat) : M Unit :=
  forPieces w .store va xs data.length (writePiece w data) data.length 0

/-! ### Message windows -/

/-- R171: the messages that the NI of a cluster holds: refused by a full inbox, behind one that was, or for a rank that moves (log 103: DESIGN
CHOICE). -/
def State.heldBy (s : State) (l : Loc) : Nat :=
  (s.msgs.filter fun m => m.held && !m.queued && m.ni = locClusterKey l).length

/-- The one transaction of a send to another module (R82): it is no access, and its place is one of the target's module that holds no
byte. -/
def Msg.part (m : Msg) (va : Ptr) : Part := ⟨va, va, mkPa (locModule m.target) 0 1 0, 64, 64, 0, [], false, none⟩

/-- R334: a send that does not reach its target is noted as a failed posted store. -/
def sendFailed (va : Option Ptr) : M Unit := do
  let s ← get
  let t := s.thr
  match va with
  | some v => set (s.noteFailure (locClusterKey s.loc) t.torig t.tser s.nextId v 0)
  | none => do
    let (v, s) := s.freeWord
    set (s.noteFailure (locClusterKey s.loc) t.torig t.tser s.nextId (v.zeroExtend 80) 0)

/-- A message goes on its way from the moving thread: to another module it is posted (R86), to a module out of reach it fails
(R334); an NI that already holds 256 refused messages stalls the thread (R171). `va` is the address
a failure names; without one it is a free value (log 18). A message for a rank that moves is held unsent, and TMO
runs from the send (R164, R82). -/
def sendMessage (m : Msg) (va : Option Ptr) (hold : Bool) : M Unit := do
  let s ← get
  let t := s.thr
  if 256 ≤ s.heldBy s.loc then stall
  if locModule m.target = locModule s.loc then set (s.sendOrHold hold { m with uid := t.uid })
  else if s.cutOff (locModule s.loc) (locModule m.target) then
    sendFailed va
  else do
    roomForPosted
    let s ← get
    let (id, s) := s.newId
    let r : Req := ⟨id, t.uid, s.loc, t.torig, t.tser, .write, s.actCtx, s.user, 0,
      [m.part (va.getD 0)], !hold, false, false, none, 0, none, s.now⟩
    let s := if hold then s else s.sendPacket (locModule s.loc) (locModule m.target) 80
    set ({ s with reqs := s.reqs ++ [r] }.sendOrHold hold { m with uid := t.uid, req := some id })

/-- R14, R154, R334: the channel of a send: as asked for, in user mode at most the task's own. -/
def State.sendChannel (s : State) (c : Nat) : Nat := if s.user then min c s.thr.prio.toNat else c

/-- R14: bytes written into the staging line; one whose last byte is byte 63 sends it. -/
def stageStore (va : Ptr) (data : List Byte) : M Unit := do
  let s ← get
  let target := mkLoc 0 (winModule va) (winDie va) (winCluster va) (winCore va)
  let off := bits va 5 0
  let old : Stage := match s.thr.stage with
    | some x => if x.target = target then x else ⟨target, 0, 0⟩
    | none => ⟨target, 0, 0⟩
  let n := data.length
  let line := setBits old.data (8 * (off + n) - 1) (8 * off) (ofBytes data)
  let mask := setBits old.mask (off + n - 1) off (2 ^ n - 1)
  if off + n = 64 then do
    let word := fun (i : Nat) => BitVec.ofNat 64 (bits line (64 * i + 63) (64 * i))
    let head := word 0
    let chan := s.sendChannel (bits head 14 12)
    sendMessage (message target (headerOf (bits head 11 0) (bits head 39 22) chan (srcOf s.loc) (locKind s.loc))
      ((List.range 7).map fun i => word (i + 1)) s.thr.gtid s.thr.ctxid) (some va) false
    modify fun s => s.mapThr fun t => { t with stage := none }
  else set (s.mapThr fun t => { t with stage := some ⟨target, mask, line⟩ })

/-- A scalar store of the moving thread (R208: Write on path C), to memory, a register or a message window. -/
def store (va : Ptr) (data : List Byte) (xs : Nat) : M Unit := do
  gate .c
  let w := (← get).coreWho
  if isMessageWindow va then
    if 16 < data.length || va.toNat % data.length ≠ 0 then raise (accessTrap 0x09 0x14 0 va)
    let _ ← translate w .store va
    stageStore va data
  else coreWrite w va data xs

/-- A store that may not reach a message window: a vector store, a piece of a block move (R14). -/
def storePlain (va : Ptr) (data : List Byte) (xs : Nat) : M Unit := do
  gate .c
  if isMessageWindow va then raise (accessTrap 0x09 0x14 0 va)
  coreWrite (← get).coreWho va data xs

/-- R436: whether an access of the moving thread that lacks its natural alignment fails for that: not at a message window or in register
space, by the window or by its page, which refuse it themselves; none while a walk for it waits. Looking leaves no trace. -/
def State.misaligned (s : State) (k : AccessKind) (n : Nat) (va : Ptr) : Option Bool :=
  if va.toNat % n = 0 then some false
  else if isWindow va then some (winLevel va ≠ 0)
  else match (translate s.coreWho k va).run s with
    | .ok t _ => some (paKind t.pa ≠ 2)
    | .error .stall _ => none
    | .error _ _ => some true

/-- The same as a check: a trap with an outcome of MISALIGN. -/
def checkNatural (k : AccessKind) (va : Ptr) (n outcome : Nat) : M Unit := do
  match (← get).misaligned k n va with
  | none => stall
  | some true => raise (accessTrap 0x04 outcome 0 va)
  | some false => pure ()

/-- R104, R105: a misaligned plain access traps when the context asks for it. -/
def checkAligned (k : AccessKind) (va : Ptr) (n : Nat) : M Unit := do
  if bit (← get).thr.ctxcfg 0 then checkNatural k va n 0x00 else pure ()

/-! ### Atomics -/

/-- R273: the new value of an atomic of `n` bytes by its operation code, none for no write, and its flags. -/
def atomicNew (op n old y cmp : Nat) : Option Nat × BitVec 6 :=
  let w := 8 * n
  let m := 2 ^ w
  match op with
  | 0x0 => (some ((old + y) % m), 0)
  | 0x1 => (some (old &&& y), 0)
  | 0x2 => (some (old ||| y), 0)
  | 0x3 => (some (old ^^^ y), 0)
  | 0x4 => (some (if sextInt w y < sextInt w old then y else old), 0)
  | 0x5 => (some (if sextInt w old < sextInt w y then y else old), 0)
  | 0x6 => (some (min old y), 0)
  | 0x7 => (some (max old y), 0)
  | 0x8 => (some y, 0)
  | 0xB =>
    let f := if n = 4 then Float.f32 else Float.f64
    let (x, fl) := Float.add 0 (Float.unpack f false old) (Float.unpack f false y)
    let (c, fl') := Float.round f false 0 false 0 x
    (some c, fl ||| fl')
  | _ => (if old = cmp then some y else none, 0)

/-- R76: an atomic performed at its home in this module: the old value and the flags; the home counts it once (R92). -/
def State.performAtomic (s : State) (requester : Option Loc) (slot pa op n y cmp : Nat) : Nat × BitVec 6 × State :=
  let (b, s) := s.homeRead requester slot pa n
  let old := ofBytes b
  match atomicNew op n old y cmp with
  | (some x, f) => (old, f, s.homePut slot pa (toBytes n x))
  | (none, f) => (old, f, s)

/-- R273: an atomic of the moving thread: the old value. -/
def atomic (va : Ptr) (n xs op : Nat) (y cmp : BitVec 128) (dest : Dest) (word : BitVec 32) : M (Nat × BitVec 6) := do
  messageAligned va n
  checkNatural .atomic va n 0x01
  gate .c
  let w := (← get).coreWho
  let p ← piece w .atomic va xs n 0
  match p.parts with
  | [] => pure (0, 0)
  | (pa, _, _) :: _ =>
    if !(kindReach w.path w.eth (paKind pa)) then raise (accessTrap 0x09 0 0 va)
    else if paModule pa ≠ locModule w.loc then do
      let r ← awaitRequest (.atomic op y cmp) p.slot (transactions va 0 n pa n) (some dest) word
      pure (ofBytes (partBytes r.parts), r.flags)
    else do
      checkPiece w p
      if p.inRegisters then raise (accessTrap 0x09 0 0 va)
      awaitQueued true p.parts
      let (old, f, s) := ((← get).beforeRead p.parts).performAtomic (some w.loc) p.slot pa op n y.toNat cmp.toNat
      set s
      pure (old, f)

end Sys2Proof.Machine
end

