-- ==== Sys2Proof/Machine/Flags.lean ====
section
/-! DEFINITION. Rounding and flags: the modes of scalar and vector instructions (R186, R191), the generator of a core under
mode SR (R187), and where the flags go (R192). -/

namespace Sys2Proof.Machine

/-- R187: the generator of a core. -/
def State.gen (s : State) (l : Loc) : BitVec 32 := (s.core l).srstate
def State.setGen (s : State) (l : Loc) (x : BitVec 32) : State := s.mapCore l fun c => { c with srstate := x }

/-- R208: Round: the exact value to a format, drawing from the generator of a core under SR; the code and the flags. -/
def State.round (s : State) (l : Loc) (f : Float.Fmt) (inf8 : Bool) (mode : Nat) (sat : Bool) (x : Float.Val) :
    Nat × BitVec 6 × State :=
  let r := Float.roundDraw f inf8 mode sat (s.gen l) x
  (r.1, r.2.1, if mode = 4 then s.setGen l r.2.2 else s)

/-- R191: the mode and saturation of scalar instructions that take them from VFMT. -/
def State.frm (s : State) : Nat := bits s.cr.vfmt 10 8
def State.fsat (s : State) : Bool := bit s.cr.vfmt 11

/-- R191: the mode, saturation and binary8 infinities of vector instructions. -/
def State.vrm (s : State) : Nat := bits s.cr.vfmt 2 0
def State.vsat (s : State) : Bool := bit s.cr.vfmt 3
def State.inf8 (s : State) : Bool := bit s.cr.vfmt 4

/-- R192: raises the flags of a scalar operation. -/
def raiseF (f : BitVec 6) : M Unit := modify fun s => s.raiseF f

/-- R192: raises the flags of a vector operation of the moving thread. -/
def raiseVF (f : BitVec 6) : M Unit := modify fun s => s.raiseVF s.loc f

/-- R208: a scalar Round of the moving thread; the flags of the operation that formed the value are raised with its own. -/
def scalarRound (f : Float.Fmt) (mode : Nat) (sat : Bool) (x : Float.Val) (pre : BitVec 6) : M Nat := do
  let s ← get
  let (c, fl, s) := s.round s.loc f false mode sat x
  set s
  raiseF (pre ||| fl)
  pure c

end Sys2Proof.Machine
end

