-- ==== Sys2Proof/Machine/Operands.lean ====
section
/-! DEFINITION. Operand forms: M-format addresses (R200), the operands of E-format commands (R199, R281), control blocks (R209),
tiles (R57-R59), element formats. -/

namespace Sys2Proof.Machine

/-! ### M format -/

/-- R200: the address accessed, and the pointer's new value where the mode updates it. -/
def State.address (s : State) (p : BitVec 3) (m : BitVec 2) (imm : BitVec 13) (n : Nat) : Ptr × Option Ptr :=
  let b := s.p p
  let a := addPtr b (imm.toInt * n)
  match m with
  | 0#2 => (a, none)
  | 1#2 => (b, some a)
  | _ => (a, some a)

/-- R200: the pointer register takes its new value. -/
def updatePointer (p : BitVec 3) : Option Ptr → M Unit
  | none => pure ()
  | some x => modify fun s => s.setP p x

/-! ### E format -/

/-- R281: a `g` operand of the a field: the register, or the value of a trigger that fires. -/
def State.gA (s : State) (a : BitVec 5) : Word := match s.ops with | some t => BitVec.ofNat 64 t.opa.toNat | none => s.g a
def State.gB (s : State) (b : BitVec 5) : Word := match s.ops with | some t => BitVec.ofNat 64 t.opb.toNat | none => s.g b
def State.gC (s : State) (c : BitVec 5) : Word := match s.ops with | some t => BitVec.ofNat 64 t.opc.toNat | none => s.g c
/-- R281: a `p` operand, all 80 bits of it. -/
def State.pA (s : State) (a : BitVec 5) : Ptr := match s.ops with | some t => t.opa | none => s.p a
def State.pB (s : State) (b : BitVec 5) : Ptr := match s.ops with | some t => t.opb | none => s.p b
def State.pC (s : State) (c : BitVec 5) : Ptr := match s.ops with | some t => t.opc | none => s.p c

/-! ### Control blocks -/

/-- R111, R124: a fired trigger's read of bytes waits for the accesses of its thread to them that have not performed. -/
def awaitEarlier (va : Ptr) (n : Nat) : M Unit := do
  let s ← get
  let uid := s.thr.uid
  let _ ← mapPieces s.coreWho .load va 0 n (fun p => do
    let s ← get
    if s.clash uid false p.parts || s.reqs.any fun x => x.uid = uid && (x.op = .write || !x.performed) &&
        p.parts.any fun y => x.parts.any fun q => placesOrdered y.1 q.pa then stall
    pure ([] : List Unit)) n 0

/-- R209, R283, R299, R361: a read that an instruction makes before it acts, at a place of a context that its thread acts
under; from another module the thread stalls in its slot. -/
def readBefore (va : Ptr) (n : Nat) (word : BitVec 32) : M (List Byte) := do
  if (← get).ops.isSome then do
    gate .c
    awaitEarlier va n
    memRead (← get).coreWho va n 0
  else load va n 0 none word

/-- R210: a kept copy is dropped 1 ms after it was read. -/
def keptTime : Nat := 2500000

/-- R210: a kept copy of a block, if the units that serve the core keep one. -/
def State.keptCopy (s : State) (base : Ptr) : Option Kept :=
  s.kept.find? fun c => c.loc = s.loc && c.ctx = s.actCtx && c.base = base && decide (s.now < c.since + keptTime)

/-- R210: the granules after the first, from the kept copy or from memory as the part chooses (log 18). -/
def laterGranules (base : Ptr) (old : Option Kept) (word : BitVec 32) : Nat → Nat → M (List Byte)
  | 0, _ => pure []
  | n + 1, i => do
    let fromCopy ← match old with
      | none => pure false
      | some _ => modifyGet fun s => ((s.choose 2).1 = 1, (s.choose 2).2)
    let g ← match fromCopy, old with
      | true, some c => pure ((c.bytes.drop (64 * i)).take 64)
      | _, _ => readBefore (base + BitVec.ofNat 80 (64 * i)) 64 word
    let rest ← laterGranules base old word n (i + 1)
    pure (g ++ rest)

/-- R209, R132, R210: Accept: a block of `n` granules latched from the 64-byte boundary at or below the address. Granule 0 is
read; the others come from a kept copy or from memory while GEN stands. -/
def latch (va : Ptr) (n : Nat) (word : BitVec 32) : M (List Byte) := do
  let base : Ptr := BitVec.ofNat 80 (va.toNat / 64 * 64)
  let first ← readBefore base 64 word
  if n ≤ 1 then pure first
  else
    let old := ((← get).keptCopy base).filter fun c => c.bytes.length = 64 * n && c.bytes.take 4 = first.take 4
    let rest ← laterGranules base old word (n - 1) 1
    let b := first ++ rest
    modify fun s => { s with
      kept := (s.kept.filter fun c => !(c.loc = s.loc && c.ctx = s.actCtx && c.base = base)) ++
        [⟨s.loc, s.actCtx, base, b, match old with | some c => c.since | none => s.now⟩] }
    pure b

/-! ### Tiles -/

def tileV (d : Word × Word) : Bool := bit d.1 63
def tileState (d : Word × Word) : Nat := bits d.1 62 61
def tileLevel (d : Word × Word) : Nat := bits d.1 60 59
def tileXs (d : Word × Word) : Nat := bits d.1 58 56
def tileFmt (d : Word × Word) : Nat := bits d.1 55 51
def tileRows (d : Word × Word) : Nat := bits d.1 47 40 + 1
def tileCols (d : Word × Word) : Nat := bits d.1 39 32 + 1
def tileBase (d : Word × Word) : Nat := bits d.1 27 0
def tilePitch (d : Word × Word) : Nat := 16 * bits d.2 19 0

/-- R179: a format that scratchpads hold: every one but A36. -/
def storedFmt (c : Nat) : Bool := c ≠ 0x0E && Float.fmtBytes c ≠ 0

/-- R58: bytes of a row. -/
def tileRowBytes (d : Word × Word) : Nat := (tileCols d * Float.fmtBytes (tileFmt d) + 15) / 16 * 16

def levelSize (lvl : Nat) : Nat :=
  match lvl with
  | 1 => 2 ^ 16
  | 2 => 2 ^ 21
  | 3 => 2 ^ 28
  | _ => 0

/-- R58: a well-formed descriptor. -/
def tileWellFormed (d : Word × Word) : Bool :=
  tileLevel d ≠ 0 && storedFmt (tileFmt d) && tileBase d % 16 = 0 && tileBase d < levelSize (tileLevel d) &&
  tileRowBytes d ≤ tilePitch d &&
  tileBase d + (tileRows d - 1) * tilePitch d + tileRowBytes d ≤ levelSize (tileLevel d) &&
  bits d.1 50 48 = 0 && bits d.1 31 28 = 0 && bits d.2 57 20 = 0

def State.tile (s : State) (l : Loc) (t : Nat) : Word × Word := (s.core l).tiles.getD t (0, 0)
def State.setTile (s : State) (l : Loc) (t : Nat) (d : Word × Word) : State :=
  s.mapCore l fun c => { c with tiles := c.tiles.setIfInBounds t d }

/-- R59: the state field of an entry. -/
def State.setTileState (s : State) (l : Loc) (t st : Nat) : State :=
  let d := s.tile l t
  s.setTile l t (setBits d.1 62 61 st, d.2)

/-- R57: the physical address of a byte of a tile's level, of the core that owns the table. -/
def tilePa (l : Loc) (d : Word × Word) (off : Nat) : Nat :=
  match tileLevel d with
  | 1 => sp1Pa l off
  | 2 => sp2Pa (locClusterKey l) off
  | _ => spPa (locModule l) (locDie l) 3 0 0 off

/-- R57: the same byte as a window address. -/
def tileVa (l : Loc) (d : Word × Word) (off : Nat) : Ptr :=
  match tileLevel d with
  | 1 => windowPtr (locModule l) (locDie l) 1 (locCluster l) (locCore l) off
  | 2 => windowPtr (locModule l) (locDie l) 2 (locCluster l) 0 off
  | _ => windowPtr (locModule l) (locDie l) 3 0 0 off

/-- R423: an error in a tile descriptor is met: corrected, or the entry becomes undefined. -/
def State.tileError (s : State) (l : Loc) (t : Nat) : State :=
  match s.softAt (.tile l t) with
  | some true => (s.setTile l t (setBits (s.tile l t).1 63 63 0, (s.tile l t).2)).softMet (locDieKey l) 6 (.tile l t)
  | some false => s.softMet (locDieKey l) 0 (.tile l t)
  | none => s

/-- R59: an instruction that reads a tile: it stalls while the tile fills or drains and traps while it is empty or
undefined. -/
def readyTile (t : Nat) : M (Word × Word) := do
  modify fun s => s.tileError s.loc t
  let s ← get
  let d := s.tile s.loc t
  if !(tileV d) then raise (trapInfo 0x0C 0x02 0)
  else match tileState d with
    | 0 => raise (trapInfo 0x0C 0x01 0)
    | 2 => pure d
    | _ => stall

/-- R49, R53, R71: bytes of a tile read or written through it, as a unit does; the tile's own checks in place of a window's. -/
def tileParts (l : Loc) (d : Word × Word) (off n : Nat) : Piece :=
  let va := tileVa l d off
  ⟨va, 0, n, 0, true, chunks (tileXs d) va (tilePa l d off) n⟩

def tileRead (w : Who) (l : Loc) (d : Word × Word) (off n : Nat) : M (List Byte) := do
  if n = 0 then pure []
  else
    let p := tileParts l d off n
    checkPiece w p
    readParts w 0 p.parts

def tileWrite (w : Who) (l : Loc) (d : Word × Word) (off : Nat) (data : List Byte) : M Unit := do
  if data.isEmpty then pure ()
  else
    let p := tileParts l d off data.length
    checkPiece w p
    writeParts w 0 data p.parts

/-! ### Lanes -/

/-- R198: lane i of a vector register for elements of `n` bytes. -/
def lane (v : Vec) (n i : Nat) : Nat := bits v (8 * n * i + 8 * n - 1) (8 * n * i)

/-- R198: an element is active when the predicate bit of its lowest byte is set. -/
def activeLane (q : Pred) (n i : Nat) : Bool := bit q (n * i)

/-- R198: the lanes of an element of `n` bytes. -/
def lanes (n : Nat) : Nat := 256 / n

def vecBytes (v : Vec) : List Byte := toBytes 256 v.toNat
def vecOfBytes (b : List Byte) : Vec := BitVec.ofNat 2048 (ofBytes b)

end Sys2Proof.Machine
end

