-- ==== Sys2Proof/Machine/Scalar.lean ====
section
/-! DEFINITION. Integer, immediate, shift, multiply, divide and pointer instructions (R219-R231). -/

namespace Sys2Proof.Machine

/-- R219: a result written to G[d]; the thread goes on. -/
def State.result (s : State) (d : BitVec 5) (r : Word) : Out := done (s.setG d r)

/-- A truth value as a register holds it (R224, R236). -/
def ofBool (b : Bool) : Word := if b then 1 else 0

/-! ### Integer register operations (R224) -/

/-- R224: the shift amount y[5:0]. -/
def shiftAmount (y : Word) : Nat := bits y 5 0

/-- R224: leading zero bits. -/
def leadingZeros (x : Word) : Nat := 64 - Float.bitLen x.toNat

/-- R224: trailing zero bits, counted from bit `i` with `n` bits left. -/
def trailingZerosFrom (x : Word) : Nat → Nat → Nat
  | 0, _ => 0
  | n + 1, i => if bit x i then 0 else 1 + trailingZerosFrom x n (i + 1)

def trailingZeros (x : Word) : Nat := trailingZerosFrom x 64 0

/-- R224: the 1 bits among the lowest `n`. -/
def onesBelow (x : Word) : Nat → Nat
  | 0 => 0
  | n + 1 => (if bit x n then 1 else 0) + onesBelow x n

/-- R224: the eight bytes in reverse order. -/
def reverseBytes (x : Word) : Word := BitVec.ofNat 64 (ofBytes (toBytes 8 x.toNat).reverse)

/-- R200: SExt of the low `w` bits. -/
def signExtend (w : Nat) (x : Word) : Word := BitVec.ofInt 64 (sextInt w x.toNat)

/-- R200: ZExt of the low `w` bits. -/
def zeroExtend (w : Nat) (x : Word) : Word := BitVec.ofNat 64 (x.toNat % 2 ^ w)

def execAdd (d a b : BitVec 5) (s : State) : Out := s.result d (s.g a + s.g b)
def execSub (d a b : BitVec 5) (s : State) : Out := s.result d (s.g a - s.g b)
def execAnd (d a b : BitVec 5) (s : State) : Out := s.result d (s.g a &&& s.g b)
def execOr (d a b : BitVec 5) (s : State) : Out := s.result d (s.g a ||| s.g b)
def execXor (d a b : BitVec 5) (s : State) : Out := s.result d (s.g a ^^^ s.g b)
def execAndn (d a b : BitVec 5) (s : State) : Out := s.result d (s.g a &&& ~~~(s.g b))
def execOrn (d a b : BitVec 5) (s : State) : Out := s.result d (s.g a ||| ~~~(s.g b))
def execSll (d a b : BitVec 5) (s : State) : Out := s.result d (s.g a <<< shiftAmount (s.g b))
def execSrl (d a b : BitVec 5) (s : State) : Out := s.result d (s.g a >>> shiftAmount (s.g b))
def execSra (d a b : BitVec 5) (s : State) : Out := s.result d ((s.g a).sshiftRight (shiftAmount (s.g b)))
def execRol (d a b : BitVec 5) (s : State) : Out := s.result d ((s.g a).rotateLeft (shiftAmount (s.g b)))
def execRor (d a b : BitVec 5) (s : State) : Out := s.result d ((s.g a).rotateRight (shiftAmount (s.g b)))
def execSlt (d a b : BitVec 5) (s : State) : Out := s.result d (ofBool ((s.g a).slt (s.g b)))
def execSltn (d a b : BitVec 5) (s : State) : Out := s.result d (ofBool ((s.g a).ult (s.g b)))
def execMin (d a b : BitVec 5) (s : State) : Out := s.result d (if (s.g b).slt (s.g a) then s.g b else s.g a)
def execMax (d a b : BitVec 5) (s : State) : Out := s.result d (if (s.g a).slt (s.g b) then s.g b else s.g a)
def execMinn (d a b : BitVec 5) (s : State) : Out := s.result d (if (s.g b).ult (s.g a) then s.g b else s.g a)
def execMaxn (d a b : BitVec 5) (s : State) : Out := s.result d (if (s.g a).ult (s.g b) then s.g b else s.g a)
def execClz (d a : BitVec 5) (s : State) : Out := s.result d (BitVec.ofNat 64 (leadingZeros (s.g a)))
def execCtz (d a : BitVec 5) (s : State) : Out := s.result d (BitVec.ofNat 64 (trailingZeros (s.g a)))
def execPop (d a : BitVec 5) (s : State) : Out := s.result d (BitVec.ofNat 64 (onesBelow (s.g a) 64))
def execBswap (d a : BitVec 5) (s : State) : Out := s.result d (reverseBytes (s.g a))
def execSext8 (d a : BitVec 5) (s : State) : Out := s.result d (signExtend 8 (s.g a))
def execSext16 (d a : BitVec 5) (s : State) : Out := s.result d (signExtend 16 (s.g a))
def execSext32 (d a : BitVec 5) (s : State) : Out := s.result d (signExtend 32 (s.g a))
def execZext8 (d a : BitVec 5) (s : State) : Out := s.result d (zeroExtend 8 (s.g a))
def execZext16 (d a : BitVec 5) (s : State) : Out := s.result d (zeroExtend 16 (s.g a))
def execZext32 (d a : BitVec 5) (s : State) : Out := s.result d (zeroExtend 32 (s.g a))

/-! ### Immediate operations (R225-R227) -/

def execAddi (d a : BitVec 5) (imm : BitVec 16) (s : State) : Out := s.result d (s.g a + imm.signExtend 64)
def execAndi (d a : BitVec 5) (imm : BitVec 16) (s : State) : Out := s.result d (s.g a &&& imm.zeroExtend 64)
def execOri (d a : BitVec 5) (imm : BitVec 16) (s : State) : Out := s.result d (s.g a ||| imm.zeroExtend 64)
def execXori (d a : BitVec 5) (imm : BitVec 16) (s : State) : Out := s.result d (s.g a ^^^ imm.zeroExtend 64)
def execSlli (d a : BitVec 5) (h : BitVec 6) (s : State) : Out := s.result d (s.g a <<< h.toNat)
def execSrli (d a : BitVec 5) (h : BitVec 6) (s : State) : Out := s.result d (s.g a >>> h.toNat)
def execSrai (d a : BitVec 5) (h : BitVec 6) (s : State) : Out := s.result d ((s.g a).sshiftRight h.toNat)
def execSlti (d a : BitVec 5) (imm : BitVec 12) (s : State) : Out := s.result d (ofBool ((s.g a).slt (imm.signExtend 64)))
def execSltni (d a : BitVec 5) (imm : BitVec 12) (s : State) : Out := s.result d (ofBool ((s.g a).ult (imm.signExtend 64)))

/-- R226: `movi` and `movk` accept the starts 0 to 48. -/
def fieldStart (n : BitVec 4) : Bool := n.toNat ≤ 12

/-- R226: the value that `movi` gives. -/
def moviValue (sel : BitVec 1) (n : BitVec 4) (imm : BitVec 16) : Word :=
  let pos := 4 * n.toNat
  let v : Word := BitVec.ofNat 64 (imm.toNat * 2 ^ pos)
  if sel = 1 then signExtend (pos + 16) v else v

def execMovi (d : BitVec 5) (sel : BitVec 1) (n : BitVec 4) (imm : BitVec 16) (s : State) : Out :=
  if fieldStart n then s.result d (moviValue sel n imm) else trapOut s (illegal 0x04 s.word)

def execMovk (d : BitVec 5) (n : BitVec 4) (imm : BitVec 16) (s : State) : Out :=
  if fieldStart n then s.result d (setBits (s.g d) (4 * n.toNat + 15) (4 * n.toNat) imm.toNat)
  else trapOut s (illegal 0x04 s.word)

/-! ### Multiply and divide (R229) -/

/-- R229: the quotient rounded toward zero and the remainder, signed, with the fixed borderline cases. -/
def signedDiv (x y : Word) : Word := if y = 0 then BitVec.allOnes 64 else BitVec.ofInt 64 (x.toInt.tdiv y.toInt)
def signedRem (x y : Word) : Word := if y = 0 then x else BitVec.ofInt 64 (x.toInt.tmod y.toInt)
def unsignedDiv (x y : Word) : Word := if y = 0 then BitVec.allOnes 64 else BitVec.ofNat 64 (x.toNat / y.toNat)
def unsignedRem (x y : Word) : Word := if y = 0 then x else BitVec.ofNat 64 (x.toNat % y.toNat)

def execMul (d a b : BitVec 5) (s : State) : Out := s.result d (s.g a * s.g b)
def execMulh (d a b : BitVec 5) (s : State) : Out :=
  s.result d (BitVec.ofInt 64 ((s.g a).toInt * (s.g b).toInt / 2 ^ 64))
def execMulhn (d a b : BitVec 5) (s : State) : Out :=
  s.result d (BitVec.ofNat 64 ((s.g a).toNat * (s.g b).toNat / 2 ^ 64))
def execDiv (d a b : BitVec 5) (s : State) : Out := s.result d (signedDiv (s.g a) (s.g b))
def execDivn (d a b : BitVec 5) (s : State) : Out := s.result d (unsignedDiv (s.g a) (s.g b))
def execRem (d a b : BitVec 5) (s : State) : Out := s.result d (signedRem (s.g a) (s.g b))
def execRemn (d a b : BitVec 5) (s : State) : Out := s.result d (unsignedRem (s.g a) (s.g b))

/-! ### Pointer operations (R231) -/

def execPadd (d a b : BitVec 5) (s : State) : Out := done (s.setP d (s.p a + (s.g b).signExtend 80))
def execPset (d a b : BitVec 5) (s : State) : Out :=
  done (s.setP d (BitVec.ofNat 80 (bits (s.g b) 15 0 * 2 ^ 64 + (s.g a).toNat)))
def execPget (d a : BitVec 5) (s : State) : Out := s.result d (BitVec.ofNat 64 (s.p a).toNat)
def execPgeth (d a : BitVec 5) (s : State) : Out := s.result d (BitVec.ofNat 64 (bits (s.p a) 79 64))
def execPdiff (d a b : BitVec 5) (s : State) : Out := s.result d (BitVec.ofNat 64 (s.p a - s.p b).toNat)

end Sys2Proof.Machine
end

