-- ==== Sys2Proof/Machine/Engine.lean ====
section
/-! DEFINITION. Engine commands: acceptance on a completion counter (R117, R118, R137), barrier objects (R283, R284), fault
records (R265, R266), and completion. -/

namespace Sys2Proof.Machine

/-! ### Acceptance -/

/-- R276: the commands of a class that a thread has accepted and that are not complete. -/
def Thread.outstanding (t : Thread) (cls : CmdClass) : Nat := (t.opens.filter fun o => o.cls = cls && !o.done).length

/-- R276: at most 31 `cp.*` commands and 31 tile commands are outstanding; a further one stalls at acceptance. -/
def roomFor (cls : CmdClass) (path : Path) : M Unit := do
  let n := ((← get).thr.opens.filter fun o => o.cls = cls && o.path = path && !o.done).length
  if 31 ≤ n then stall else pure ()

/-- R118, R137, R209: Accept: the command takes the next number on its counter and samples what it uses; the answer is its
number in the model. -/
def accept (ctr : BitVec 3) (cls : CmdClass) (path : Path) (kind : CmdKind) (barrier : Option (Ptr × BitVec 32)) : M Nat := do
  gate path
  let s ← get
  let t := s.thr
  let c := s.cr
  let k := s.k ctr
  let num := k.i + 1
  let (id, s) := s.newId
  let cmd : Cmd := {
    id := id
    uid := t.uid
    loc := s.loc
    ctr := ctr
    num := num
    ctx := s.actCtx
    user := s.actUser
    winp := s.actWinp
    gtid := t.gtid
    mx := t.mx
    cp := t.cp
    ni := t.ni
    stv := t.stv
    mxfmt := c.mxfmt
    mxsca := c.mxsca
    mxscb := c.mxscb
    inf8 := s.inf8
    tapeb := c.tapeb
    kind := kind
    barrier := barrier
    since := s.now
    performed := false
    begun := false
    placed := 0
    message := none
    fault := none }
  let t : Thread := { t with
    k := t.k.set ctr.toNat ⟨num, k.c⟩ ctr.isLt
    opens := t.opens ++ [⟨id, ctr, num, cls, path, false⟩] }
  set ({ s with cmds := s.cmds ++ [cmd] }.setThr t)
  pure id

/-- R283: the barrier object that a copy or tile command names: its address and the generation read at acceptance. -/
def barrierAt : M (Option (Ptr × BitVec 32)) := do
  let s ← get
  let t := s.thr
  if bit (t.cp.get 3) 31 then do
    let va : Ptr := BitVec.ofNat 80 ((t.cp.get 4).toNat % 2 ^ 64)
    if va.toNat % 64 ≠ 0 then raise (accessTrap 0x04 0x01 0 va)
    let b ← readBefore va 4 s.word
    pure (some (va, BitVec.ofNat 32 (ofBytes b)))
  else pure none

/-! ### The commands in flight -/

def State.cmd (s : State) (id : Nat) : Option Cmd := s.cmds.find? fun c => c.id = id
def State.mapCmd (s : State) (id : Nat) (f : Cmd → Cmd) : State :=
  { s with cmds := s.cmds.map fun c => if c.id = id then f c else c }

/-- R265: the record of a fault of a command: 0 a data access, 1 the barrier object, 2 a triggered command, 3 the swap
partner. -/
def Cmd.record (c : Cmd) (kind row : Nat) (i : TrapInfo) : FaultRec where
  va := i.value
  ctr := c.ctr
  cause := BitVec.ofNat 8 i.cause
  outc := BitVec.ofNat 8 i.outcome
  kind := BitVec.ofNat 2 kind
  level := BitVec.ofNat 3 i.level
  cmd := c.num
  row := BitVec.ofNat 32 row

/-- An engine outcome (R267, R261, R360). -/
def engineTrap (outcome : Nat) (va : Ptr) : TrapInfo := trapInfo 0x0E outcome va

/-- Runs the work of a command: the record of the fault that ends it, or none. -/
def work (c : Cmd) (row : Nat) (m : M Unit) : M (Option FaultRec) := do
  match ← attempt m with
  | .ok _ => pure none
  | .error (.trap i) => pure (some (c.record 0 row i))
  | .error e => throw e

/-- Runs the rows `r` to `r` + n − 1 of a command in ascending order up to a fault. -/
def workRows (c : Cmd) (f : Nat → M Unit) : Nat → Nat → M (Option FaultRec)
  | 0, _ => pure none
  | n + 1, r => do
    match ← work c r (f r) with
    | some x => pure (some x)
    | none => workRows c f n (r + 1)

/-! ### Faults and completion -/

/-- R265, R266: a fault reaches a thread: a record where the queue has room, else OVF; the counter is marked. -/
def Thread.addFault (t : Thread) (r : FaultRec) : Thread :=
  let t := { t with marks := setBits t.marks r.ctr.toNat r.ctr.toNat 1 }
  if t.faults.length < 4 then { t with faults := t.faults ++ [r] } else { t with ovf := true }

/-- R118: C advances over the completed prefix of a counter. -/
def Thread.advance (t : Thread) (ctr : BitVec 3) : Thread :=
  let prefix_ := (t.opens.filter fun o => o.ctr = ctr).takeWhile (·.done)
  match prefix_.getLast? with
  | none => t
  | some o =>
    { t with
      k := t.k.set ctr.toNat ⟨(t.k.get ctr.toFin).i, o.num⟩ ctr.isLt
      opens := t.opens.filter fun x => !(prefix_.any fun y => y.cmd = x.cmd) }

/-- The fault of a command, when it met one, reaches its thread. -/
def Thread.noteFault (t : Thread) : Option FaultRec → Thread
  | some r => t.addFault r
  | none => t

/-- A command of a thread is complete. -/
def Thread.mark (t : Thread) (id : Nat) : Thread :=
  { t with opens := t.opens.map fun o => if o.cmd = id then { o with done := true } else o }

/-- R117, R118: a command completes: its fault is recorded, and its counter advances. -/
def State.finish (s : State) (id : Nat) : State :=
  match s.cmd id with
  | none => s
  | some c =>
    let s := { s with cmds := s.cmds.filter fun c => c.id ≠ id }
    match s.placeOf c.uid with
    | none => s
    | some w => (s.meetPlace w).mapThreadOf w fun t => ((t.noteFault c.fault).mark id).advance c.ctr

/-- R266: the counter carries a fault mark. -/
def Thread.marked (t : Thread) (ctr : BitVec 3) : Bool := bit t.marks ctr.toNat

/-- R266: delivery of the fault of a marked counter: what the trap reports, and the thread after it. -/
def Thread.deliver (t : Thread) (ctr : BitVec 3) : TrapInfo × Thread :=
  match t.faults.find? fun r => r.ctr = ctr with
  | none => (trapInfo 0x0E 0x23 0, { t with marks := setBits t.marks ctr.toNat ctr.toNat 0 })
  | some r =>
    let t := { t with eflast := r, faults := removeFirst r t.faults }
    let t := if t.faults.any fun r => r.ctr = ctr then t else { t with marks := setBits t.marks ctr.toNat ctr.toNat 0 }
    (⟨0x0E, if r.cause = 0x0E then r.outc.toNat else r.cause.toNat, r.level.toNat, 0, r.va, false⟩, t)

/-! ### Barrier objects -/

/-- R283, R284: the object after an arrival of a generation: its first 16 bytes, and whether it is malformed. -/
def barrierArrive (old : List Byte) (gen : BitVec 32) : List Byte × Bool :=
  let g := BitVec.ofNat 32 (leAt old 0 4)
  let count := BitVec.ofNat 32 (leAt old 4 4)
  let target := BitVec.ofNat 32 (leAt old 8 4)
  let stale := leAt old 12 4
  let bad := target = 0 || !(zeroBytes old 16 48)
  if g = gen && !bad then
    let n := count + 1
    let (n, g) := if n = target then ((0 : BitVec 32), g + 1) else (n, g)
    (toBytes 4 g.toNat ++ toBytes 4 n.toNat ++ toBytes 4 target.toNat ++ toBytes 4 stale, false)
  else
    (toBytes 4 g.toNat ++ toBytes 4 count.toNat ++ toBytes 4 target.toNat ++ toBytes 4 (min (stale + 1) (2 ^ 32 - 1)), bad)

/-- R283: the arrival of a command at its object, one atomic on path X at the object's home. -/
def arriveAt (c : Cmd) (va : Ptr) (gen : BitVec 32) : M (Option FaultRec) := do
  let w := c.copyWho
  match ← attempt (do
    let p ← piece w .atomic va 0 64 0
    checkPiece w p
    if p.inRegisters then raise (accessTrap 0x09 0 0 va)
    across w p 64 64 (do
      let old ← readParts w p.slot p.parts
      let (new, bad) := barrierArrive old gen
      putParts p.slot new (p.parts.map fun x => (x.1, x.2.1, 16))
      pure bad)) with
  | .ok true => pure (some (c.record 1 0 (engineTrap 0x25 va)))
  | .ok false => pure none
  | .error (.trap i) => pure (some (c.record 1 0 i))
  | .error e => throw e

end Sys2Proof.Machine
end

