-- ==== Sys2Proof/Machine/Copy.lean ====
section
/-! DEFINITION. The cluster's copy engine: its commands at acceptance (R288, R289) and what they do (R290, R291). -/

namespace Sys2Proof.Machine

/-! ### Copy registers (R288) -/

def cpRows (r : Vector Ptr 5) : Nat := bits (r.get 0) 63 32
def cpRowBytes (r : Vector Ptr 5) : Nat := bits (r.get 0) 31 0
def cpSrcStride (r : Vector Ptr 5) : Int := sextInt 64 (r.get 1).toNat
def cpDstStride (r : Vector Ptr 5) : Int := sextInt 64 (r.get 2).toNat
def cpFmt (r : Vector Ptr 5) : Nat := bits (r.get 3) 20 16
def cpMode (r : Vector Ptr 5) : Nat := bits (r.get 3) 14 12
def cpSat (r : Vector Ptr 5) : Bool := bit (r.get 3) 11
def cpAdd (r : Vector Ptr 5) : Bool := bit (r.get 3) 10
def cpIndexBytes (r : Vector Ptr 5) : Nat := if bit (r.get 3) 8 then 8 else 4
def cpSrcXs (r : Vector Ptr 5) : Nat := bits (r.get 3) 5 3
def cpDstXs (r : Vector Ptr 5) : Nat := bits (r.get 3) 2 0

/-- R288, R289: the reserved bits of CPCTL are zero. -/
def cpReservedZero (r : Vector Ptr 5) : Bool :=
  bits (r.get 3) 63 32 = 0 && bits (r.get 3) 30 21 = 0 && bits (r.get 3) 15 15 = 0 && bits (r.get 3) 7 6 = 0

/-- R289: a format that ADD takes: an integer or a real floating-point format of memory. -/
def addFmt (c : Nat) : Bool := Float.isInt c || Float.isFloatCode c

/-- R289: the registers are within their limits. -/
def cpLegal (r : Vector Ptr 5) : Bool :=
  decide (1 ≤ cpRows r ∧ cpRows r ≤ 2 ^ 20) && decide (1 ≤ cpRowBytes r ∧ cpRowBytes r ≤ 2 ^ 24) &&
  bits (r.get 3) 9 9 = 0 && decide (cpMode r ≤ 4) && cpReservedZero r &&
  (!(cpAdd r) || (addFmt (cpFmt r) && cpRowBytes r % Float.fmtBytes (cpFmt r) = 0))

/-- R289: a copy command at acceptance. -/
def acceptCopy (k : BitVec 3) (kind : State → CmdKind) : M Unit := do
  let s ← get
  check (cpLegal s.thr.cp) 0x06
  roomFor .cp .x
  let barrier ← barrierAt
  let s ← get
  let id ← accept k .cp .x (kind s) barrier
  modify fun s => s.push (.engineCompletion id)

def acceptCpCopy (a b : BitVec 5) (k : BitVec 3) : M Unit := acceptCopy k fun s => .copy (s.pA a) (s.pB b)
def acceptCpFill (a b : BitVec 5) (k : BitVec 3) : M Unit := acceptCopy k fun s => .fill (s.pA a) (s.gB b)
def acceptCpRows (a b : BitVec 5) (k : BitVec 3) (imm : BitVec 5) : M Unit :=
  acceptCopy k fun s => .rows (s.pA a) (s.pB b) (s.pC imm)
def acceptCpScat (a b : BitVec 5) (k : BitVec 3) (imm : BitVec 5) : M Unit :=
  acceptCopy k fun s => .scat (s.pA a) (s.pB b) (s.pC imm)

def execCpCopy (a b : BitVec 5) (k : BitVec 3) (s : State) : Out := runCAdv (acceptCpCopy a b k) s
def execCpFill (a b : BitVec 5) (k : BitVec 3) (s : State) : Out := runCAdv (acceptCpFill a b k) s
def execCpRows (a b : BitVec 5) (k : BitVec 3) (imm : BitVec 5) (s : State) : Out := runCAdv (acceptCpRows a b k imm) s
def execCpScat (a b : BitVec 5) (k : BitVec 3) (imm : BitVec 5) (s : State) : Out := runCAdv (acceptCpScat a b k imm) s

/-! ### What the commands do (R290) -/

/-- How a command reads and writes: by a unit, at an address, so many bytes or these, with a swizzle. A command's work is given
its accesses, since an `xfence` asks for their homes before they perform (R116). -/
abbrev Read := Who → Ptr → Nat → Nat → M (List Byte)
abbrev Write := Who → Ptr → List Byte → Nat → M Unit

/-- The address of a row. -/
def rowAt (base : Ptr) (r : Nat) (stride : Int) : Ptr := addPtr base (r * stride)

/-- R290: the r-th index, none when it is all ones. -/
def rowIndex (rd : Read) (c : Cmd) (idx : Ptr) (r : Nat) : M (Option Nat) := do
  let n := cpIndexBytes c.cp
  let b ← rd c.copyWho (idx + BitVec.ofNat 80 (n * r)) n 0
  let i := ofBytes b
  pure (if i = 2 ^ (8 * n) - 1 then none else some i)

/-- R290, R286: the bytes of a fill at an address: byte x of the value at addresses x modulo 8 (log 22). -/
def fillBytes (va : Ptr) (value : Word) (n : Nat) : List Byte :=
  (List.range n).map fun i => BitVec.ofNat 8 (value.toNat / 2 ^ (8 * ((va.toNat + i) % 8)))

/-- R290: old + contribution, rounded once, integers wrapping; the generator of the issuing core is drawn from (R187). -/
def addElement (c : Cmd) (fmt mode : Nat) (sat : Bool) (old new : List Byte) : M (List Byte × BitVec 6) := do
  match Float.fmtOf fmt with
  | none => pure (old, 0)
  | some f => do
    let s ← get
    let (x, fl, gen) := Float.combine f c.inf8 mode sat 0 (s.gen c.loc) (ofBytes old) (ofBytes new)
    if !(Float.isInt fmt) then set (s.setGen c.loc gen)
    pure (toBytes (Float.fmtBytes fmt) x, fl)

/-- R290: elements of a row added one by one, each atomic at its home. Under SR they draw in ascending order of elements within ascending items; R187
leaves the order to the part (log 105: DESIGN CHOICE). -/
def addElements (c : Cmd) (dst : Ptr) (data : List Byte) : Nat → Nat → M Unit
  | 0, _ => pure ()
  | n + 1, i => do
    let e := Float.fmtBytes (cpFmt c.cp)
    let _ ← memAtomic c.copyWho (dst + BitVec.ofNat 80 (e * i)) e (cpDstXs c.cp) fun old => do
      let (x, _) ← addElement c (cpFmt c.cp) (cpMode c.cp) (cpSat c.cp) old ((data.drop (e * i)).take e)
      pure (some x)
    addElements c dst data n (i + 1)

/-- R290: a row added. -/
def addRow (c : Cmd) (dst : Ptr) (data : List Byte) : M Unit :=
  addElements c dst data (data.length / Float.fmtBytes (cpFmt c.cp)) 0

/-- R290: one row of a copy command, by its accesses and its additions. -/
def copyRow (rd : Read) (wr : Write) (add : Ptr → List Byte → M Unit) (c : Cmd) (r : Nat) : M Unit := do
  let n := cpRowBytes c.cp
  let w := c.copyWho
  match c.kind with
  | .copy dst src => do
    let b ← rd w (rowAt src r (cpSrcStride c.cp)) n (cpSrcXs c.cp)
    wr w (rowAt dst r (cpDstStride c.cp)) b (cpDstXs c.cp)
  | .fill dst v => do
    let d := rowAt dst r (cpDstStride c.cp)
    wr w d (fillBytes d v n) (cpDstXs c.cp)
  | .rows dst src idx => do
    match ← rowIndex rd c idx r with
    | none => pure ()
    | some i => do
      let b ← rd w (rowAt src i (cpSrcStride c.cp)) n (cpSrcXs c.cp)
      wr w (rowAt dst r (cpDstStride c.cp)) b (cpDstXs c.cp)
  | .scat dst src idx => do
    match ← rowIndex rd c idx r with
    | none => pure ()
    | some i => do
      let b ← rd w (rowAt src r (cpSrcStride c.cp)) n (cpSrcXs c.cp)
      let d := rowAt dst i (cpDstStride c.cp)
      if cpAdd c.cp then add d b
      else wr w d b (cpDstXs c.cp)
  | _ => pure ()

/-- R290, R291: the rows of a copy command, ascending, up to the lowest that faults. -/
def performCopy (c : Cmd) : M (Option FaultRec) := workRows c (copyRow memRead memWrite (addRow c) c) (cpRows c.cp) 0

end Sys2Proof.Machine
end

