-- ==== Sys2Proof/Machine/Streams.lean ====
section
/-! DEFINITION. Stream-bound registers (R259-R262): chunks fetched ahead and produced, what an instruction that reads or writes a
bound register does, binding and freeing. -/

namespace Sys2Proof.Machine

/-- The stream that a register is bound to. -/
def Thread.stream (t : Thread) (r : Nat) : Option Stream := t.streams.find? fun x => x.reg = r

def Thread.mapStream (t : Thread) (r : Nat) (f : Stream → Stream) : Thread :=
  { t with streams := t.streams.map fun x => if x.reg = r then f x else x }

/-- R259: the address of a chunk. -/
def Stream.chunkAt (x : Stream) (n : Nat) : Ptr := addPtr x.base ((n % x.n0 : Nat) * x.s0 + (n / x.n0 : Nat) * x.s1)

/-- R261, R281: the copy engine working for a stream. -/
def Stream.who (x : Stream) (l : Loc) : Who := ⟨copyUnit (locClusterKey l), .x, false, l, x.ctx, x.user, x.winp⟩

/-- A read of a chunk. -/
def fetchChunk (l : Loc) (x : Stream) (n : Nat) : M Vec := do
  let b ← memRead (x.who l) (x.chunkAt n) 256 x.xs.toNat
  pure (vecOfBytes b)

/-- R261: an ENGINE trap of a stream; the spec gives its EADDR no value (log 18). -/
def streamTrap (outcome : Nat) : M Unit := do
  let (v, s) := (← get).freeWord
  set s
  raise (trapInfo 0x0E outcome (v.zeroExtend 80))

/-- R261: the chunks that an instruction will read from its bound sources, one for each register however many fields name it;
nothing is consumed yet. -/
def peekStreams : List Nat → M (List (Nat × Vec))
  | [] => pure []
  | r :: rest => do
    let others ← peekStreams rest
    let s ← get
    match s.thr.stream r with
    | none => pure others
    | some x =>
      if x.write || rest.contains r then pure others
      else if x.total ≤ x.used then do
        streamTrap 0x20
        pure others
      else
        match x.ready with
        | c :: _ => pure ((r, c) :: others)
        | [] => do
          let c ← fetchChunk s.loc x x.used
          modify fun s => s.mapThr fun t => t.mapStream r fun x => { x with ready := [c] }
          pure ((r, c) :: others)

/-- What the instruction reads from a register: the chunk it consumes, or the register. -/
def State.source (s : State) (peek : List (Nat × Vec)) (r : BitVec 5) : Vec :=
  match peek.find? fun p => p.1 = r.toNat with
  | some (_, c) => c
  | none => s.v r

/-- The key of the steps of a stream. -/
def streamStep (s : State) (r : Nat) : Event := .streamChunkArrival s.loc s.slotNo r

/-- R261: the chunks read are consumed: the register holds the chunk, and the stream moves on by one. -/
def State.consume (s : State) : List (Nat × Vec) → State
  | [] => s
  | (r, c) :: rest =>
    let s := s.setV (BitVec.ofNat 5 r) c
    let s := s.mapThr fun t => t.mapStream r fun x => { x with used := x.used + 1, ready := x.ready.tail }
    (s.push (streamStep s r)).consume rest

/-- R261: an instruction that writes a register: refused for a read stream and beyond the last chunk of a write stream. -/
def writable (r : BitVec 5) : M Unit := do
  match (← get).thr.stream r.toNat with
  | none => pure ()
  | some x =>
    if !x.write then badOperand 0x08
    else if x.total ≤ x.used then streamTrap 0x21
    else pure ()

/-- R261: a vector register written; one bound to a write stream produces its next chunk. -/
def State.writeV (s : State) (r : BitVec 5) (v : Vec) : State :=
  let s := s.setV r v
  match s.thr.stream r.toNat with
  | none => s
  | some x =>
    if x.write then
      (s.mapThr fun t => t.mapStream r.toNat fun x => { x with used := x.used + 1, ready := x.ready ++ [v] }).push
        (streamStep s r.toNat)
    else s

/-- R261, R265: the fault of a write stream is its command's. -/
def State.streamFault (s : State) (id : Nat) (i : TrapInfo) : State :=
  s.mapCmd id fun c => { c with fault := match c.fault with
    | some f => some f
    | none => some (c.record 0 0 i) }

/-- R261: the oldest produced chunk of a write stream performs; after a fault no later chunk is written. -/
def performChunk (l : Loc) (x : Stream) : M Stream := do
  match x.ready with
  | [] => pure x
  | c :: rest =>
    if x.stopped then pure { x with ready := rest }
    else
      match ← attempt (memWrite (x.who l) (x.chunkAt x.first) (vecBytes c) x.xs.toNat) with
      | .ok _ => pure { x with ready := rest }
      | .error (.trap i) => do
        modify fun s => s.streamFault x.cmd i
        pure { x with ready := rest, stopped := true }
      | .error e => throw e

/-- R261: a chunk of a read stream is fetched, at most four ahead; one that faults is left to the instruction that consumes
it. -/
def prefetch (l : Loc) (x : Stream) : M Stream := do
  if x.ready.length < 4 && x.left ≠ 0 then
    match ← attempt (fetchChunk l x x.first) with
    | .ok c => pure { x with ready := x.ready ++ [c] }
    | .error _ => pure x
  else pure x

/-- R261: a step of the stream that a register of a slot is bound to. -/
def streamChunk (l : Loc) (k r : Nat) : M Unit := do
  match ((← get).threadAt l k).stream r with
  | none => pure ()
  | some x => do
    let y ← if x.write then performChunk l x else prefetch l x
    modify fun s => s.mapThreadAt l k fun t => t.mapStream r fun _ => y

/-- The chunks that the write stream of a register has produced, each performed; after one that must wait, those before it are done with. -/
def drainStream (r : Nat) : Nat → M Unit
  | 0 => pure ()
  | n + 1 => do
    let s ← get
    match s.thr.stream r with
    | none => pure ()
    | some x => do
      let y ← performChunk s.loc x
      modify fun s => s.mapThr fun t => t.mapStream r fun _ => y
      drainStream r n

/-- R259: a descriptor that breaks its table. -/
def streamLegal (b : List Byte) : Bool :=
  decide (leAt b 4 1 < 8) && zeroBytes b 5 3 && zeroBytes b 18 6 && decide (1 ≤ leAt b 24 4) && decide (1 ≤ leAt b 28 4) &&
  zeroBytes b 48 16

/-- R260: `vbind`. -/
def vbindM (d a : BitVec 5) (k : BitVec 3) (z : BitVec 2) : M Unit := do
  check (decide (28 ≤ d.toNat) && decide (z.toNat ≤ 1)) 0x04
  let s ← get
  check (s.thr.stream d.toNat).isNone 0x07
  let b ← latch (s.p a) 1 s.word
  check (streamLegal b) 0x06
  let id ← accept k .none .x (.stream d.toNat) none
  let s ← get
  let x : Stream := ⟨d.toNat, z = 1, id, BitVec.ofNat 3 (leAt b 4 1), BitVec.ofNat 80 (leAt b 8 10), leAt b 24 4, leAt b 28 4,
    sextInt 64 (leAt b 32 8), sextInt 64 (leAt b 40 8), s.actCtx, s.actUser, s.actWinp, 0, [], false⟩
  let s := s.mapThr fun t => { t with streams := t.streams ++ [x] }
  set (if z = 1 then s else iterate (fun _ s => s.push (streamStep s d.toNat)) 4 0 s)

def execVbind (d a : BitVec 5) (k : BitVec 3) (z : BitVec 2) (s : State) : Out := runCAdv (vbindM d a k z) s

/-- R260: `vfree`: unconsumed chunks are discarded, produced ones are written, and the command completes. -/
def vfreeM (d : BitVec 5) : M Unit := do
  check (decide (28 ≤ d.toNat)) 0x04
  let s ← get
  match s.thr.stream d.toNat with
  | none => pure ()
  | some x => do
    if x.write then drainStream d.toNat x.ready.length
    modify fun s => ((s.mapThr fun t => { t with streams := t.streams.filter fun y => y.reg ≠ d.toNat }).mapCmd x.cmd fun c =>
      { c with performed := true }).push (.engineCompletion x.cmd)

def execVfree (d : BitVec 5) (s : State) : Out := runAdv (vfreeM d) s

end Sys2Proof.Machine
end

