-- ==== Sys2Proof/Machine/Tile.lean ====
section
/-! DEFINITION. Tile instructions (R292-R296): the tile table of R57, its states (R59), fills with 2:4 expansion (R62, R63),
drains and exchanges. -/

namespace Sys2Proof.Machine

/-! ### The table -/

/-- R57, R117: PINS: the outstanding commands of other cores that name tile `t` of a core: exchanges by its partner, until they complete, their
arrivals at a barrier among that (R283). -/
def State.pins (s : State) (l : Loc) (t : Nat) : Nat :=
  (s.cmds.filter fun c =>
    c.loc ≠ l &&
    match c.kind with
    | .tswap n _ p => n = t && p = l
    | _ => false).length

/-- R293, R57: what a definition stores: STATE empty, PINS and the reserved bits zero. -/
def tileStored (d : Word × Word) : Word × Word := (setBits (setBits (setBits d.1 62 61 0) 50 48 0) 31 28 0, setBits d.2 63 20 0)

/-- R58, R293: a descriptor that may be stored. -/
def tileAccepted (d : Word × Word) : Bool := !(tileV d) || tileWellFormed d

/-- R293 steps 1 and 2: no affected tile is pinned; none is filling or draining. Errors in the entries are met (R423). -/
def tilesFree (first n : Nat) : M Unit := do
  let affected := (List.range n).map fun i => first + i
  modify fun s => affected.foldl (fun s t => s.tileError s.loc t) s
  let s ← get
  let l := s.loc
  if affected.any fun t => s.pins l t ≠ 0 then raise (trapInfo 0x0C 0x00 0)
  if affected.any fun t => tileV (s.tile l t) && (tileState (s.tile l t) = 1 || tileState (s.tile l t) = 3) then stall

/-- R293: definitions written from a tile on, in one ck. -/
def State.defineTiles (s : State) (l : Loc) : Nat → List (Word × Word) → State
  | _, [] => s
  | t, d :: rest => (s.setTile l t d).defineTiles l (t + 1) rest

/-- R293: `tcfg`. -/
def tcfgM (a b c : BitVec 5) : M Unit := do
  let s ← get
  let n := (s.g c).toNat
  check (decide (1 ≤ n) && decide (a.toNat + n ≤ 32)) 0x04
  let block ← readBefore (s.p b) (16 * n) s.word
  tilesFree a.toNat n
  let ds := (List.range n).map fun i =>
    ((BitVec.ofNat 64 (leAt block (16 * i) 8) : Word), (BitVec.ofNat 64 (leAt block (16 * i + 8) 8) : Word))
  check (ds.all tileAccepted) 0x06
  modify fun s => s.defineTiles s.loc a.toNat (ds.map tileStored)

def execTcfg (a b c : BitVec 5) (s : State) : Out := runCAdv (tcfgM a b c) s

/-- R293: `tdef`; supervisor mode may write an entry ready. -/
def tdefM (a b c : BitVec 5) : M Unit := do
  let s ← get
  let d := (s.g b, s.g c)
  tilesFree a.toNat 1
  check (tileAccepted d) 0x06
  let stored := tileStored d
  let stored := if tileV d && !s.user && tileState d = 2 then (setBits stored.1 62 61 2, stored.2) else stored
  modify fun s => s.setTile s.loc a.toNat stored

def execTdef (a b c : BitVec 5) (s : State) : Out := runAdv (tdefM a b c) s

/-- R293: `trel`. -/
def trelM (a : BitVec 5) : M Unit := do
  tilesFree a.toNat 1
  modify fun s =>
    let d := s.tile s.loc a.toNat
    s.setTile s.loc a.toNat (setBits d.1 63 61 0, d.2)

def execTrel (a : BitVec 5) (s : State) : Out := runAdv (trelM a) s

/-- R295: `tstat`. An error in the entry is met (R423). PINS has six bits: a larger count is shown as 63 (log 100: DESIGN CHOICE). -/
def execTstat (a b : BitVec 5) (s : State) : Out :=
  if b.toNat % 2 = 1 then trapOut s (illegal 0x05 s.word)
  else
    let s := s.tileError s.loc a.toNat
    let d := s.tile s.loc a.toNat
    done ((s.setG b d.1).setG (b + 1) (setBits d.2 63 58 (min 63 (s.pins s.loc a.toNat))))

/-! ### Acceptance (R59, R294, R296) -/

/-- R59: a defined tile, whatever it does. -/
def definedTile (t : Nat) : M (Word × Word) := do
  modify fun s => s.tileError s.loc t
  let s ← get
  let d := s.tile s.loc t
  if tileV d then pure d else raise (trapInfo 0x0C 0x02 0)

/-- R59: a tile that is filling or draining makes the instruction stall. -/
def settledTile (d : Word × Word) : M Unit := if tileState d = 1 || tileState d = 3 then stall else pure ()

/-- R294: `tfill`. -/
def acceptTfill (a b : BitVec 5) (k : BitVec 3) (o : BitVec 1) (c : BitVec 5) : M Unit := do
  let d ← definedTile a.toNat
  check (!(o = 1) || tileCols d % 8 = 0) 0x05
  settledTile d
  roomFor .tl .x
  let barrier ← barrierAt
  let s ← get
  let id ← accept k .tl .x (.tfill a.toNat d (s.pB b) (s.gC c) (o = 1)) barrier
  modify fun s => (s.setTileState s.loc a.toNat 1).push (.tileFillComplete id)

/-- R294: `tdrain`. -/
def acceptTdrain (a b : BitVec 5) (k : BitVec 3) (o : BitVec 1) (c : BitVec 5) : M Unit := do
  let d ← readyTile a.toNat
  roomFor .tl .x
  let barrier ← barrierAt
  let s ← get
  let id ← accept k .tl .x (.tdrain a.toNat d (s.pB b) (s.gC c) (o = 1)) barrier
  modify fun s => (s.setTileState s.loc a.toNat 3).push (.tileDrainComplete id)

/-- R154, R296: the partner that a register names. -/
def partnerOf (w : Word) : Loc := bits w 23 0

/-- The command of a partner that waits for an exchange with a core's tile. -/
def State.swapPartner (s : State) (l : Loc) (t : Nat) (partner : Loc) : Option Cmd :=
  s.cmds.find? fun c => c.loc = partner && !c.performed &&
    match c.kind with
    | .tswap n _ p => n = t && p = l
    | _ => false

/-- R296: `tswap`. -/
def acceptTswap (a b : BitVec 5) (k : BitVec 3) : M Unit := do
  let s ← get
  let partner := partnerOf (s.gB b)
  check (locDieKey partner = locDieKey s.loc) 0x05
  let d ← readyTile a.toNat
  roomFor .tl .x
  let barrier ← barrierAt
  let id ← accept k .tl .x (.tswap a.toNat d partner) barrier
  modify fun s =>
    let s := s.setTileState s.loc a.toNat 1
    if partner ≠ s.loc && (s.swapPartner s.loc a.toNat partner).isSome then s.push (.tswapExchange id) else s

def execTfill (a b : BitVec 5) (k : BitVec 3) (o : BitVec 1) (c : BitVec 5) (s : State) : Out := runCAdv (acceptTfill a b k o c) s
def execTdrain (a b : BitVec 5) (k : BitVec 3) (o : BitVec 1) (c : BitVec 5) (s : State) : Out := runCAdv (acceptTdrain a b k o c) s
def execTswap (a b : BitVec 5) (k : BitVec 3) (s : State) : Out := runCAdv (acceptTswap a b k) s

/-! ### What the commands do -/

/-- R62, R63: a row of `c` columns expanded from its compressed bytes, group by group. -/
def expandRow (e c : Nat) (row : List Byte) : List Byte :=
  (List.range (c / 4)).flatMap fun g =>
    let meta_ := leAt row (c / 2 * e + g / 2) 1 / 2 ^ (4 * (g % 2))
    let value := fun (i : Nat) => (row.drop (e * (2 * g + i))).take e
    let p0 := meta_ % 4
    let p1 := meta_ / 4 % 4
    (List.range 4).flatMap fun k =>
      if k = p1 then value 1 else if k = p0 then value 0 else List.replicate e 0

/-- R294: one row of a fill. -/
def fillRow (c : Cmd) (d : Word × Word) (src : Ptr) (stride : Word) (sparse : Bool) (r : Nat) : M Unit := do
  let e := Float.fmtBytes (tileFmt d)
  let at_ := rowAt src r stride.toInt
  let data ← if sparse then do
      let row ← memRead c.copyWho at_ (tileCols d / 2 * e + tileCols d / 8) 0
      pure (expandRow e (tileCols d) row)
    else memRead c.copyWho at_ (tileRowBytes d) 0
  tileWrite c.copyWho c.loc d (tileBase d + r * tilePitch d) data

/-- R294: one row of a drain. -/
def drainRow (c : Cmd) (d : Word × Word) (dst : Ptr) (stride : Word) (r : Nat) : M Unit := do
  let b ← tileRead c.copyWho c.loc d (tileBase d + r * tilePitch d) (tileRowBytes d)
  memWrite c.copyWho (rowAt dst r stride.toInt) b 0

/-- R296: the rows of a side's own tile, as its command reads them. -/
def swapRead (c : Cmd) (d : Word × Word) : M (List (List Byte)) :=
  collect (fun r => tileRead c.copyWho c.loc d (tileBase d + r * tilePitch d) (tileRowBytes d)) (tileRows d) 0

/-- R296: the bytes of one side written to the other's tile by the first side's command. -/
def swapWrite (c : Cmd) (l : Loc) (d : Word × Word) : Nat → List (List Byte) → M Unit
  | _, [] => pure ()
  | r, b :: rest => do
    tileWrite c.copyWho l d (tileBase d + r * tilePitch d) b
    swapWrite c l d (r + 1) rest

/-- R296: the tiles may be exchanged. -/
def tilesAlike (d e : Word × Word) : Bool := tileRows d = tileRows e && tileCols d = tileCols e && tileFmt d = tileFmt e

/-- R296: a side of an exchange is over: its tile is ready, its command has performed. -/
def State.swapOver (s : State) (id : Nat) (fault : Option FaultRec) : State :=
  match s.cmd id with
  | none => s
  | some c =>
    let s := match c.kind with
      | .tswap t _ _ => s.setTileState c.loc t 2
      | _ => s
    (s.mapCmd id fun c => { c with performed := true, fault := fault }).push (.engineCompletion id)

/-- R296: a side that exchanges nothing; its record has no faulting byte, so the VA is a free value (log 18). -/
def State.swapFailed (s : State) (c : Cmd) : State :=
  let (v, s) := s.freeWord
  s.swapOver c.id (some (c.record 3 0 (engineTrap 0x22 (v.zeroExtend 80))))

/-- R296: the exchange, once both sides have accepted: of one command and its partner's, with their tiles. -/
def exchange (c p : Cmd) (d e : Word × Word) : M Unit := do
  if !(tilesAlike d e) then modify fun s => (s.swapFailed c).swapFailed p
  else do
    let mine ← attempt (swapRead c d)
    let theirs ← attempt (swapRead p e)
    let side := fun (x : Cmd) (l : Loc) (y : Word × Word) (r : Except Stop (List (List Byte))) => (do
      match r with
      | .ok b => work x 0 (swapWrite x l y 0 b)
      | .error (.trap i) => pure (some (x.record 0 0 i))
      | .error _ => pure none : M (Option FaultRec))
    let f ← side c p.loc e mine
    let g ← side p c.loc d theirs
    modify fun s => (s.swapOver c.id f).swapOver p.id g

/-- R296: no partner within TMO. -/
def State.swapTimeout (s : State) (id : Nat) : State :=
  match s.cmd id with
  | none => s
  | some c =>
    match c.kind with
    | .tswap _ _ _ => if c.performed then s else s.swapFailed c
    | _ => s

end Sys2Proof.Machine
end

