-- ==== Sys2Proof/Machine/Matrix.lean ====
section
/-! DEFINITION. Matrix instructions (R303-R327): engine registers, formats, commands at acceptance, the dispatch queue, and what the
commands do to accumulator tiles. -/

namespace Sys2Proof.Machine

/-! ### Engine registers (R304-R306) -/

/-- R304: the width of a register of a selector, 0 when the selector does not assign the number. -/
def engineWidth (sel n : Nat) : Nat :=
  match sel with
  | 0 => if n = 0 || n = 2 then 80 else if n < 7 then 64 else 0
  | 1 => if n < 5 then 64 else 0
  | 2 => if n ≤ 1 then 80 else if n < 4 then 64 else 0
  | 3 => if n = 0 then 80 else if n = 1 then 64 else 0
  | _ => 0

/-- R305: an engine register of a thread. -/
def Thread.engineReg (t : Thread) (sel n : Nat) : Ptr :=
  match sel with
  | 0 => t.mx.getD n 0
  | 1 => t.cp.getD n 0
  | 2 => t.ni.getD n 0
  | _ => t.stv.getD n 0

def Thread.setEngineReg (t : Thread) (sel n : Nat) (x : Ptr) : Thread :=
  match sel with
  | 0 => { t with mx := t.mx.setIfInBounds n x }
  | 1 => { t with cp := t.cp.setIfInBounds n x }
  | 2 => { t with ni := t.ni.setIfInBounds n x }
  | _ => { t with stv := t.stv.setIfInBounds n x }

/-- R304: the checks of `etw` and `etr`. -/
def engineRegCheck (sel : BitVec 3) (n : BitVec 5) (p : BitVec 1) : Option Nat :=
  let w := engineWidth sel.toNat n.toNat
  if w = 0 then some 0x04 else if p = 1 && w < 80 then some 0x05 else none

/-- R305: `etw`. -/
def execEtw (sel : BitVec 3) (a n : BitVec 5) (p : BitVec 1) (s : State) : Out :=
  match engineRegCheck sel n p with
  | some o => trapOut s (illegal o s.word)
  | none =>
    let x : Ptr := if p = 1 then s.p a else (s.g a).zeroExtend 80
    done (s.mapThr fun t => t.setEngineReg sel.toNat n.toNat x)

/-- R305: `etr`. -/
def execEtr (sel : BitVec 3) (a n : BitVec 5) (p : BitVec 1) (s : State) : Out :=
  match engineRegCheck sel n p with
  | some o => trapOut s (illegal o s.word)
  | none =>
    let x := s.thr.engineReg sel.toNat n.toNat
    if p = 1 then done (s.setP a x) else s.result a (BitVec.ofNat 64 x.toNat)

/-! ### Formats and geometry (R307-R309) -/

def mxAFmt (w : Word) : Nat := bits w 4 0
def mxBFmt (w : Word) : Nat := bits w 12 8
def mxMode (w : Word) : Nat := bits w 18 16
def mxSat (w : Word) : Bool := bit w 19
def mxInf8 (w : Word) : Bool := bit w 20

/-- R309: an operand format. -/
def operandFmt (c : Nat) : Bool := c ≤ 1 || c = 8 || c = 9 || (0x11 ≤ c && c ≤ 0x17) || (0x19 ≤ c && c ≤ 0x1F)

/-- R309: a pair of operand formats that is not refused. -/
def operandPair (w : Word) : Bool :=
  operandFmt (mxAFmt w) && operandFmt (mxBFmt w) && (decide (mxAFmt w ≤ 1) = decide (mxBFmt w ≤ 1))

/-- R309: integer mode. -/
def mxInteger (w : Word) : Bool := mxAFmt w ≤ 1

/-- R309: a move format. -/
def moveFmt (c : Nat) : Bool :=
  c = 5 || c = 8 || c = 9 || c = 0xA || c = 0xE || (0x11 ≤ c && c ≤ 0x17) || (0x19 ≤ c && c ≤ 0x1F)

def mxStride (r : Vector Ptr 7) : Int := sextInt 32 (bits (r.get 4) 63 32)
def mxDFmt (r : Vector Ptr 7) : Nat := bits (r.get 4) 28 24
def mxRowsMoved (r : Vector Ptr 7) : Nat := bits (r.get 4) 12 8 + 1
def mxFirstRow (r : Vector Ptr 7) : Nat := bits (r.get 4) 4 0

/-- R307: the reserved bits of MXCG and MXXS are zero. -/
def mxcgReservedZero (r : Vector Ptr 7) : Bool :=
  bits (r.get 4) 31 29 = 0 && bits (r.get 4) 23 13 = 0 && bits (r.get 4) 7 5 = 0
def mxxsReservedZero (r : Vector Ptr 7) : Bool :=
  bits (r.get 6) 63 11 = 0 && !(bit (r.get 6) 7) && !(bit (r.get 6) 3)

/-- R320: the geometry of `mx.ld` and `mx.st`. -/
def moveLegal (r : Vector Ptr 7) : Bool :=
  mxcgReservedZero r && mxxsReservedZero r && decide (mxFirstRow r + mxRowsMoved r ≤ 32) && moveFmt (mxDFmt r)

/-! ### Accumulator memory (R64-R66) -/

/-- The key of an element in a core's accumulator memory. -/
def accKey (tile row col : Nat) : Nat := 1024 * tile + 32 * row + col

def Core.acc (c : Core) (tile row col : Nat) : Acc := (c.accs.find? (accKey tile row col)).getD 0

/-- An element written; a zero one is not listed. -/
def putAcc (m : SMap Acc) (key : Nat) (x : Acc) : SMap Acc := if x = 0 then m.drop key else m.put key x

def State.mapAccs (s : State) (l : Loc) (f : SMap Acc → SMap Acc) : State := s.mapCore l fun c => { c with accs := f c.accs }

/-! ### The dispatch queue (R161) -/

/-- R161: the dispatch queue has room. -/
def roomInQueue : M Unit := do
  if 8 ≤ (← get).cr.dq.length then stall else pure ()

def unitOf (l : Loc) : Nat := locCore l / 4

/-- R161: a command enters the dispatch queue of a core. -/
def State.dispatch (s : State) (l : Loc) (id : Nat) : State :=
  (s.mapCore l fun c => { c with dq := c.dq ++ [id] }).push (.dispatchServe (locClusterKey l) (unitOf l))

/-- R311: a matrix command accepted into the moving thread's core's queue. -/
def acceptMx (k : BitVec 3) (kind : CmdKind) : M Unit := do
  roomInQueue
  let id ← accept k .mx .m kind none
  modify fun s => s.dispatch s.loc id

/-- R423: an access to an accumulator tile meets an error: it is corrected, or the access fails with the VA a free value (log 18). -/
def accError (l : Loc) (tile : Nat) : M Unit := do
  let s ← get
  match s.softAt (.acc l tile) with
  | some true => do
    let (v, s) := (s.softMet (locDieKey l) 1 (.acc l tile)).freeWord
    set s
    raise (trapInfo 0x09 0x10 (v.zeroExtend 80))
  | some false => set (s.softMet (locDieKey l) 0 (.acc l tile))
  | none => pure ()

/-! ### Acceptance -/

def partBit (c : Core) (tile : Nat) : Bool := bit c.mxprog tile
def Core.setPart (c : Core) (tile : Nat) (v : Bool) : Core :=
  { c with mxprog := setBits c.mxprog tile tile (if v then 1 else 0) }

/-- R316, R318: a tile operand: ready, of the format and at least as large as the operand reads. -/
def tileOperand (t fmt rows cols : Nat) : M (Word × Word) := do
  let d ← definedTile t
  check (tileFmt d = fmt && decide (rows ≤ tileRows d) && decide (cols ≤ tileCols d)) 0x05
  readyTile t

/-- R318: the checks of a product that need no tile. -/
def macCheck (scaled : Bool) (fmt : Word) (r : Vector Ptr 7) (ka kb : Nat) : M Unit := do
  check (!scaled || (ka % 32 = 0 && kb % 32 = 0)) 0x04
  check (operandPair fmt && !(scaled && mxInteger fmt) && mxxsReservedZero r) 0x06

/-- R315-R318: a product at acceptance. -/
def acceptMac (scaled : Bool) (u v t : BitVec 1) (a b : BitVec 5) (k : BitVec 3) (sel : BitVec 1) (c : BitVec 4) : M Unit := do
  let s ← get
  let fmt := s.cr.mxfmt
  let depth := if sel = 1 then 64 else 32
  let ga := if u = 1 then 0 else s.gA a
  let gb := if v = 1 then 0 else s.gB b
  macCheck scaled fmt s.thr.mx (bits ga 31 0) (bits gb 31 0)
  let ta ← if u = 1 then some <$> tileOperand a.toNat (mxAFmt fmt) 32 depth else pure none
  let tb ← if v = 1 then
      some <$> (if t = 1 then tileOperand b.toNat (mxBFmt fmt) 32 depth else tileOperand b.toNat (mxBFmt fmt) depth 32)
    else pure none
  let half := sel = 1 && partBit (← get).cr c.toNat
  acceptMx k (.mac scaled (t = 1) (sel = 1) c.toNat ga gb ta tb half)
  if half then modify fun s => s.mapCr fun x => x.setPart c.toNat false

def acceptMxMac (u v t : BitVec 1) (a b : BitVec 5) (k : BitVec 3) (sel : BitVec 1) (c : BitVec 4) : M Unit :=
  acceptMac false u v t a b k sel c
def acceptMxMacb (u v t : BitVec 1) (a b : BitVec 5) (k : BitVec 3) (sel : BitVec 1) (c : BitVec 4) : M Unit :=
  acceptMac true u v t a b k sel c

/-- R319. -/
def acceptMxZero (k : BitVec 3) (c : BitVec 4) : M Unit := acceptMx k (.mxZero c.toNat)

/-- R320. -/
def acceptMxLd (a : BitVec 5) (k : BitVec 3) (c : BitVec 4) : M Unit := do
  let s ← get
  check (moveLegal s.thr.mx) 0x06
  acceptMx k (.mxLd c.toNat (s.pA a))
def acceptMxSt (a : BitVec 5) (k : BitVec 3) (c : BitVec 4) : M Unit := do
  let s ← get
  check (moveLegal s.thr.mx) 0x06
  acceptMx k (.mxSt c.toNat (s.pA a))

/-- R321. -/
def acceptMxHand (k : BitVec 3) (c : BitVec 4) : M Unit := do
  let s ← get
  check (mxcgReservedZero s.thr.mx && moveFmt (mxDFmt s.thr.mx)) 0x06
  acceptMx k (.mxHand c.toNat)

/-- R325: the words that a send block may hold, checked as R318 and R320 check them for the sender. -/
def sendWordCheck (w : BitVec 32) (opa opb : Ptr) : M Unit := do
  let s ← get
  match (if bits w 31 26 = 0x2D then decodeOp2D w else .error .opcode) with
  | .ok (.mxMac u v _ _ _ _ _ _) => do
    check (u = 0 && v = 0) 0x06
    macCheck false s.cr.mxfmt s.thr.mx (bits opa 31 0) (bits opb 31 0)
  | .ok (.mxMacb u v _ _ _ _ _ _) => do
    check (u = 0 && v = 0) 0x06
    macCheck true s.cr.mxfmt s.thr.mx (bits opa 31 0) (bits opb 31 0)
  | .ok (.mxZero _ _) => pure ()
  | .ok (.mxLd _ _ _) => check (moveLegal s.thr.mx) 0x06
  | .ok (.mxSt _ _ _) => check (moveLegal s.thr.mx) 0x06
  | _ => badOperand 0x06

/-- R325, R327. -/
def acceptMxSend (a b : BitVec 5) (k : BitVec 3) : M Unit := do
  let s ← get
  let block ← latch (s.pB b) 1 s.word
  let w : BitVec 32 := BitVec.ofNat 32 (leAt block 4 4)
  let opa : Ptr := BitVec.ofNat 80 (leAt block 16 10)
  let opb : Ptr := BitVec.ofNat 80 (leAt block 32 8)
  check (zeroBytes block 26 6 && zeroBytes block 40 24) 0x06
  sendWordCheck w opa opb
  let s ← get
  let id ← accept k .mx .m (.mxSend (bits (s.gA a) 23 0) (BitVec.ofNat 64 (leAt block 8 8)) w opa opb) none
  modify fun s => s.push (.mxSendArrival id)

def execMxMac (u v t : BitVec 1) (a b : BitVec 5) (k : BitVec 3) (sel : BitVec 1) (c : BitVec 4) (s : State) : Out :=
  runCAdv (acceptMxMac u v t a b k sel c) s
def execMxMacb (u v t : BitVec 1) (a b : BitVec 5) (k : BitVec 3) (sel : BitVec 1) (c : BitVec 4) (s : State) : Out :=
  runCAdv (acceptMxMacb u v t a b k sel c) s
def execMxZero (k : BitVec 3) (c : BitVec 4) (s : State) : Out := runCAdv (acceptMxZero k c) s
def execMxLd (a : BitVec 5) (k : BitVec 3) (c : BitVec 4) (s : State) : Out := runCAdv (acceptMxLd a k c) s
def execMxSt (a : BitVec 5) (k : BitVec 3) (c : BitVec 4) (s : State) : Out := runCAdv (acceptMxSt a k c) s
def execMxHand (k : BitVec 3) (c : BitVec 4) (s : State) : Out := runCAdv (acceptMxHand k c) s
def execMxSend (a b : BitVec 5) (k : BitVec 3) (s : State) : Out := runCAdv (acceptMxSend a b k) s

/-! ### Conversions (R320) -/

/-- R320: an element that `mx.ld` reads, as accumulator bits, and its flags. -/
def accOfCode (fmt : Nat) (inf8 : Bool) (code : Nat) : Acc × BitVec 6 :=
  if fmt = 0xE then (BitVec.ofNat 36 code, 0)
  else if fmt = 5 then (BitVec.ofInt 36 (sextInt 32 code), 0)
  else
    match Float.fmtOf fmt with
    | some f =>
      let x := Float.unpack f inf8 code
      (BitVec.ofNat 36 (Float.round Float.a36 false 0 false 0 x).1, Float.invOf x)
    | none => (0, 0)

/-- R320: an element as `mx.st`, `mx.hand` and `mx.rd` write it, its flags and the generator after it. -/
def codeOfAcc (fmt : Nat) (inf8 : Bool) (mode : Nat) (sat : Bool) (gen : BitVec 32) (x : Acc) : Nat × BitVec 6 × BitVec 32 :=
  if fmt = 0xE then (x.toNat, 0, gen)
  else if fmt = 5 then
    let v := x.toInt
    let out := v < -(2 ^ 31) || 2 ^ 31 ≤ v
    let w : Int := if out && sat then (if v < 0 then -(2 ^ 31) else 2 ^ 31 - 1) else v
    ((w % 2 ^ 32).toNat, if out then Float.IOV else 0, gen)
  else
    match Float.fmtOf fmt with
    | some f =>
      let v := Float.unpack Float.a36 false x.toNat
      let r := Float.roundDraw f inf8 mode sat gen v
      (r.1, Float.invOf v ||| r.2.1, r.2.2)
    | none => (0, 0, gen)

/-- The elements of columns `j` on of a row of a core's tile converted in ascending order; flags go to VFSTAT and the generator
moves on. -/
def rowCodes (l : Loc) (fmt : Nat) (mxfmt : Word) (tile row : Nat) : Nat → Nat → M (List Nat)
  | 0, _ => pure []
  | n + 1, j => do
    let s ← get
    let (c, fl, gen) := codeOfAcc fmt (mxInf8 mxfmt) (mxMode mxfmt) (mxSat mxfmt) (s.gen l) ((s.core l).acc tile row j)
    set ((s.setGen l gen).raiseVF l fl)
    let rest ← rowCodes l fmt mxfmt tile row n (j + 1)
    pure (c :: rest)

/-- Elements as bytes of their format. -/
def codeBytes (fmt : Nat) (l : List Nat) : List Byte := l.flatMap fun c => toBytes (Float.fmtBytes fmt) c

/-! ### `mx.rd` and `mx.prog` (R322-R324) -/

/-- The tile that a matrix command names. -/
def CmdKind.tile : CmdKind → Option Nat
  | .mac _ _ _ t _ _ _ _ _ => some t
  | .mxZero t => some t
  | .mxLd t _ => some t
  | .mxSt t _ => some t
  | .mxHand t => some t
  | _ => none

/-- R312: a command that reads or writes memory as it executes, and that commands to other tiles may overlap. -/
def CmdKind.overlaps : CmdKind → Bool
  | .mac _ _ _ _ _ _ _ _ _ => true
  | .mxLd _ _ => true
  | .mxSt _ _ => true
  | _ => false

/-- R312: the unit has started a command of the core's own for a tile, and it has not written. -/
def State.tileBusy (s : State) (l : Loc) (tile : Nat) : Bool :=
  s.cmds.any fun c => c.loc = l && c.kind.tile = some tile && c.begun && !c.performed

/-- R323: a command that this core accepted for a tile has not yet written it. -/
def State.tileAwaits (s : State) (l : Loc) (tile : Nat) : Bool :=
  s.tileBusy l tile || (s.core l).dq.any fun id => match s.cmd id with
    | some c => c.loc = l && c.kind.tile = some tile
    | none => false

/-- R322. -/
def mxRdM (v g : BitVec 5) (c : BitVec 4) : M Unit := do
  let s ← get
  let fmt := mxDFmt s.thr.mx
  check (moveFmt fmt) 0x06
  writable v
  if s.tileAwaits s.loc c.toNat then stall
  accError s.loc c.toNat
  let n := min 32 (2048 / (8 * Float.fmtBytes fmt))
  let row := bits (s.g g) 4 0
  let codes ← rowCodes s.loc fmt s.cr.mxfmt c.toNat row n 0
  let x := vecOfBytes (codeBytes fmt codes)
  modify fun s => s.writeV v x

/-- R324. -/
def mxProgM (d : BitVec 5) (clear : State → Nat) : M Unit := do
  let s ← get
  if s.thr.outstanding .mx ≠ 0 then stall
  let old := bits s.cr.mxprog 15 0
  modify fun s => (s.mapCr fun c => { c with mxprog := c.mxprog &&& ~~~(BitVec.ofNat 64 (clear s % 2 ^ 16)) }).setG d
    (BitVec.ofNat 64 old)

def execMxProg (d : BitVec 5) (s : State) : Out := runAdv (mxProgM d fun _ => 0) s
def execMxProgClr (d b : BitVec 5) (s : State) : Out := runAdv (mxProgM d fun s => (s.g b).toNat) s

/-! ### Products (R316, R317) -/

/-- The core on whose tiles and unit a command executes: the issuing core's, or the target's of a sent command (R327). -/
def Cmd.site (c : Cmd) : Loc :=
  match c.kind with
  | .mxSend target _ _ _ _ => target
  | _ => c.loc

/-- R34, R316: the load pipe that fetches operand A or B. -/
def Cmd.pipeWho (c : Cmd) (b : Bool) : Who := ⟨pipeUnit c.site b, .m, false, c.site, c.ctx, c.user, c.winp⟩

/-- Elements of `e` bytes in a run of bytes, as values. -/
def valuesOf (fmt : Nat) (inf8 : Bool) (n : Nat) (b : List Byte) : List Float.Val :=
  match Float.fmtOf fmt with
  | some f => (List.range n).map fun i => Float.unpack f inf8 (leAt b (Float.fmtBytes fmt * i) (Float.fmtBytes fmt))
  | none => List.replicate n (.zero false)

/-- R316: an address of operand A or B: base + row·stride + column·e. -/
def operandAt (base : Ptr) (row : Nat) (stride : Int) (col e : Nat) : Ptr := addPtr base ((row : Int) * stride + (col * e : Nat))

/-- R316: a run of 32 elements of an operand: from its tile at (row, col), or by address. -/
def operandRun (rd : Read) (w : Who) (d : Option (Word × Word)) (fmt : Nat) (inf8 : Bool) (base : Ptr) (stride : Int) (xs row0 col0 row col : Nat) :
    M (List Float.Val) := do
  let e := Float.fmtBytes fmt
  let b ← match d with
    | some t => tileRead w w.loc t (tileBase t + row * tilePitch t + col * e) (32 * e)
    | none => rd w (operandAt base (row0 + row) stride (col0 + col) e) (32 * e) xs
  pure (valuesOf fmt inf8 32 b)

/-- What a block of a product multiplies: the rows of A, the columns of B, and the scales of each. -/
structure Block where
  a : List (List Float.Val)
  b : List (List Float.Val)
  sa : List Float.Val
  sb : List Float.Val
deriving DecidableEq, Repr

/-- Rows turned into columns. -/
def columnsOf (rows : List (List Float.Val)) : List (List Float.Val) :=
  (List.range 32).map fun j => rows.map fun r => r.getD j (.zero false)

/-- R316: the reads of block `n` of a product. -/
def readBlock (rd : Read) (c : Cmd) (scaled tr : Bool) (a b : Word) (ta tb : Option (Word × Word)) (n : Nat) : M Block := do
  let r := c.mx
  let wa := c.pipeWho false
  let wb := c.pipeWho true
  let inf8 := mxInf8 c.mxfmt
  let fa := mxAFmt c.mxfmt
  let fb := mxBFmt c.mxfmt
  let ia := bits a 63 32
  let ka := bits a 31 0
  let jb := bits b 63 32
  let kb := bits b 31 0
  let xa := bits (r.get 6) 2 0
  let xb := bits (r.get 6) 6 4
  let rowsA ← collect (fun i => operandRun rd wa ta fa inf8 (r.get 0) (sextInt 64 (r.get 1).toNat) xa ia ka i (32 * n)) 32 0
  let colsB ← if tr then collect (fun j => operandRun rd wb tb fb inf8 (r.get 2) (sextInt 64 (r.get 3).toNat) xb jb kb j (32 * n)) 32 0
    else columnsOf <$>
      collect (fun k => operandRun rd wb tb fb inf8 (r.get 2) (sextInt 64 (r.get 3).toNat) xb kb jb (32 * n + k) 0) 32 0
  if scaled then do
    let baseA : Ptr := BitVec.ofNat 80 (bits (r.get 0) 79 64 * 2 ^ 64 + c.mxsca.toNat)
    let baseB : Ptr := BitVec.ofNat 80 (bits (r.get 2) 79 64 * 2 ^ 64 + c.mxscb.toNat)
    let sas := sextInt 32 (bits (r.get 5) 31 0)
    let sbs := sextInt 32 (bits (r.get 5) 63 32)
    let sa ← collect (fun i => rd wa (operandAt baseA (ia + i) sas (ka / 32 + n) 2) 2 0) 32 0
    let sb ← rd wb (operandAt baseB (kb / 32 + n) sbs jb 2) 64 0
    pure ⟨rowsA, colsB, sa.flatMap fun x => valuesOf 8 false 1 x, valuesOf 8 false 32 sb⟩
  else pure ⟨rowsA, colsB, [], []⟩

/-- Reads blocks `b` to `b` + n − 1 up to a fault: the blocks, and the fault with its block. -/
def readBlocks (c : Cmd) (scaled tr : Bool) (x y : Word) (ta tb : Option (Word × Word)) :
    Nat → Nat → M (List Block × Option FaultRec)
  | 0, _ => pure ([], none)
  | n + 1, b => do
    match ← attempt (readBlock memRead c scaled tr x y ta tb b) with
    | .ok k => do
      let (rest, f) ← readBlocks c scaled tr x y ta tb n (b + 1)
      pure (k :: rest, f)
    | .error (.trap i) => pure ([], some (c.record 0 b i))
    | .error e => throw e

/-- The integer of a value of an integer format. -/
def intOf : Float.Val → Int
  | .fin neg m _ _ => if neg then -(m : Int) else m
  | _ => 0

/-- R193, R317: the exact sum of products, with INV for a NaN element. -/
def dotProduct (mode : Nat) (a b : List Float.Val) : Float.Val × BitVec 6 :=
  let nan := if a.any Float.Val.isNan || b.any Float.Val.isNan then Float.INV else 0
  match (a.zip b).map fun p => Float.mul p.1 p.2 with
  | [] => (.zero false, nan)
  | p :: rest => rest.foldl (fun acc q =>
      let r := Float.add mode acc.1 q.1
      (r.1, acc.2 ||| q.2 ||| r.2)) (p.1, nan ||| p.2)

/-- R317: one element after one block: its bits, flags and the generator. -/
def macElement (fmt : Word) (scaled : Bool) (k : Block) (i j : Nat) (gen : BitVec 32) (x : Acc) : Acc × BitVec 6 × BitVec 32 :=
  let a := k.a.getD i []
  let b := k.b.getD j []
  if mxInteger fmt then
    let d := (a.zip b).foldl (fun n p => n + intOf p.1 * intOf p.2) (0 : Int)
    let y := x.toInt + d
    (BitVec.ofInt 36 y, if y < -(2 ^ 35) || 2 ^ 35 ≤ y then Float.IOV else 0, gen)
  else
    let (d, fl) := dotProduct (mxMode fmt) a b
    let (d, fl) := if scaled then
        let sa := k.sa.getD i (.zero false)
        let sb := k.sb.getD j (.zero false)
        let nan := if sa.isNan || sb.isNan then Float.INV else 0
        let p := Float.mul sa sb
        let q := Float.mul p.1 d
        (q.1, fl ||| nan ||| p.2 ||| q.2)
      else (d, fl)
    let r := Float.add (mxMode fmt) (Float.unpack Float.a36 false x.toNat) d
    let z := Float.roundDraw Float.a36 false (mxMode fmt) (mxSat fmt) gen r.1
    (BitVec.ofNat 36 z.1, fl ||| r.2 ||| z.2.1, z.2.2)

/-- The element at (i, j) of a tile taken through the blocks in ascending order. -/
def macThrough (fmt : Word) (scaled : Bool) (i j : Nat) : List Block → Acc × BitVec 6 × BitVec 32 → Acc × BitVec 6 × BitVec 32
  | [], x => x
  | k :: rest, x =>
    let r := macElement fmt scaled k i j x.2.2 x.1
    macThrough fmt scaled i j rest (r.1, x.2.1 ||| r.2.1, r.2.2)

/-- R317: the elements of a tile in row-major order, from number `e` on. -/
def macTile (fmt : Word) (scaled : Bool) (tile : Nat) (ks : List Block) :
    Nat → Nat → SMap Acc × BitVec 6 × BitVec 32 → SMap Acc × BitVec 6 × BitVec 32
  | 0, _, m => m
  | n + 1, e, m =>
    let key := 1024 * tile + e
    let r := macThrough fmt scaled (e / 32) (e % 32) ks ((m.1.find? key).getD 0, m.2.1, m.2.2)
    macTile fmt scaled tile ks n (e + 1) (putAcc m.1 key r.1, r.2.1, r.2.2)

/-- R314, R317: a product executed on a core's tile. -/
def performMac (c : Cmd) (scaled tr k64 : Bool) (tile : Nat) (a b : Word) (ta tb : Option (Word × Word)) (half local_ : Bool) :
    M (Option FaultRec) := do
  let l := c.site
  if local_ && !k64 then modify fun s => s.mapCore l fun x => x.setPart tile false
  let first := if half then 1 else 0
  let (ks, fault) ← readBlocks c scaled tr a b ta tb ((if k64 then 2 else 1) - first) first
  modify fun s =>
    if ks.isEmpty then s
    else
      let r := macTile c.mxfmt scaled tile ks 1024 0 ((s.core l).accs, 0, s.gen l)
      ((s.mapAccs l fun _ => r.1).setGen l r.2.2).raiseVF l r.2.1
  match fault with
  | some f => if local_ && k64 && f.row = 1 then modify fun s => s.mapCore l fun x => x.setPart tile true
  | none => pure ()
  pure fault

/-! ### Moves (R319-R321) -/

/-- R319: a tile set to zero bits. -/
def State.zeroTile (s : State) (l : Loc) (tile : Nat) : State :=
  s.mapAccs l fun m => m.filter fun e => e.1 / 1024 ≠ tile

/-- R320: one row that `mx.ld` moves. -/
def loadRow (c : Cmd) (tile : Nat) (base : Ptr) (i : Nat) : M Unit := do
  let l := c.site
  let fmt := mxDFmt c.mx
  let e := Float.fmtBytes fmt
  let b ← memRead (c.pipeWho false) (rowAt base i (mxStride c.mx)) (32 * e) (bits (c.mx.get 6) 10 8)
  let row := mxFirstRow c.mx + i
  modify fun s =>
    let r := (List.range 32).foldl (fun (m : SMap Acc × BitVec 6) j =>
      let x := accOfCode fmt (mxInf8 c.mxfmt) (leAt b (e * j) e)
      (putAcc m.1 (accKey tile row j) x.1, m.2 ||| x.2)) ((s.core l).accs, 0)
    (s.mapAccs l fun _ => r.1).raiseVF l r.2

/-- R320: one row that `mx.st` moves. -/
def storeRow (c : Cmd) (tile : Nat) (base : Ptr) (i : Nat) : M Unit := do
  let fmt := mxDFmt c.mx
  let codes ← rowCodes c.site fmt c.mxfmt tile (mxFirstRow c.mx + i) 32 0
  memWrite (c.pipeWho false) (rowAt base i (mxStride c.mx)) (codeBytes fmt codes) (bits (c.mx.get 6) 10 8)

/-- R321: the tile converted into a slot of the hand-off queue. -/
def performHand (c : Cmd) (tile : Nat) : M Unit := do
  let fmt := mxDFmt c.mx
  let rows ← collect (fun i => rowCodes c.loc fmt c.mxfmt tile i 32 0) 32 0
  modify fun s => s.mapCore c.loc fun x => { x with hand := x.hand ++ [⟨c.uid, c.gtid, fmt, rows.flatten⟩] }

/-- R317-R321: what a matrix command does to its tile; `local_` is false for one that arrived by `mx.send` (R314, R327). -/
def performTile (c : Cmd) (local_ : Bool) : CmdKind → M (Option FaultRec)
  | .mac scaled tr k64 t a b ta tb half => performMac c scaled tr k64 t a b ta tb half local_
  | .mxZero t => do
    modify fun s =>
      let s := if local_ then s.mapCore c.site fun x => x.setPart t false else s
      s.zeroTile c.site t
    pure none
  | .mxLd t base => do
    if local_ then modify fun s => s.mapCore c.site fun x => x.setPart t false
    workRows c (loadRow c t base) (mxRowsMoved c.mx) 0
  | .mxSt t base => workRows c (storeRow c t base) (mxRowsMoved c.mx) 0
  | .mxHand t => do
    performHand c t
    pure none
  | _ => pure none

/-- R423: a matrix command that reads its tile. -/
def CmdKind.readsTile : CmdKind → Option Nat
  | .mac _ _ _ t _ _ _ _ _ => some t
  | .mxSt t _ => some t
  | .mxHand t => some t
  | _ => none

/-- The work of a matrix command: an error in a tile that it reads ends it. -/
def performMx (c : Cmd) (local_ : Bool) (k : CmdKind) : M (Option FaultRec) := do
  let met ← match k.readsTile with
    | some t => work c 0 (accError c.site t)
    | none => pure none
  match met with
  | some r => pure (some r)
  | none => performTile c local_ k

/-- R327: the command that a send carries, with its operands. -/
def sentKind (w : BitVec 32) (opa opb : Ptr) : Option CmdKind :=
  match decodeOp2D w with
  | .ok (.mxMac _ _ t _ _ _ sel c) =>
    some (.mac false (t = 1) (sel = 1) c.toNat (BitVec.ofNat 64 opa.toNat) (BitVec.ofNat 64 opb.toNat) none none false)
  | .ok (.mxMacb _ _ t _ _ _ sel c) =>
    some (.mac true (t = 1) (sel = 1) c.toNat (BitVec.ofNat 64 opa.toNat) (BitVec.ofNat 64 opb.toNat) none none false)
  | .ok (.mxZero _ c) => some (.mxZero c.toNat)
  | .ok (.mxLd _ _ c) => some (.mxLd c.toNat opa)
  | .ok (.mxSt _ _ c) => some (.mxSt c.toNat opa)
  | _ => none

/-- R322. -/
def execMxRd (v g : BitVec 5) (c : BitVec 4) (s : State) : Out := runAdv (mxRdM v g c) s

end Sys2Proof.Machine
end

