-- ==== Sys2Proof/Machine/Vector.lean ====
section
/-! DEFINITION. Vector arithmetic, conversions, predicates, moves, permutes and reductions (R244-R254). -/

namespace Sys2Proof.Machine

/-! ### Lanes -/

/-- R198: the lanes of a register, lowest first: a number of lanes of `n` bytes. -/
def laneList (n : Nat) : Nat → Nat → List Nat
  | 0, _ => []
  | k + 1, x => x % 2 ^ (8 * n) :: laneList n k (x / 2 ^ (8 * n))

/-- The register that lanes make up. -/
def joinLanes (n : Nat) : List Nat → Nat
  | [] => 0
  | x :: rest => x % 2 ^ (8 * n) + 2 ^ (8 * n) * joinLanes n rest

def lanesOf (n : Nat) (v : Vec) : List Nat := laneList n (lanes n) v.toNat
def vecOfLanes (n : Nat) (l : List Nat) : Vec := BitVec.ofNat 2048 (joinLanes n l)

/-- The operands of one lane: the destination's old element and the two sources'. -/
structure LaneIn where
  z : Nat
  x : Nat
  y : Nat
deriving DecidableEq, Repr

/-- What one lane yields: its element, its flags and the generator after it (R187, R192). -/
structure LaneOut where
  r : Nat
  fl : BitVec 6
  gen : BitVec 32
deriving DecidableEq, Repr

/-- A result without flags. -/
def plain (r : Nat) (gen : BitVec 32) : LaneOut := ⟨r, 0, gen⟩

/-- R244: the lanes from `i` on, in ascending order: an active one takes its result, an inactive one keeps its value. -/
def runLanes (n : Nat) (q : Pred) (f : LaneIn → BitVec 32 → LaneOut) : Nat → List LaneIn → BitVec 32 → List Nat × BitVec 6 × BitVec 32
  | _, [], gen => ([], 0, gen)
  | i, e :: rest, gen =>
    if activeLane q n i then
      let r := f e gen
      let t := runLanes n q f (i + 1) rest r.gen
      (r.r :: t.1, r.fl ||| t.2.1, t.2.2)
    else
      let t := runLanes n q f (i + 1) rest gen
      (e.z :: t.1, t.2.1, t.2.2)

/-- Three lists of lanes as operands. -/
def laneIns : List Nat → List Nat → List Nat → List LaneIn
  | z :: zs, x :: xs, y :: ys => ⟨z, x, y⟩ :: laneIns zs xs ys
  | _, _, _ => []

/-- R244, R245: an instruction that works lane by lane on elements of `n` bytes. -/
def laneOp (n : Nat) (d a b : BitVec 5) (q : BitVec 3) (f : State → LaneIn → BitVec 32 → LaneOut) : M Unit := do
  writable d
  let pk ← peekStreams [a.toNat, b.toNat]
  let s ← get
  let ins := laneIns (lanesOf n (s.v d)) (lanesOf n (s.source pk a)) (lanesOf n (s.source pk b))
  let r := runLanes n (s.q q) (f s) 0 ins (s.gen s.loc)
  set ((((s.setGen s.loc r.2.2).raiseVF s.loc r.2.1).consume pk).writeV d (vecOfLanes n r.1))

/-! ### Floating-point arithmetic (R247, R248) -/

/-- R247: the formats of the floating-point group. -/
def vectorFloat (f : BitVec 5) : Option Float.Fmt := if Float.isFloatCode f.toNat then Float.fmtOf f.toNat else none

/-- R245, R248: Round under VFMT of a value formed with some flags. -/
def State.vround (s : State) (f : Float.Fmt) (x : Float.Val × BitVec 6) (gen : BitVec 32) : LaneOut :=
  let r := Float.roundDraw f s.inf8 s.vrm s.vsat gen x.1
  ⟨r.1, x.2 ||| r.2.1, r.2.2⟩

/-- R248: an operation on values, rounded once. -/
def floatOp (d a b : BitVec 5) (q : BitVec 3) (f : BitVec 5)
    (op : Nat → Float.Val → Float.Val → Float.Val → Float.Val × BitVec 6) : M Unit := do
  match vectorFloat f with
  | none => badOperand 0x04
  | some fm => laneOp (Float.fmtBytes f.toNat) d a b q fun s e gen =>
      State.vround s fm (op s.vrm (Float.unpack fm s.inf8 e.z) (Float.unpack fm s.inf8 e.x) (Float.unpack fm s.inf8 e.y)) gen

/-- R248, R189: minimum and maximum, unrounded. -/
def floatMinMax (wantMax : Bool) (d a b : BitVec 5) (q : BitVec 3) (f : BitVec 5) : M Unit := do
  match vectorFloat f with
  | none => badOperand 0x04
  | some fm => laneOp (Float.fmtBytes f.toNat) d a b q fun s e gen =>
      let u := Float.unpack fm s.inf8
      let r := Float.minMax wantMax (u e.x) (u e.y)
      ⟨Float.packExact fm s.inf8 r.1, r.2, gen⟩

def execVaddF (d a b : BitVec 5) (q : BitVec 3) (f : BitVec 5) (s : State) : Out :=
  runAdv (floatOp d a b q f fun m _ x y => Float.add m x y) s
def execVsubF (d a b : BitVec 5) (q : BitVec 3) (f : BitVec 5) (s : State) : Out :=
  runAdv (floatOp d a b q f fun m _ x y => Float.add m x y.negate) s
def execVmulF (d a b : BitVec 5) (q : BitVec 3) (f : BitVec 5) (s : State) : Out :=
  runAdv (floatOp d a b q f fun _ _ x y => Float.mul x y) s
def execVfma (d a b : BitVec 5) (q : BitVec 3) (f : BitVec 5) (s : State) : Out :=
  runAdv (floatOp d a b q f fun m z x y => Float.fma m z x y) s
def execVminF (d a b : BitVec 5) (q : BitVec 3) (f : BitVec 5) (s : State) : Out := runAdv (floatMinMax false d a b q f) s
def execVmaxF (d a b : BitVec 5) (q : BitVec 3) (f : BitVec 5) (s : State) : Out := runAdv (floatMinMax true d a b q f) s
def execVdiv (d a b : BitVec 5) (q : BitVec 3) (f : BitVec 5) (s : State) : Out :=
  runAdv (floatOp d a b q f fun _ _ x y => Float.div x y) s
def execVsqrt (d a : BitVec 5) (q : BitVec 3) (f : BitVec 5) (s : State) : Out :=
  runAdv (floatOp d a a q f fun _ _ x _ => Float.sqrt x) s

/-! ### Integer and logic (R249) -/

/-- The bytes of an integer format and whether it is signed (R179). -/
def intBytes (f : BitVec 3) : Nat := 2 ^ (f.toNat / 2)
def intSigned (f : BitVec 3) : Bool := f.toNat % 2 = 1

/-- R249: an operation on integers of w bits. -/
def intOp (d a b : BitVec 5) (q f : BitVec 3) (op : Nat → Nat → Nat → Nat) : M Unit :=
  let n := intBytes f
  laneOp n d a b q fun _ e gen => plain (op (8 * n) e.x e.y) gen

/-- The order of a format: x < y. -/
def intLess (signed : Bool) (w x y : Nat) : Bool := if signed then decide (sextInt w x < sextInt w y) else decide (x < y)

/-- An integer modulo 2^w. -/
def wrapInt (w : Nat) (i : Int) : Nat := (i % (2 ^ w : Nat)).toNat

def execVaddI (d a b : BitVec 5) (q f : BitVec 3) (s : State) : Out := runAdv (intOp d a b q f fun w x y => (x + y) % 2 ^ w) s
def execVsubI (d a b : BitVec 5) (q f : BitVec 3) (s : State) : Out :=
  runAdv (intOp d a b q f fun w x y => (x + 2 ^ w - y) % 2 ^ w) s
def execVmulI (d a b : BitVec 5) (q f : BitVec 3) (s : State) : Out := runAdv (intOp d a b q f fun w x y => x * y % 2 ^ w) s
def execVminI (d a b : BitVec 5) (q f : BitVec 3) (s : State) : Out :=
  runAdv (intOp d a b q f fun w x y => if intLess (intSigned f) w y x then y else x) s
def execVmaxI (d a b : BitVec 5) (q f : BitVec 3) (s : State) : Out :=
  runAdv (intOp d a b q f fun w x y => if intLess (intSigned f) w x y then y else x) s
def execVand (d a b : BitVec 5) (q f : BitVec 3) (s : State) : Out := runAdv (intOp d a b q f fun _ x y => x &&& y) s
def execVor (d a b : BitVec 5) (q f : BitVec 3) (s : State) : Out := runAdv (intOp d a b q f fun _ x y => x ||| y) s
def execVxor (d a b : BitVec 5) (q f : BitVec 3) (s : State) : Out := runAdv (intOp d a b q f fun _ x y => x ^^^ y) s
def execVshl (d a b : BitVec 5) (q f : BitVec 3) (s : State) : Out :=
  runAdv (intOp d a b q f fun w x y => x * 2 ^ (y % w) % 2 ^ w) s
def execVshr (d a b : BitVec 5) (q f : BitVec 3) (s : State) : Out := runAdv (intOp d a b q f fun w x y => x / 2 ^ (y % w)) s
def execVsra (d a b : BitVec 5) (q f : BitVec 3) (s : State) : Out :=
  runAdv (intOp d a b q f fun w x y => wrapInt w (sextInt w x / (2 ^ (y % w) : Nat))) s

/-- R249: `vabs` and `vneg`, on signed formats only. -/
def signedOp (d a : BitVec 5) (q f : BitVec 3) (op : Int → Int) : M Unit := do
  check (intSigned f) 0x05
  intOp d a a q f fun w x _ => wrapInt w (op (sextInt w x))

def execVabsI (d a : BitVec 5) (q f : BitVec 3) (s : State) : Out := runAdv (signedOp d a q f fun x => x.natAbs) s
def execVnegI (d a : BitVec 5) (q f : BitVec 3) (s : State) : Out := runAdv (signedOp d a q f fun x => -x) s

/-! ### Special functions (R250) -/

/-- R250: the formats of the unary functions. -/
def unaryFloat (f : BitVec 5) : Option Float.Fmt := if f = 0x0B then none else vectorFloat f

/-- R250: a unary function: its exact value, rounded once. -/
def unaryOp (d a : BitVec 5) (q : BitVec 3) (f : BitVec 5) (g : Float.Val → Float.Val × BitVec 6) : M Unit := do
  match unaryFloat f with
  | none => badOperand 0x04
  | some fm => laneOp (Float.fmtBytes f.toNat) d a a q fun s e gen =>
      State.vround s fm (g (Float.unpack fm s.inf8 e.x)) gen

def execVexp2 (d a : BitVec 5) (q : BitVec 3) (f : BitVec 5) (s : State) : Out := runAdv (unaryOp d a q f Float.exp2) s
def execVlog2 (d a : BitVec 5) (q : BitVec 3) (f : BitVec 5) (s : State) : Out := runAdv (unaryOp d a q f Float.log2) s
def execVrcp (d a : BitVec 5) (q : BitVec 3) (f : BitVec 5) (s : State) : Out :=
  runAdv (unaryOp d a q f Float.rcp) s
def execVrsqrt (d a : BitVec 5) (q : BitVec 3) (f : BitVec 5) (s : State) : Out :=
  runAdv (unaryOp d a q f Float.rsqrt) s
def execVtanh (d a : BitVec 5) (q : BitVec 3) (f : BitVec 5) (s : State) : Out := runAdv (unaryOp d a q f Float.tanh) s

/-- R250, R189: sign operations on codes. -/
def signOp (d a : BitVec 5) (q : BitVec 3) (f : BitVec 5) (g : State → Float.Fmt → Nat → Nat × BitVec 6) : M Unit := do
  match unaryFloat f with
  | none => badOperand 0x04
  | some fm => laneOp (Float.fmtBytes f.toNat) d a a q fun s e gen =>
      let r := g s fm e.x
      ⟨r.1, r.2, gen⟩

def execVabsF (d a : BitVec 5) (q : BitVec 3) (f : BitVec 5) (s : State) : Out :=
  runAdv (signOp d a q f fun _ fm x => (Float.absCode fm x, 0)) s
def execVnegF (d a : BitVec 5) (q : BitVec 3) (f : BitVec 5) (s : State) : Out :=
  runAdv (signOp d a q f fun s fm x => Float.negCode fm s.vsat x) s

/-! ### Conversions (R250) -/

/-- R247, R250: a format of a conversion. -/
def convFmt (f : BitVec 5) : Option Float.Fmt :=
  if Float.isInt f.toNat || Float.isFloatCode f.toNat then Float.fmtOf f.toNat else none

/-- R250: source lanes converted in ascending order. -/
def convLanes (s : State) (src dst : Float.Fmt) : List Nat → BitVec 32 → List Nat × BitVec 6 × BitVec 32
  | [], gen => ([], 0, gen)
  | x :: rest, gen =>
    let r := Float.convert src dst s.inf8 s.vrm s.vsat gen x
    let t := convLanes s src dst rest r.2.2
    (r.1 :: t.1, r.2.1 ||| t.2.1, t.2.2)

/-- R250: a conversion: `ok` checks the sizes, `pick` the source lanes converted, `place` the destination from its old lanes and
the converted ones. -/
def convertOp (d a sel : BitVec 5) (f : BitVec 5) (partOk : Bool) (ok : Nat → Nat → Bool) (pick : Nat → Nat → List Nat → List Nat)
    (place : List Nat → List Nat → List Nat) : M Unit := do
  match convFmt sel, convFmt f with
  | some src, some dst => do
    let ns := Float.fmtBytes sel.toNat
    let nd := Float.fmtBytes f.toNat
    check (ok ns nd && sel ≠ f) 0x05
    check partOk 0x04
    writable d
    let pk ← peekStreams [a.toNat]
    let s ← get
    let r := convLanes s src dst (pick (lanes ns) (lanes nd) (lanesOf ns (s.source pk a))) (s.gen s.loc)
    set ((((s.setGen s.loc r.2.2).raiseVF s.loc r.2.1).consume pk).writeV d
      (vecOfLanes nd (place (lanesOf nd (s.v d)) r.1)))
  | _, _ => badOperand 0x04

def execVcvt (d a sel : BitVec 5) (p : BitVec 2) (f : BitVec 5) (s : State) : Out :=
  runAdv (convertOp d a sel f (p = 0) (fun ns nd => ns = nd) (fun _ _ l => l) (fun _ l => l)) s

/-- R250: PART below the ratio of the sizes. -/
def partBelow (p : BitVec 2) (large small : BitVec 5) : Bool :=
  let r := Float.fmtBytes large.toNat / max 1 (Float.fmtBytes small.toNat)
  !(r = 2 || r = 4) || p.toNat < r

def execVwiden (d a sel : BitVec 5) (p : BitVec 2) (f : BitVec 5) (s : State) : Out :=
  runAdv (convertOp d a sel f (partBelow p f sel) (fun ns nd => nd = 2 * ns || nd = 4 * ns)
    (fun _ ld l => (l.drop (p.toNat * ld)).take ld) (fun _ l => l)) s

def execVnarrow (d a sel : BitVec 5) (p : BitVec 2) (f : BitVec 5) (s : State) : Out :=
  runAdv (convertOp d a sel f (partBelow p sel f) (fun ns nd => ns = 2 * nd || ns = 4 * nd) (fun _ _ l => l)
    (fun old l => old.take (p.toNat * l.length) ++ l ++ old.drop (p.toNat * l.length + l.length))) s

/-! ### Predicates (R251, R252) -/

/-- The predicate with the bits of every element of `n` bytes set to its truth. -/
def predOf (n : Nat) : List Bool → Nat
  | [] => 0
  | b :: rest => (if b then 2 ^ n - 1 else 0) + 2 ^ n * predOf n rest

/-- R252: the relation of two lanes, with its flags. -/
def laneCompare (s : State) (c : Nat) (f : BitVec 5) (fm : Float.Fmt) (x y : Nat) : Bool × BitVec 6 :=
  if Float.isInt f.toNat then
    let less := intLess (f.toNat % 2 = 1) fm.bits
    (match c with
     | 0 => x = y
     | 1 => less x y
     | 2 => !(less y x)
     | _ => x ≠ y, 0)
  else Float.compare c (Float.unpack fm s.inf8 x) (Float.unpack fm s.inf8 y)

/-- R252: `vcmp`: inactive elements give 0. -/
def vcmpM (d a b : BitVec 5) (q c : BitVec 3) (f : BitVec 5) : M Unit := do
  match convFmt f with
  | none => badOperand 0x04
  | some fm => do
    check (c.toNat ≤ 4) 0x01
    check (!(Float.isInt f.toNat && c = 3)) 0x05
    let n := Float.fmtBytes f.toNat
    let pk ← peekStreams [a.toNat, b.toNat]
    let s ← get
    let ins := (lanesOf n (s.source pk a)).zip (lanesOf n (s.source pk b))
    let act := (List.range (lanes n)).map fun i => activeLane (s.q q) n i
    let rs := (ins.zip act).map fun e => if e.2 then laneCompare s c.toNat f fm e.1.1 e.1.2 else (false, 0)
    let fl := rs.foldl (fun z r => z ||| r.2) 0
    set (((s.raiseVF s.loc fl).consume pk).setQ d (BitVec.ofNat 256 (predOf n (rs.map (·.1)))))

def execVcmp (d a b : BitVec 5) (q c : BitVec 3) (f : BitVec 5) (s : State) : Out := runAdv (vcmpM d a b q c f) s

/-- R252: `vbound`; the sum is exact. -/
def execVbound (d a b : BitVec 5) (e : BitVec 2) (s : State) : Out :=
  let n := 2 ^ e.toNat
  let base := (s.g a).toInt
  let top := (s.g b).toInt
  done (s.setQ d (BitVec.ofNat 256 (predOf n ((List.range (lanes n)).map fun (i : Nat) => decide (base + (i : Int) < top)))))

def execQand (d a b : BitVec 5) (s : State) : Out := done (s.setQ d (s.q a &&& s.q b))
def execQor (d a b : BitVec 5) (s : State) : Out := done (s.setQ d (s.q a ||| s.q b))
def execQxor (d a b : BitVec 5) (s : State) : Out := done (s.setQ d (s.q a ^^^ s.q b))
def execQnot (d a : BitVec 5) (s : State) : Out := done (s.setQ d (~~~(s.q a)))

/-- R252: the elements whose lowest-byte bit is 1, in ascending order. -/
def activeElements (q : Pred) (n : Nat) : List Nat := (List.range (lanes n)).filter fun i => activeLane q n i

def execQcnt (d a : BitVec 5) (e : BitVec 2) (s : State) : Out :=
  s.result d (BitVec.ofNat 64 (activeElements (s.q a) (2 ^ e.toNat)).length)
def execQfirst (d a : BitVec 5) (e : BitVec 2) (s : State) : Out :=
  s.result d (BitVec.ofNat 64 ((activeElements (s.q a) (2 ^ e.toNat)).headD (lanes (2 ^ e.toNat))))

/-! ### Moves and permutes (R253, R254) -/

/-- R246: an element size; 100 to 111 are refused. -/
def sizeLegal (e : BitVec 3) : Bool := e.toNat ≤ 3
def sizeBytes (e : BitVec 3) : Nat := 2 ^ e.toNat

/-- R254: bytes of one register where a predicate is 1, of another elsewhere. -/
def selectBytes (q : Pred) (x y : Vec) : Vec :=
  vecOfLanes 1 ((runLanes 1 q (fun e gen => plain e.x gen) 0 (laneIns (lanesOf 1 y) (lanesOf 1 x) (lanesOf 1 x)) 0).1)

/-- R254: `vmov`. -/
def vmovM (d a : BitVec 5) (q : BitVec 3) : M Unit := do
  writable d
  let pk ← peekStreams [a.toNat]
  modify fun s => (s.consume pk).writeV d (selectBytes (s.q q) (s.source pk a) (s.v d))

def execVmov (d a : BitVec 5) (q : BitVec 3) (s : State) : Out := runAdv (vmovM d a q) s

/-- R254: `vsel`. -/
def vselM (d a b : BitVec 5) (sel : BitVec 3) : M Unit := do
  writable d
  let pk ← peekStreams [a.toNat, b.toNat]
  modify fun s => (s.consume pk).writeV d (selectBytes (s.q sel) (s.source pk a) (s.source pk b))

def execVsel (d a b : BitVec 5) (sel : BitVec 3) (s : State) : Out := runAdv (vselM d a b sel) s

/-- R254, R244: new lanes for a destination, taken where active. -/
def mergeLanes (n : Nat) (q : Pred) (old new : List Nat) : List Nat :=
  (runLanes n q (fun e gen => plain e.x gen) 0 (laneIns old new new) 0).1

/-- R254: an instruction that makes its lanes from those of its sources. -/
def permOp (d : BitVec 5) (srcs : List (BitVec 5)) (q e : BitVec 3) (f : State → List (List Nat) → List Nat → List Nat) : M Unit := do
  check (sizeLegal e) 0x04
  let n := sizeBytes e
  writable d
  let pk ← peekStreams (srcs.map (·.toNat))
  let s ← get
  let old := lanesOf n (s.v d)
  let new := f s (srcs.map fun r => lanesOf n (s.source pk r)) old
  set ((s.consume pk).writeV d (vecOfLanes n (mergeLanes n (s.q q) old new)))

/-- The i-th of some lanes, 0 beyond. -/
def laneAt (l : List Nat) (i : Nat) : Nat := l.getD i 0

/-- Lanes built from their number. -/
def buildLanes (n : Nat) (f : Nat → Nat) : List Nat := (List.range (lanes n)).map f

def execVdup (d a : BitVec 5) (q e : BitVec 3) (s : State) : Out :=
  runAdv (permOp d [] q e fun s _ _ => buildLanes (sizeBytes e) fun _ => (s.g a).toNat % 2 ^ (8 * sizeBytes e)) s

/-- R254: `vget`. -/
def vgetM (d a b : BitVec 5) (e : BitVec 3) : M Unit := do
  check (sizeLegal e) 0x04
  let pk ← peekStreams [a.toNat]
  modify fun s => (s.consume pk).setG d
    (BitVec.ofNat 64 (if (s.g b).toNat < lanes (sizeBytes e) then laneAt (lanesOf (sizeBytes e) (s.source pk a)) (s.g b).toNat else 0))

def execVget (d a b : BitVec 5) (e : BitVec 3) (s : State) : Out := runAdv (vgetM d a b e) s

/-- R254: `vset`; vd is also a source. -/
def execVset (d a b : BitVec 5) (e : BitVec 3) (s : State) : Out :=
  runAdv (permOp d [] 0 e fun s _ old =>
    if (s.g b).toNat < old.length then old.set (s.g b).toNat ((s.g a).toNat % 2 ^ (8 * sizeBytes e)) else old) s

def execVperm (d a b : BitVec 5) (q e : BitVec 3) (s : State) : Out :=
  runAdv (permOp d [a, b] q e fun _ l _ =>
    (l.getD 1 []).map fun i => laneAt (l.getD 0 []) (i % lanes (sizeBytes e))) s

/-- R254: interleaving from lane `h` of both sources. -/
def zipLanes (n h : Nat) (l : List (List Nat)) : List Nat :=
  buildLanes n fun i => laneAt (l.getD (i % 2) []) (i / 2 + h)

def execVzipLo (d a b : BitVec 5) (q e : BitVec 3) (s : State) : Out :=
  runAdv (permOp d [a, b] q e fun _ l _ => zipLanes (sizeBytes e) 0 l) s
def execVzipHi (d a b : BitVec 5) (q e : BitVec 3) (s : State) : Out :=
  runAdv (permOp d [a, b] q e fun _ l _ => zipLanes (sizeBytes e) (lanes (sizeBytes e) / 2) l) s

/-- R254: every second lane of the concatenation. -/
def unzipLanes (n o : Nat) (l : List (List Nat)) : List Nat :=
  let c := l.getD 0 [] ++ l.getD 1 []
  buildLanes n fun i => laneAt c (2 * i + o)

def execVunzipEven (d a b : BitVec 5) (q e : BitVec 3) (s : State) : Out :=
  runAdv (permOp d [a, b] q e fun _ l _ => unzipLanes (sizeBytes e) 0 l) s
def execVunzipOdd (d a b : BitVec 5) (q e : BitVec 3) (s : State) : Out :=
  runAdv (permOp d [a, b] q e fun _ l _ => unzipLanes (sizeBytes e) 1 l) s

/-- R254: lane 2k ← va lane 2k + o, lane 2k + 1 ← vb lane 2k + o. -/
def trnLanes (n o : Nat) (l : List (List Nat)) : List Nat :=
  buildLanes n fun i => laneAt (l.getD (i % 2) []) (i / 2 * 2 + o)

def execVtrnEven (d a b : BitVec 5) (q e : BitVec 3) (s : State) : Out :=
  runAdv (permOp d [a, b] q e fun _ l _ => trnLanes (sizeBytes e) 0 l) s
def execVtrnOdd (d a b : BitVec 5) (q e : BitVec 3) (s : State) : Out :=
  runAdv (permOp d [a, b] q e fun _ l _ => trnLanes (sizeBytes e) 1 l) s

def execVslideUp (d a b : BitVec 5) (q e : BitVec 3) (s : State) : Out :=
  runAdv (permOp d [a] q e fun s l old =>
    buildLanes (sizeBytes e) fun i =>
      if (s.g b).toNat ≤ i then laneAt (l.getD 0 []) (i - (s.g b).toNat) else laneAt old i) s
def execVslideDn (d a b : BitVec 5) (q e : BitVec 3) (s : State) : Out :=
  runAdv (permOp d [a] q e fun s l _ =>
    buildLanes (sizeBytes e) fun i =>
      if i + (s.g b).toNat < lanes (sizeBytes e) then laneAt (l.getD 0 []) (i + (s.g b).toNat) else 0) s

/-- R254. -/
def execVwidth (d : BitVec 5) (e : BitVec 3) (s : State) : Out :=
  if sizeLegal e then s.result d (BitVec.ofNat 64 (lanes (sizeBytes e))) else trapOut s (illegal 0x04 s.word)

/-! ### Reductions (R194, R254) -/

/-- The flags and the generator that a reduction carries along. -/
abbrev Carry := BitVec 6 × BitVec 32

/-- R194: two codes combined under VFMT. -/
def State.combineV (s : State) (fm : Float.Fmt) (op : Nat) (c : Carry) (x y : Nat) : Nat × Carry :=
  let r := Float.combine fm s.inf8 s.vrm s.vsat op c.2 x y
  (r.1, c.1 ||| r.2.1, r.2.2)

/-- R194: one level of the tree: adjacent nodes combine, an absent child passes the other on. -/
def treeLevel (s : State) (fm : Float.Fmt) (op : Nat) : List (Option Nat) → Carry → List (Option Nat) × Carry
  | [], c => ([], c)
  | [x], c => ([x], c)
  | x :: y :: rest, c =>
    let (r, c) := match x, y with
      | some x, some y => (some (s.combineV fm op c x y).1, (s.combineV fm op c x y).2)
      | some x, none => (some x, c)
      | none, y => (y, c)
    let (t, c) := treeLevel s fm op rest c
    (r :: t, c)

/-- R194: the levels of the tree, at most eight. Under SR its nodes draw level by level, from the lowest lanes up: R187 orders lanes only
(log 105: DESIGN CHOICE). -/
def tree (s : State) (fm : Float.Fmt) (op : Nat) : Nat → List (Option Nat) → Carry → Option Nat × Carry
  | 0, l, c => (l.headD none, c)
  | n + 1, l, c =>
    let (l, c) := treeLevel s fm op l c
    tree s fm op n l c

/-- R254: `vsum`, `vmaxr`, `vminr`: 0 sum, 1 maximum, 2 minimum. -/
def reduceM (op : Nat) (d a f : BitVec 5) (q : BitVec 3) : M Unit := do
  match convFmt f with
  | none => badOperand 0x04
  | some fm => do
    let n := Float.fmtBytes f.toNat
    writable d
    let pk ← peekStreams [a.toNat]
    let s ← get
    let l := lanesOf n (s.source pk a)
    let nodes := (l.zip (List.range l.length)).map fun e => if activeLane (s.q q) n e.2 then some e.1 else none
    let (r, c) := tree s fm op 8 nodes (0, s.gen s.loc)
    let x := r.getD (Float.identity fm s.inf8 op)
    set ((((s.setGen s.loc c.2).raiseVF s.loc c.1).consume pk).writeV d (BitVec.ofNat 2048 (x % 2 ^ (8 * n))))

def execVsum (d a f : BitVec 5) (q : BitVec 3) (s : State) : Out := runAdv (reduceM 0 d a f q) s
def execVmaxr (d a f : BitVec 5) (q : BitVec 3) (s : State) : Out := runAdv (reduceM 1 d a f q) s
def execVminr (d a f : BitVec 5) (q : BitVec 3) (s : State) : Out := runAdv (reduceM 2 d a f q) s

/-- R194, R254: the running sums of the active lanes from `i` on. -/
def scanLanes (s : State) (fm : Float.Fmt) (n : Nat) (q : Pred) : Nat → List (Nat × Nat) → Option Nat → Carry → List Nat × Carry
  | _, [], _, c => ([], c)
  | i, (z, x) :: rest, acc, c =>
    if activeLane q n i then
      let (r, c) := match acc with
        | none => (x, c)
        | some y => s.combineV fm 0 c y x
      let (t, c) := scanLanes s fm n q (i + 1) rest (some r) c
      (r :: t, c)
    else
      let (t, c) := scanLanes s fm n q (i + 1) rest acc c
      (z :: t, c)

/-- R254: `vscan`. -/
def vscanM (d a f : BitVec 5) (q : BitVec 3) : M Unit := do
  match convFmt f with
  | none => badOperand 0x04
  | some fm => do
    let n := Float.fmtBytes f.toNat
    writable d
    let pk ← peekStreams [a.toNat]
    let s ← get
    let (l, c) := scanLanes s fm n (s.q q) 0 ((lanesOf n (s.v d)).zip (lanesOf n (s.source pk a))) none (0, s.gen s.loc)
    set ((((s.setGen s.loc c.2).raiseVF s.loc c.1).consume pk).writeV d (vecOfLanes n l))

def execVscan (d a f : BitVec 5) (q : BitVec 3) (s : State) : Out := runAdv (vscanM d a f q) s

end Sys2Proof.Machine
end

