-- ==== Sys2Proof/Machine/Memory.lean ====
section
/-! DEFINITION. Loads and stores (R268, R269), ordered accesses (R270, R271), atomics (R272, R273), `fence` (R274, R275) and waits
on classes (R276), vector memory (R255-R258), block moves and `rpt` (R285-R287). -/

namespace Sys2Proof.Machine

/-! ### Scalar loads and stores -/

/-- R200: md = 11 is refused. -/
def legalMode2 (m : BitVec 2) : Bool := m ≠ 3

/-- R269: a loaded value as its register takes it. -/
def loadedWord (n : Nat) (signed : Bool) (b : List Byte) : Word :=
  if signed then signExtend (8 * n) (BitVec.ofNat 64 (ofBytes b)) else BitVec.ofNat 64 (ofBytes b)

/-- R437: the size code of a scalar load of `n` bytes. -/
def loadCode (n : Nat) (signed : Bool) : Nat :=
  match n with
  | 1 => if signed then 1 else 0
  | 2 => if signed then 3 else 2
  | 4 => if signed then 5 else 4
  | _ => 6

/-- R269: a scalar load. -/
def loadM (n : Nat) (signed : Bool) (d : BitVec 5) (p : BitVec 3) (m : BitVec 2) (x : BitVec 3) (imm : BitVec 13) : M Unit := do
  check (legalMode2 m) 0x04
  let s ← get
  let (va, upd) := s.address p m imm n
  checkAligned .load va n
  let b ← load va n x.toNat (some ⟨d.toNat, 0, loadCode n signed, 0⟩) s.word
  updatePointer p upd
  modify fun s => s.setG d (loadedWord n signed b)

def execLdN8 (d : BitVec 5) (p : BitVec 3) (m : BitVec 2) (x : BitVec 3) (imm : BitVec 13) (s : State) : Out :=
  runCAdv (loadM 1 false d p m x imm) s
def execLdI8 (d : BitVec 5) (p : BitVec 3) (m : BitVec 2) (x : BitVec 3) (imm : BitVec 13) (s : State) : Out :=
  runCAdv (loadM 1 true d p m x imm) s
def execLdN16 (d : BitVec 5) (p : BitVec 3) (m : BitVec 2) (x : BitVec 3) (imm : BitVec 13) (s : State) : Out :=
  runCAdv (loadM 2 false d p m x imm) s
def execLdI16 (d : BitVec 5) (p : BitVec 3) (m : BitVec 2) (x : BitVec 3) (imm : BitVec 13) (s : State) : Out :=
  runCAdv (loadM 2 true d p m x imm) s
def execLdN32 (d : BitVec 5) (p : BitVec 3) (m : BitVec 2) (x : BitVec 3) (imm : BitVec 13) (s : State) : Out :=
  runCAdv (loadM 4 false d p m x imm) s
def execLdI32 (d : BitVec 5) (p : BitVec 3) (m : BitVec 2) (x : BitVec 3) (imm : BitVec 13) (s : State) : Out :=
  runCAdv (loadM 4 true d p m x imm) s
def execLdI64 (d : BitVec 5) (p : BitVec 3) (m : BitVec 2) (x : BitVec 3) (imm : BitVec 13) (s : State) : Out :=
  runCAdv (loadM 8 true d p m x imm) s

/-- R200: `ldp` and `stp` may not name the pointer that they update. -/
def pointerClash (d : BitVec 5) (p : BitVec 3) (m : BitVec 2) : Bool := (m = 1 || m = 2) && d.toNat % 8 = p.toNat

/-- R269: `ldp`; bytes 10-15 are ignored. -/
def ldpM (d : BitVec 5) (p : BitVec 3) (m : BitVec 2) (x : BitVec 3) (imm : BitVec 13) : M Unit := do
  check (legalMode2 m) 0x04
  check (!(pointerClash d p m)) 0x05
  let s ← get
  let (va, upd) := s.address p m imm 16
  checkAligned .load va 16
  let b ← load va 16 x.toNat (some ⟨d.toNat % 8, 1, 7, 0⟩) s.word
  updatePointer p upd
  modify fun s => s.setP d (BitVec.ofNat 80 (ofBytes b))

def execLdp (d : BitVec 5) (p : BitVec 3) (m : BitVec 2) (x : BitVec 3) (imm : BitVec 13) (s : State) : Out :=
  runCAdv (ldpM d p m x imm) s

/-- R269: a scalar store of bytes that the state before it gives. -/
def storeM (n : Nat) (data : State → List Byte) (p : BitVec 3) (m : BitVec 2) (x : BitVec 3) (imm : BitVec 13) : M Unit := do
  check (legalMode2 m) 0x04
  let s ← get
  let (va, upd) := s.address p m imm n
  checkAligned .store va n
  store va (data s) x.toNat
  updatePointer p upd

/-- R269: `stp`. -/
def stpM (d : BitVec 5) (p : BitVec 3) (m : BitVec 2) (x : BitVec 3) (imm : BitVec 13) : M Unit := do
  check (legalMode2 m) 0x04
  check (!(pointerClash d p m)) 0x05
  storeM 16 (fun s => toBytes 16 (s.p d).toNat) p m x imm

def execSt8 (d : BitVec 5) (p : BitVec 3) (m : BitVec 2) (x : BitVec 3) (imm : BitVec 13) (s : State) : Out :=
  runCAdv (storeM 1 (fun s => toBytes 1 (s.g d).toNat) p m x imm) s
def execSt16 (d : BitVec 5) (p : BitVec 3) (m : BitVec 2) (x : BitVec 3) (imm : BitVec 13) (s : State) : Out :=
  runCAdv (storeM 2 (fun s => toBytes 2 (s.g d).toNat) p m x imm) s
def execSt32 (d : BitVec 5) (p : BitVec 3) (m : BitVec 2) (x : BitVec 3) (imm : BitVec 13) (s : State) : Out :=
  runCAdv (storeM 4 (fun s => toBytes 4 (s.g d).toNat) p m x imm) s
def execSt64 (d : BitVec 5) (p : BitVec 3) (m : BitVec 2) (x : BitVec 3) (imm : BitVec 13) (s : State) : Out :=
  runCAdv (storeM 8 (fun s => toBytes 8 (s.g d).toNat) p m x imm) s
def execStp (d : BitVec 5) (p : BitVec 3) (m : BitVec 2) (x : BitVec 3) (imm : BitVec 13) (s : State) : Out :=
  runCAdv (stpM d p m x imm) s

/-! ### Ordered accesses (R270, R271) -/

/-- R37: a scope code. -/
def legalScope (sel : BitVec 3) : Bool := sel.toNat ≤ 5

/-- R88: module and domain scope. -/
def wideScope (sel : BitVec 3) : Bool := 4 ≤ sel.toNat

/-- R114, R116, R88: the writes on path C that an ordering instruction of a scope waits for: the messages to inboxes in its instance,
and at the wide scopes the posted stores. -/
def awaitScope (sel : BitVec 3) : M Unit := do
  if wideScope sel then awaitPosted
  awaitSends sel.toNat

/-- R271, R14: the alignment that `lda` and `stl` ask for; that of a message window comes first. -/
def checkOrdered (k : AccessKind) (va : Ptr) (n : Nat) : M Unit := do
  messageAligned va n
  checkNatural k va n 0x02

/-- R113: a release store of the thread that has been posted and not performed comes before a later `lda`; its home is another module, which
the instance of the edge has in it where both name the domain. -/
def awaitRelease (sel : BitVec 3) : M Unit := do
  let s ← get
  if sel = 5 && (s.posted s.thr.uid).any fun r => r.scope = some 5 then stall else pure ()

/-- R271: `lda`; the other accesses of a thread perform in program order at their homes, so its edges hold. -/
def ldaM (d a : BitVec 5) (sel z x : BitVec 3) : M Unit := do
  check (legalScope sel && z ≠ 7) 0x04
  let n := 2 ^ (z.toNat / 2)
  let signed := z.toNat % 2 = 1 || z = 6
  let s ← get
  let va := s.p a
  checkOrdered .load va n
  awaitRelease sel
  let b ← load va n x.toNat (some ⟨d.toNat, 0, loadCode n signed, 0⟩) s.word
  modify fun s => s.setG d (loadedWord n signed b)

def execLda (d a : BitVec 5) (sel z x : BitVec 3) (s : State) : Out := runCAdv (ldaM d a sel z x) s

/-- R113: what the thread has posted since a state is its release store of a scope. -/
def State.releases (t s : State) (sel : BitVec 3) : State :=
  { t with reqs := t.reqs.map fun r => if s.nextId ≤ r.id && r.uid = s.thr.uid && r.op = .write then { r with scope := some sel } else r }

/-- R271, R113, R88: `stl` waits for what its scope names: the messages sent, at the wide scopes the posted stores as well. -/
def stlM (a b : BitVec 5) (sel z x : BitVec 3) : M Unit := do
  check (legalScope sel && z.toNat ≤ 3) 0x04
  let n := 2 ^ z.toNat
  if (← get).thr.sent = 0 then awaitScope sel
  let s ← get
  let va := s.p a
  checkOrdered .store va n
  store va (toBytes n (s.g b).toNat) x.toNat
  modify fun t => t.releases s sel

def execStl (a b : BitVec 5) (sel z x : BitVec 3) (s : State) : Out := runCAdv (stlM a b sel z x) s

/-! ### Atomics (R272, R273) -/

/-- R273: the result of an atomic as its register takes it. -/
def atomicWord (op n old : Nat) : Word := if op = 4 || op = 5 then signExtend (8 * n) (BitVec.ofNat 64 old) else BitVec.ofNat 64 old

/-- R437: the size code of an atomic of 4 or 8 bytes. -/
def atomicCode (op n : Nat) : Nat := if n = 8 then 6 else if op = 4 || op = 5 then 5 else 4

/-- R272: the sizes that an operation takes. -/
def atomicSize (z : BitVec 2) : Bool := z.toNat ≤ 1

/-- R273: an atomic of 4 or 8 bytes by its operation code. -/
def amoM (op : Nat) (d a b : BitVec 5) (z : BitVec 2) (x : BitVec 3) : M Unit := do
  check (atomicSize z) 0x04
  let n := if z = 1 then 8 else 4
  let s ← get
  let y : BitVec 128 := BitVec.ofNat 128 ((s.g b).toNat % 2 ^ (8 * n))
  let cmp : BitVec 128 := if op = 9 then BitVec.ofNat 128 ((s.g d).toNat % 2 ^ (8 * n)) else 0
  let (old, f) ← atomic (s.p a) n x.toNat op y cmp ⟨d.toNat, 0, atomicCode op n, 0⟩ s.word
  raiseF f
  modify fun s => s.setG d (atomicWord op n old)

def execAmoAdd (d a b : BitVec 5) (z : BitVec 2) (x : BitVec 3) (s : State) : Out := runCAdv (amoM 0x0 d a b z x) s
def execAmoAnd (d a b : BitVec 5) (z : BitVec 2) (x : BitVec 3) (s : State) : Out := runCAdv (amoM 0x1 d a b z x) s
def execAmoOr (d a b : BitVec 5) (z : BitVec 2) (x : BitVec 3) (s : State) : Out := runCAdv (amoM 0x2 d a b z x) s
def execAmoXor (d a b : BitVec 5) (z : BitVec 2) (x : BitVec 3) (s : State) : Out := runCAdv (amoM 0x3 d a b z x) s
def execAmoMin (d a b : BitVec 5) (z : BitVec 2) (x : BitVec 3) (s : State) : Out := runCAdv (amoM 0x4 d a b z x) s
def execAmoMax (d a b : BitVec 5) (z : BitVec 2) (x : BitVec 3) (s : State) : Out := runCAdv (amoM 0x5 d a b z x) s
def execAmoMinn (d a b : BitVec 5) (z : BitVec 2) (x : BitVec 3) (s : State) : Out := runCAdv (amoM 0x6 d a b z x) s
def execAmoMaxn (d a b : BitVec 5) (z : BitVec 2) (x : BitVec 3) (s : State) : Out := runCAdv (amoM 0x7 d a b z x) s
def execAmoSwap (d a b : BitVec 5) (z : BitVec 2) (x : BitVec 3) (s : State) : Out := runCAdv (amoM 0x8 d a b z x) s
def execCas (d a b : BitVec 5) (z : BitVec 2) (x : BitVec 3) (s : State) : Out := runCAdv (amoM 0x9 d a b z x) s
def execFamoAdd (d a b : BitVec 5) (z : BitVec 2) (x : BitVec 3) (s : State) : Out := runCAdv (amoM 0xB d a b z x) s

/-- R273: the pair of registers at an even number. -/
def State.pair (s : State) (r : BitVec 5) : BitVec 128 := BitVec.ofNat 128 ((s.g r).toNat + 2 ^ 64 * (s.g (r + 1)).toNat)

/-- R273: `cas2`. -/
def cas2M (d a b : BitVec 5) (x : BitVec 3) : M Unit := do
  check (d.toNat % 2 = 0 && b.toNat % 2 = 0) 0x05
  let s ← get
  let (old, _) ← atomic (s.p a) 16 x.toNat 0xA (s.pair b) (s.pair d) ⟨d.toNat, 0, 8, 1⟩ s.word
  modify fun s => (s.setG d (BitVec.ofNat 64 old)).setG (d + 1) (BitVec.ofNat 64 (old / 2 ^ 64))

def execCas2 (d a b : BitVec 5) (x : BitVec 3) (s : State) : Out := runCAdv (cas2M d a b x) s

/-! ### Fences and waits (R274-R276) -/

/-- R275, R114, R88: earlier accesses on path C have performed at their homes, but for posted stores, which the wide scopes
wait for, and for messages sent, which a fence of writes waits for. -/
def fenceM (sel : BitVec 3) (p q : BitVec 2) : M Unit := do
  check (legalScope sel && p ≠ 0 && q ≠ 0) 0x04
  if wideScope sel then awaitPosted
  if p ≠ 1 then awaitSends sel.toNat

def execFence (sel : BitVec 3) (p q : BitVec 2) (s : State) : Out := runAdv (fenceM sel p q) s

/-- R276: the reads of a thread have been taken when it issues again; its posted stores, its messages, and its commands by class, may
be outstanding. -/
def waitM (st cp tl mx : Nat) : M Unit := do
  let s ← get
  let t := s.thr
  if decide ((s.posted t.uid).length + (s.unsent t.uid).length ≤ st) && decide (t.outstanding .cp ≤ cp) && decide (t.outstanding .tl ≤ tl) &&
      decide (t.outstanding .mx ≤ mx) then pure ()
  else stall

def execWait (l sel : BitVec 6) (c t : BitVec 5) (m : BitVec 4) (s : State) : Out :=
  let _ld := l
  runAdv (waitM sel.toNat c.toNat t.toNat m.toNat) s

/-! ### Vector memory (R255-R258) -/

/-- R255: `vld`. -/
def vldM (d : BitVec 5) (p : BitVec 3) (m : BitVec 2) (x : BitVec 3) (imm : BitVec 13) : M Unit := do
  check (legalMode2 m) 0x04
  writable d
  let s ← get
  let (va, upd) := s.address p m imm 256
  let b ← load va 256 x.toNat (some ⟨d.toNat, 2, 9, 0⟩) s.word
  updatePointer p upd
  modify fun s => s.writeV d (vecOfBytes b)

def execVld (d : BitVec 5) (p : BitVec 3) (m : BitVec 2) (x : BitVec 3) (imm : BitVec 13) (s : State) : Out :=
  runCAdv (vldM d p m x imm) s

/-- R255: `vst`. -/
def vstM (d : BitVec 5) (p : BitVec 3) (m : BitVec 2) (x : BitVec 3) (imm : BitVec 13) : M Unit := do
  check (legalMode2 m) 0x04
  let pk ← peekStreams [d.toNat]
  let s ← get
  let (va, upd) := s.address p m imm 256
  storePlain va (vecBytes (s.source pk d)) x.toNat
  updatePointer p upd
  modify fun s => s.consume pk

def execVst (d : BitVec 5) (p : BitVec 3) (m : BitVec 2) (x : BitVec 3) (imm : BitVec 13) (s : State) : Out :=
  runCAdv (vstM d p m x imm) s

/-- R257: the address of a lane: indexed by an element, or strided. -/
def indexedAt (base : Ptr) (n e : Nat) : Ptr := addPtr base (sextInt (8 * n) e * n)
def stridedAt (base : Ptr) (stride : Word) (i : Nat) : Ptr := addPtr base (i * stride.toInt)

/-- R104, R105, R258: an indexed, strided or transposing access of elements of `n` bytes is checked before any byte moves where the
context asks for alignment: its elements, then its own address; one without an active element makes no access (log 89). -/
def checkElems (k : AccessKind) (base : Ptr) (n : Nat) (elems : List Ptr) : M Unit := do
  if elems.isEmpty then pure () else (elems ++ [base]).forM fun va => checkAligned k va n

/-- Bytes laid into others from a place on. -/
def placeBytes (old : List Byte) (at_ : Nat) (data : List Byte) : List Byte := old.take at_ ++ data ++ old.drop (at_ + data.length)

/-- Elements laid into a group of registers, each byte at its lane. -/
def placeParts (old : List Byte) (parts : List Part) : List Byte := parts.foldl (fun b p => placeBytes b p.lane p.data) old

/-- R257, R258: a load of elements from a base into a group of registers from `d`: nothing is written unless every element
succeeds. -/
def gather (d : BitVec 5) (regs n : Nat) (x : Nat) (base : Ptr) (elems : Elems) : M Unit := do
  gate .c
  checkElems .load base n (elems.map (·.1))
  let s ← get
  let parts ← coreRead s.coreWho x elems (some ⟨d.toNat, 2, 0xA + Nat.log2 n, regs - 1⟩) s.word
  modify fun s =>
    let old := (List.range regs).flatMap fun j => vecBytes (s.v (d + BitVec.ofNat 5 j))
    let new := placeParts old parts
    iterate (fun j s => s.writeV (d + BitVec.ofNat 5 j) (vecOfBytes ((new.drop (256 * j)).take 256))) regs 0 s

/-- The active lanes with their addresses. -/
def laneElems (q : Pred) (n : Nat) (at_ : Nat → Ptr) : Elems :=
  (activeElements q n).map fun i => (at_ i, n, n * i)

/-- R257: the elements of the indexed, strided and transposing forms. -/
def indexedElems (q : Pred) (n : Nat) (base : Ptr) (idx : List Nat) : Elems := laneElems q n fun i => indexedAt base n (laneAt idx i)
def stridedElems (q : Pred) (n : Nat) (base : Ptr) (stride : Word) : Elems := laneElems q n fun i => stridedAt base stride i
def transposedElems (q : Pred) (n : Nat) (base : Ptr) (stride : Word) : Elems :=
  (activeElements q n).flatMap fun i => (List.range 8).map fun j => (stridedAt base stride i + BitVec.ofNat 80 (j * n), n, 256 * j + n * i)

/-- R257: `vldx`. -/
def vldxM (d a b : BitVec 5) (q : BitVec 3) (z : BitVec 2) (x : BitVec 3) : M Unit := do
  let n := 2 ^ z.toNat
  writable d
  let pk ← peekStreams [b.toNat]
  let s ← get
  let idx := lanesOf n (s.source pk b)
  gather d 1 n x.toNat (s.p a) (indexedElems (s.q q) n (s.p a) idx)
  modify fun s => s.consume pk

def execVldx (d a b : BitVec 5) (q : BitVec 3) (z : BitVec 2) (x : BitVec 3) (s : State) : Out := runCAdv (vldxM d a b q z x) s

/-- R257: `vldw`. -/
def vldwM (d a b : BitVec 5) (q : BitVec 3) (z : BitVec 2) (x : BitVec 3) : M Unit := do
  let n := 2 ^ z.toNat
  writable d
  let s ← get
  gather d 1 n x.toNat (s.p a) (stridedElems (s.q q) n (s.p a) (s.g b))

def execVldw (d a b : BitVec 5) (q : BitVec 3) (z : BitVec 2) (x : BitVec 3) (s : State) : Out := runCAdv (vldwM d a b q z x) s

/-- R256: the registers of a transposing load may be written. -/
def groupWritable (d : BitVec 5) : M Unit := do
  check (d.toNat % 8 = 0) 0x05
  forUpTo (fun j => writable (d + BitVec.ofNat 5 j)) 8 0

/-- R257: `vldt`, the address form. -/
def vldtM (d a b : BitVec 5) (q : BitVec 3) (z : BitVec 2) (x : BitVec 3) : M Unit := do
  let n := 2 ^ z.toNat
  groupWritable d
  let s ← get
  gather d 8 n x.toNat (s.p a) (transposedElems (s.q q) n (s.p a) (s.g b))

def execVldt (d a b : BitVec 5) (q : BitVec 3) (z : BitVec 2) (x : BitVec 3) (s : State) : Out := runCAdv (vldtM d a b q z x) s

/-- The tile elements of one lane that lie in the tile, read in order. -/
def tileRow (w : Who) (t : Word × Word) (n row col : Nat) : Nat → Nat → M (List (Option (List Byte)))
  | 0, _ => pure []
  | k + 1, j => do
    let e ← if row < tileRows t && col + j < tileCols t then
        some <$> tileRead w w.loc t (tileBase t + row * tilePitch t + (col + j) * n) n
      else pure none
    let rest ← tileRow w t n row col k (j + 1)
    pure (e :: rest)

/-- R257: `vldt`, the tile form. -/
def vldtTileM (d a b : BitVec 5) (q : BitVec 3) (z : BitVec 2) : M Unit := do
  let n := 2 ^ z.toNat
  groupWritable d
  let t ← definedTile a.toNat
  check (Float.fmtBytes (tileFmt t) = n) 0x05
  let t ← readyTile a.toNat
  gate .c
  let s ← get
  let col := (s.g b).toNat
  let rows ← (activeElements (s.q q) n).mapM fun i => do
    let l ← tileRow s.coreWho t n i col 8 0
    pure (i, l)
  modify fun s =>
    iterate (fun j s =>
      let r := d + BitVec.ofNat 5 j
      let parts := rows.filterMap fun e => ((e.2.getD j none).map fun b => Part.here 0 0 (n * e.1) b)
      s.writeV r (vecOfBytes (placeParts (vecBytes (s.v r)) parts))) 8 0 s

def execVldtTile (d a b : BitVec 5) (q : BitVec 3) (z : BitVec 2) (s : State) : Out := runCAdv (vldtTileM d a b q z) s

/-- R258: a fault of an element names its first byte. -/
def elementFault {α : Type} (va : Ptr) (m : M α) : M α := do
  match ← attempt m with
  | .ok x => pure x
  | .error (.trap i) => raise { i with value := va }
  | .error e => throw e

/-- R258: every piece of an element is translated and checked before the element is sent. -/
def probeElement (va : Ptr) (n x : Nat) : M Unit := do
  let w := (← get).coreWho
  forPieces w .store va x n (fun p => do
    let s ← get
    if p.parts.any fun e => !(kindReach w.path w.eth (paKind e.1)) then raise (accessTrap 0x09 0 0 p.va)
    if p.parts.all fun e => paModule e.1 = locModule s.loc then checkPiece w p else pure ()) n 0

/-- R258: elements stored in ascending lane order. -/
def storeElems (x : Nat) : List (Ptr × List Byte) → M Unit
  | [] => pure ()
  | (va, b) :: rest => do
    elementFault va (do
      if !(isMessageWindow va) then probeElement va b.length x
      storePlain va b x)
    storeElems x rest

/-- R257, R258: a store of elements of `n` bytes to a base. -/
def scatter (n x : Nat) (base : Ptr) (elems : List (Ptr × List Byte)) : M Unit := do
  checkElems .store base n (elems.map (·.1))
  storeElems x elems

/-- R257: `vstx`. -/
def vstxM (d a b : BitVec 5) (q : BitVec 3) (z : BitVec 2) (x : BitVec 3) : M Unit := do
  let n := 2 ^ z.toNat
  let pk ← peekStreams [d.toNat, b.toNat]
  let s ← get
  let idx := lanesOf n (s.source pk b)
  let v := lanesOf n (s.source pk d)
  scatter n x.toNat (s.p a) ((activeElements (s.q q) n).map fun i => (indexedAt (s.p a) n (laneAt idx i), toBytes n (laneAt v i)))
  modify fun s => s.consume pk

def execVstx (d a b : BitVec 5) (q : BitVec 3) (z : BitVec 2) (x : BitVec 3) (s : State) : Out := runCAdv (vstxM d a b q z x) s

/-- R257: `vstw`. -/
def vstwM (d a b : BitVec 5) (q : BitVec 3) (z : BitVec 2) (x : BitVec 3) : M Unit := do
  let n := 2 ^ z.toNat
  let pk ← peekStreams [d.toNat]
  let s ← get
  let v := lanesOf n (s.source pk d)
  scatter n x.toNat (s.p a) ((activeElements (s.q q) n).map fun i => (stridedAt (s.p a) (s.g b) i, toBytes n (laneAt v i)))
  modify fun s => s.consume pk

def execVstw (d a b : BitVec 5) (q : BitVec 3) (z : BitVec 2) (x : BitVec 3) (s : State) : Out := runCAdv (vstwM d a b q z x) s

/-! ### Block move and repeat (R285-R287) -/

/-- R286: the length of the next piece: no 64-byte boundary of the addresses given lies within. -/
def pieceLength (n : Nat) (ends : List Ptr) : Nat := ends.foldl (fun m a => min m (64 - a.toNat % 64)) n

/-- R286: a piece is done: the registers show the progress, and the instruction goes on with the next piece or ends. -/
def pieceDone (b : BitVec 5) (m : Nat) : M Unit := modify fun s =>
  let s := s.setG b (s.g b - BitVec.ofNat 64 m)
  if s.g b = 0 then s.adv else s.held

/-- R286: one piece of `bmov`. -/
def bmovM (d a b : BitVec 5) : M Unit := do
  let s ← get
  if s.g b = 0 then modify State.adv
  else do
    let m := pieceLength (s.g b).toNat [s.p d, s.p a]
    if isMessageWindow (s.p d) then raise (accessTrap 0x09 0x14 0 (s.p d))
    let data ← load (s.p a) m 0 none s.word
    storePlain (s.p d) data 0
    modify fun t => (t.setP d (s.p d + BitVec.ofNat 80 m)).setP a (s.p a + BitVec.ofNat 80 m)
    pieceDone b m

def execBmov (d a b : BitVec 5) (s : State) : Out := runC (bmovM d a b) s

/-- R286: one piece of `bset`. -/
def bsetM (d a b : BitVec 5) : M Unit := do
  let s ← get
  if s.g b = 0 then modify State.adv
  else do
    let m := pieceLength (s.g b).toNat [s.p d]
    storePlain (s.p d) (fillBytes (s.p d) (s.g a) m) 0
    modify fun t => t.setP d (s.p d + BitVec.ofNat 80 m)
    pieceDone b m

def execBset (d a b : BitVec 5) (s : State) : Out := runC (bsetM d a b) s

/-- R287, R378: `rpt`: the body is noted in STATUS; a count of zero skips it. -/
def rptM (a k : BitVec 5) : M Unit := do
  check (k ≠ 0) 0x04
  check (!(← get).inh) 0x05
  outsideBody
  modify fun s =>
    if s.g a = 0 then s.setPc (s.pc + BitVec.ofNat 16 (4 * (k.toNat + 1)))
    else
      let st := s.thr.status
      let st := setBits (setBits (setBits st 31 27 a.toNat) 26 22 k.toNat) 21 8 ((s.pc.toNat + 4) / 4)
      (s.mapThr fun t => { t with status := st }).setPc s.next

def execRpt (a k : BitVec 5) (s : State) : Out := runM (rptM a k) s

end Sys2Proof.Machine
end

