-- ==== Sys2Proof/Machine/Messages.lean ====
section
/-! DEFINITION. Active messages (R333-R335), `spawn`, `tid` and `done` (R300-R302). -/

namespace Sys2Proof.Machine

/-- R154, R300, R334: the core that a register names; kinds 10 and 11 and an absent core trap ACCESS. No address is stated for
the trap: it is a free value (log 18). -/
def namedCore (w : Word) : M Loc := do
  let s ← get
  let l := bits w 25 0
  if locKind l ≤ 1 && s.coreThere l then pure l
  else do
    let (v, s) := s.freeWord
    set s
    raise (trapInfo 0x09 0 (v.zeroExtend 80))

/-- R162, R334: the identifier of a rank as its placement entry has it. -/
def rankGtid (team : BitVec 32) (rank : BitVec 20) (epoch : Nat) : Word :=
  BitVec.ofNat 64 (team.toNat * 2 ^ 32 + rank.toNat * 2 ^ 12 + epoch % 2 ^ 12)

def teamOf (gtid : Word) : BitVec 32 := BitVec.ofNat 32 (bits gtid 63 32)
def rankOf (gtid : Word) : BitVec 20 := BitVec.ofNat 20 (bits gtid 31 12)

/-- A message for a rank, addressed as a placement entry says. -/
def Msg.toEntry (m : Msg) (team : BitVec 32) (rank : BitVec 20) (e : Word) : Msg :=
  { m with
    target := entryLoc e
    gtid := rankGtid team rank (entryEpoch e)
    rank := some (team, rank)
    region := some (entryRegion e) }

/-- R334: a message with a header and payload goes to the destination that a register names. -/
def sendTo (dest head : Word) (chan : Nat) (payload : List Word) : M Unit := do
  gate .c
  let s ← get
  let t := s.thr
  let h := headerOf (bits head 11 0) (bits head 39 22) (s.sendChannel chan) (srcOf s.loc) (locKind s.loc)
  if bit dest 63 then do
    let team := teamOf t.gtid
    let rank : BitVec 20 := BitVec.ofNat 20 (bits dest 19 0)
    match ← placement s.loc team rank with
    | none => sendFailed none
    | some e =>
      let m := (message 0 h payload 0 t.ctxid).toEntry team rank e
      match entryState e with
      | 1 => sendMessage m none false
      | 2 => sendMessage m none true
      | _ => sendFailed none
  else do
    let l ← namedCore dest
    sendMessage (message l h payload t.gtid t.ctxid) none false

/-- `n` general registers from one on. -/
def State.gRun (s : State) (r n : Nat) : List Word := (List.range n).map fun i => s.g (BitVec.ofNat 5 (r + i))

/-- R334. -/
def execSnd (a b : BitVec 5) (c : BitVec 3) (p : BitVec 5) (s : State) : Out :=
  runCAdv (do
    check (decide (p.toNat ≤ 25)) 0x04
    let s ← get
    sendTo (s.g a) (s.g b) c.toNat (s.gRun p.toNat 7)) s

/-- R334: bytes 0-55 of the vector register. -/
def execSndv (a b : BitVec 5) (c : BitVec 3) (h : BitVec 5) (s : State) : Out :=
  runCAdv (do
    let pk ← peekStreams [b.toNat]
    let s ← get
    let x := s.source pk b
    sendTo (s.g a) (s.g h) c.toNat ((List.range 7).map fun i => BitVec.ofNat 64 (lane x 8 i))
    modify fun s => s.consume pk) s

/-- The header of a message image. -/
def imageHeader (b : List Byte) : Word := BitVec.ofNat 64 (leAt b 0 8)

/-- R335: a message image of 80 bytes, as a loop-back message. One that is held for a member of an alloy keeps the LOOP with which it
first arrived, for its move (R394, R396). -/
def loopMessage (b : List Byte) (now : Nat) : InMsg where
  header := setBits (imageHeader b) 19 19 1
  payload := (List.range 7).map fun i => BitVec.ofNat 64 (leAt b (8 + 8 * i) 8)
  gtid := BitVec.ofNat 64 (leAt b 64 8)
  ctx := BitVec.ofNat 16 (leAt b 72 2)
  born := now
  age := 0
  diverted := false
  loop := membOf (imageHeader b) = 0 || bit (imageHeader b) 19
  chan0 := chanOf (imageHeader b)
  region := none
  rank := none
  ni := bits (imageHeader b) 63 44
  via := none

/-- R335: it stalls while 64 messages are queued. -/
def execLbk (a : BitVec 5) (s : State) : Out :=
  if s.user then trapOut s privTrap
  else runCAdv (do
    let b ← readBefore (s.p a) 80 s.word
    let s ← get
    match s.arrive s.loc (loopMessage b s.now) with
    | some s => set s
    | none => stall) s

/-- R300. -/
def execSpawn (a b : BitVec 5) (s : State) : Out :=
  runCAdv (do
    gate .c
    let s ← get
    let t := s.thr
    let l ← namedCore (s.g a)
    sendMessage (message l (headerOf (bits (s.g b) 11 0) (bits (s.g b) 29 12) t.prio.toNat (srcOf s.loc) (locKind s.loc))
      (s.gRun 2 7) t.gtid t.ctxid) none false) s

/-- R301: the field of a selector, none for one that is not assigned. -/
def State.identity (s : State) (sel : BitVec 3) : Option Word :=
  let g := s.thr.gtid
  match sel with
  | 0#3 => some (BitVec.ofNat 64 (bits g 31 12))
  | 1#3 => some (BitVec.ofNat 64 (bits g 63 32))
  | 2#3 => some (BitVec.ofNat 64 (bits g 11 0))
  | 3#3 => some (BitVec.ofNat 64 (srcOf s.loc))
  | 4#3 => some (BitVec.ofNat 64 s.slotNo)
  | _ => none

def execTid (a : BitVec 5) (sel : BitVec 3) (s : State) : Out :=
  match s.identity sel with
  | some x => s.result a x
  | none => trapOut s (illegal 0x04 s.word)

/-- R302, R287: an alloy parts first. -/
def execDone (s : State) : Out :=
  runC (do
    outsideBody
    modify fun s => s.partAlloy s.loc s.slotNo 4
    awaitPosted
    if !((← get).thr.opens.isEmpty) then stall
    modify fun s => s.endTask s.loc s.slotNo) s

end Sys2Proof.Machine
end

