-- ==== Sys2Proof/Machine/Groups.lean ====
section
/-! DEFINITION. `join`, `leave` and `gbar` (R297-R299). -/

namespace Sys2Proof.Machine

/-- R298: the group object that a register names: aligned to 64, checked as an atomic on path C is. -/
def groupPiece (b : BitVec 5) : M Piece := do
  let s ← get
  let va := s.p b
  messageAligned va 64
  checkNatural .atomic va 64 0x01
  gate .c
  piece (← get).coreWho .atomic va 0 64 0

/-- The physical address of the object of a piece. -/
def Piece.pa (p : Piece) : Nat := (p.parts.headD (0, 0, 0)).1

/-- R298, R299: what a group operation does to the object at its home in this module: the object after it, what it returns and
whether a generation completed. -/
def groupAtomic {α : Type} (p : Piece) (f : Group → Except Nat (Group × α × Bool)) : M α := do
  let w := (← get).coreWho
  checkPiece w p
  if p.inRegisters then raise (accessTrap 0x09 0 0 p.va)
  let s ← get
  let o := s.groupAt p.slot p.pa
  match f o with
  | .error n => badOperand n
  | .ok (o', a, ends) => do
    let s := s.putGroup w.loc p.slot p.pa o'
    set (if ends then s.releaseArrivals p.pa o.gen else s)
    pure a

/-- R298: a group operation on an object in this module, or in another, where it parks or stalls. -/
def groupOp {α : Type} (b : BitVec 5) (op : ReqOp) (dest : Dest) (f : Group → Except Nat (Group × α × Bool)) (ofReply : Req → α) :
    M α := do
  let p ← groupPiece b
  let s ← get
  if !(kindReach .c false (paKind p.pa)) then raise (accessTrap 0x09 0 0 p.va)
  if paModule p.pa = locModule s.loc then groupAtomic p f
  else do
    let r ← awaitRequest op p.slot (transactions p.va 0 64 p.pa 64) (some dest) s.word
    pure (ofReply r)

/-- R298. -/
def joinM (a b : BitVec 5) (sel : BitVec 3) : M Unit := do
  check (legalScope sel) 0x04
  let team := teamOf (← get).thr.gtid
  let g ← groupOp b (.join sel team) ⟨a.toNat, 0, 4, 0⟩ (fun o => (o.join sel team).map fun r => (r.1, r.2, false))
    (fun r => BitVec.ofNat 32 (ofBytes (partBytes r.parts)))
  modify fun s => s.setG a (g.zeroExtend 64)

def execJoin (a b : BitVec 5) (sel : BitVec 3) (s : State) : Out := runCAdv (joinM a b sel) s

/-- R298. -/
def leaveM (b : BitVec 5) : M Unit :=
  groupOp b .leave ⟨0, 0, 14, 0⟩ (fun o => o.leave.map fun r => (r.1, (), r.2)) (fun _ => ())

def execLeave (b : BitVec 5) (s : State) : Out := runCAdv (leaveM b) s

/-- R299: the arrival at an object in this module: the thread stalls until its generation completes. -/
def gbarArrive (p : Piece) (scope : BitVec 3) : M Unit := do
  let (g, ends) ← groupAtomic p fun o => o.arrive.map fun r => (r.1, (r.2.1, r.2.2), r.2.2)
  if !ends then
    modify fun s => s.mapThr fun t => { t with gbarWait := some ⟨p.pa, p.slot, g, scope, false⟩ }
    stall

/-- R299: SCOPE, read by a path C read before anything else happens; a turn that finds it read already uses what was read. -/
def gbarScope (va : Ptr) : M (BitVec 3) := do
  match (← get).thr.gbarScope with
  | some x => pure (x.truncate 3)
  | none => do
    messageAligned va 64
    checkNatural .atomic va 64 0x01
    let x ← readBefore (va + 16) 1 (← get).word
    let code := leAt x 0 1
    check (decide (code ≤ 5)) 0x06
    modify fun s => s.mapThr fun t => { t with gbarScope := some (BitVec.ofNat 8 code) }
    pure (BitVec.ofNat 3 code)

/-- R299: the scope is read first, the release waits as a fence of that scope does, then the thread arrives. -/
def gbarM (b : BitVec 5) : M Unit := do
  match (← get).thr.gbarWait with
  | some w =>
    if w.released then modify fun s => s.mapThr fun t => { t with gbarWait := none, gbarScope := none }
    else stall
  | none => do
    let scope ← gbarScope ((← get).p b)
    if wideScope scope then awaitPosted
    awaitSends scope.toNat
    let p ← groupPiece b
    let s ← get
    if !(kindReach .c false (paKind p.pa)) then raise (accessTrap 0x09 0 0 p.va)
    if paModule p.pa = locModule s.loc then gbarArrive p scope
    else do
      let _ ← awaitRequest (.gbar 0) p.slot (transactions p.va 0 64 p.pa 64) (some ⟨0, 0, 14, 0⟩) s.word
      pure ()
    modify fun s => s.mapThr fun t => { t with gbarScope := none }

/-- A `gbar` that traps is done with the scope that it read. -/
def State.endGbar (s : State) : State := s.mapThr fun t => { t with gbarScope := none }

def execGbar (b : BitVec 5) (s : State) : Out :=
  runCAdv (do
    match ← attempt (gbarM b) with
    | .ok _ => pure ()
    | .error (.trap i) => do
      modify State.endGbar
      raise i
    | .error e => throw e) s

end Sys2Proof.Machine
end

