-- ==== Sys2Proof/Machine/Remote.lean ====
section
/-! DEFINITION. Requests to other modules on their way: sent (R79), performed at the home (R74-R78, R298, R299), answered (R83,
R84, R169, R437) or timed out (R82), and posted stores acknowledged (R86, R87). -/

namespace Sys2Proof.Machine

/-- The end of a step that no thread issues: the state that it reached; one that must wait changes nothing, and is made again. -/
def runEvent (m : M Unit) (s : State) : Out :=
  match m.run s with
  | .ok _ s => .next s
  | .error .stall _ => .next s
  | .error _ s => .next s

/-- R410: the same for a step that nothing else brings about again: one that a reconfiguration holds is made again. -/
def runHeld (e : Event) (m : M Unit) (s : State) : Out :=
  match m.run s with
  | .ok _ s => .next s
  | .error .stall _ => .next (s.push e)
  | .error _ s => .next s

def State.req (s : State) (id : Nat) : Option Req := s.reqs.find? fun r => r.id = id
def State.mapReq (s : State) (id : Nat) (f : Req → Req) : State :=
  { s with reqs := s.reqs.map fun r => if r.id = id then f r else r }

/-! ### Sending -/

/-- R82: a part whose target the routing tables mark unreachable is not sent. -/
def State.sendPart (s : State) (l : Loc) (p : Part) : Part :=
  if s.cutOff (locModule l) (paModule p.pa) || !(s.member (paModule p.pa)) then { p with done := true, outcome := some 0 } else p

/-- R410: a target of the request is reached through a link that a reconfiguration holds. -/
def State.requestHeld (s : State) (r : Req) : Bool := r.parts.any fun p => s.routeFrozen (locModule r.loc) (paModule p.pa)

/-- R111, R124: the request waits for an earlier one of its thread that has not been acknowledged. -/
def State.requestBehind (s : State) (r : Req) : Bool :=
  s.reqs.any fun x => x.uid = r.uid && decide (x.id < r.id) && (x.op = .write || !x.performed) &&
    r.parts.any fun p => x.parts.any fun q => placesOrdered p.pa q.pa

/-- The modules that a request's transactions go to, with the bytes that they carry there. -/
def Req.targets (r : Req) : List (Nat × Nat) :=
  let live := r.parts.filter fun p => p.outcome.isNone
  ((live.map fun p => paModule p.pa).eraseDups).map fun m => (m, ((live.filter fun p => paModule p.pa = m).map fun p => p.data.length).sum)

/-- R79, R410, R124: the NI sends a request; while a reconfiguration holds its route, or an earlier one goes first, the request waits at the
sender. -/
def execRemoteRequest (req : Nat) (s : State) : Out :=
  match s.req req with
  | none => .next s
  | some r =>
    if r.sent || s.requestHeld r || s.requestBehind r then .next s
    else
      let r := { r with sent := true, since := s.now, parts := r.parts.map (s.sendPart r.loc) }
      let s := s.mapReq req fun _ => r
      let s := r.targets.foldl (fun s t => s.sendPacket (locModule r.loc) t.1 t.2) s
      .next (s.push (.homePerform req))

/-! ### At the home -/

/-- R82: how a target refuses. -/
def refusalCode : Nat × Nat → BitVec 8
  | (0x07, _) => 3
  | (_, 0x10) => 4
  | _ => 2

/-- A part that failed. -/
def Part.fail (p : Part) (o : BitVec 8) : Part := { p with done := true, outcome := some o }

/-- What a request's operation does at one home, after its checks; a part of an access to registers that transactions cut is none that a register
takes, and writes no byte (R207, R436): the part with its data, the operation as it then stands, the
refusal and the flags. -/
def performPart (r : Req) (p : Part) : M (Part × ReqOp × Option (BitVec 8) × BitVec 6) := do
  let s ← get
  let kind2 := paKind p.pa = 2
  let ok := fun (p : Part) => ({ p with done := true } : Part)
  match r.op with
  | .read =>
    if kind2 then
      match if p.size = p.len then s.regRead r.loc r.user p.pa p.len else .error (0x09, 0) with
      | .ok x => pure (ok { p with data := toBytes p.len x }, r.op, none, 0)
      | .error _ => pure (p.fail 2, r.op, none, 0)
    else do
      let (b, s) := s.homeRead (some r.loc) r.key p.pa p.len
      set s
      pure (ok { p with data := b }, r.op, none, 0)
  | .write =>
    if kind2 then do
      if p.size = p.len then
        match ← attempt (regWrite r.loc r.user p.va p.pa p.len (BitVec.ofNat 64 (ofBytes p.data))) with
        | .ok _ => pure (ok p, r.op, none, 0)
        | .error _ => pure (p.fail 2, r.op, none, 0)
      else pure (p.fail 2, r.op, none, 0)
    else do
      set (s.homeWrite (some r.loc) r.key p.pa p.data)
      pure (ok p, r.op, none, 0)
  | .atomic op y cmp =>
    if kind2 then pure (p.fail 2, r.op, none, 0)
    else do
      let (old, f, s) := s.performAtomic (some r.loc) r.key p.pa op p.len y.toNat cmp.toNat
      set s
      pure (ok { p with data := toBytes p.len old }, r.op, none, f)
  | .join scope team =>
    if kind2 then pure (p.fail 2, r.op, none, 0)
    else match (s.groupAt r.key p.pa).join scope team with
      | .error n => pure (ok p, r.op, some (BitVec.ofNat 8 n), 0)
      | .ok (o, g) => do
        set (s.putGroup r.loc r.key p.pa o)
        pure (ok { p with data := toBytes 4 g.toNat }, r.op, none, 0)
  | .leave =>
    if kind2 then pure (p.fail 2, r.op, none, 0)
    else
      let old := s.groupAt r.key p.pa
      match old.leave with
      | .error n => pure (ok p, r.op, some (BitVec.ofNat 8 n), 0)
      | .ok (o, ends) => do
        let s := s.putGroup r.loc r.key p.pa o
        set (if ends then s.releaseArrivals p.pa old.gen else s)
        pure (ok p, r.op, none, 0)
  | .gbar _ =>
    if kind2 then pure (p.fail 2, r.op, none, 0)
    else match (s.groupAt r.key p.pa).arrive with
      | .error n => pure (ok p, r.op, some (BitVec.ofNat 8 n), 0)
      | .ok (o, g, ends) => do
        let s := s.putGroup r.loc r.key p.pa o
        set (if ends then s.releaseArrivals p.pa g else s)
        pure (ok p, .gbar g, if ends then some 0 else none, 0)

/-- R79, R82: how the transaction of a part is refused, if it is; the parts of one transaction fail together. -/
def State.transactionRefusal (s : State) (r : Req) (p : Part) : Option (BitVec 8) :=
  (r.parts.filter fun x => x.first = p.first).findSome? fun x =>
    if s.cutOff (locModule r.loc) (paModule x.pa) then some 1
    else match s.homeCheck r.user x.pa x.len with
      | some e => some (refusalCode e)
      | none => if s.homeLost x.pa x.len then some 1 else none

/-- R74, R82: the parts of a request in ascending order, each refused or performed at its home. -/
def performParts (r : Req) : List Part → M (List Part × ReqOp × Option (BitVec 8) × BitVec 6)
  | [] => pure ([], r.op, none, 0)
  | p :: rest => do
    let s ← get
    let (p, op, refusal, fl) ← if p.done then pure (p, r.op, none, 0)
      else match s.transactionRefusal r p with
        | some o => do
          if o = 4 then set (s.eccFail (s.homePa p.pa) p.len)
          pure (p.fail o, r.op, none, 0)
        | none => performPart r p
    let (more, _, refusal', fl') ← performParts r rest
    pure (p :: more, op, match refusal with | some n => some n | none => refusal', fl ||| fl')

/-- R403, R410: the route back from a target of the request is held, or none is up, so that neither request nor reply goes through. -/
def State.replyPaused (s : State) (r : Req) : Bool :=
  r.parts.any fun p => !p.done && s.routePaused (paModule p.pa) (locModule r.loc)

/-- R299: whether the home holds the reply of an arrival: it neither failed nor completed the generation. -/
def replyHeld (op : ReqOp) (refusal : Option (BitVec 8)) (parts : List Part) : Bool :=
  match op with
  | .gbar _ => refusal.isNone && parts.all fun p => p.outcome.isNone
  | _ => false

/-- R74, R299: a request is performed at its home; the reply of a `gbar` waits there until its generation completes. -/
def performAtHome (id : Nat) : M Unit := do
  match (← get).req id with
  | none => pure ()
  | some r => do
    if r.sent && !r.performed then
      let (parts, op, refusal, fl) ← performParts r r.parts
      let refused := match op, refusal with
        | .gbar _, some n => if n = 0 then none else some n
        | _, x => x
      modify fun s =>
        let s := s.mapReq id fun r => { r with parts := parts, op := op, refusal := refused, flags := fl, performed := true }
        let back := if op = .write then 0 else (parts.map fun p => p.data.length).sum
        let s := r.targets.foldl (fun s t => s.sendPacket t.1 (locModule r.loc) back) s
        if op = .write then s.push (.storeAck id)
        else if replyHeld op refusal parts then s
        else s.push (.remoteReply id)

/-- R403, R410: a request that a reconfiguration or the lack of a route keeps from its home or from answering waits; TMO runs on but for a
reconfiguration (R82). -/
def homePerformM (id : Nat) : M Unit := do
  let s ← get
  match s.req id with
  | some r => if s.replyPaused r then stall else performAtHome id
  | none => pure ()

def execHomePerform (req : Nat) (s : State) : Out := runEvent (homePerformM req) s

/-! ### The reply -/

/-- R437: the bytes that a scalar reply writes to its registers, from the first one on. -/
def replyBytes (code : Nat) (b : List Byte) : List Byte :=
  let v := ofBytes b
  let sx := fun (w : Nat) => toBytes 8 (BitVec.ofInt 64 (sextInt w v)).toNat
  match code with
  | 0x0 => toBytes 8 (v % 2 ^ 8)
  | 0x1 => sx 8
  | 0x2 => toBytes 8 (v % 2 ^ 16)
  | 0x3 => sx 16
  | 0x4 => toBytes 8 (v % 2 ^ 32)
  | 0x5 => sx 32
  | 0x7 => b.take 10 ++ List.replicate 6 0
  | _ => b

/-- R69: where a register of a file lies in a record; none for g0. A file code that R69 does not assign, as software may store one,
is taken for the `v` file (log 85). -/
def recordReg (file reg : Nat) : Option Nat :=
  match file with
  | 0 => if reg % 32 = 0 then none else some (64 + 8 * (reg % 32))
  | 1 => some (320 + 16 * (reg % 8))
  | _ => some (768 + 256 * (reg % 32))

/-- Bytes laid into a register of a record, from a byte of it on. -/
def State.putRecordReg (s : State) (ck base file reg byte : Nat) (b : List Byte) : State :=
  match recordReg file reg with
  | none => s
  | some off => s.sp2WriteBytes ck (base + off + byte) b

/-- R437: a reply written into the register bytes of a record. -/
def State.putReply (s : State) (ck base dest : Nat) (r : Req) : State :=
  let reg := dest % 32
  let file := dest / 2 ^ 5 % 8
  let code := dest / 2 ^ 8 % 16
  if 0xE ≤ code then s
  else if 0xA ≤ code then
    r.parts.foldl (fun s p => s.putRecordReg ck base file (reg + p.lane / 256) (p.lane % 256) p.data) s
  else
    let b := replyBytes code (partBytes r.parts)
    if code = 8 then (s.putRecordReg ck base file reg 0 (b.take 8)).putRecordReg ck base file (reg + 1) 0 (b.drop 8)
    else s.putRecordReg ck base file reg 0 b

/-- R200, R69: the pointer that a parked load updates is moved in the record when the reply is written (log 98). -/
def State.putUpdate (s : State) (ck base : Nat) : Option (Nat × Int) → State
  | none => s
  | some (r, x) =>
    let at_ := base + 320 + 16 * (r % 8)
    let old : Ptr := BitVec.ofNat 80 (ofBytes (s.sp2ReadBytes ck at_ 10))
    s.sp2WriteBytes ck at_ (toBytes 10 (addPtr old x).toNat)

/-- R169: the reply of a parked task is written into its record, with RSTAT last. -/
def State.replyParked (s : State) (ck : Nat) (p : Parked) (r : Req) : State :=
  let base := s.parkBase ck p.slot
  let dest := leAt (s.recordAt ck p.slot) 16 4
  let failed := r.parts.find? fun x => x.outcome.isSome
  let (rstat, va) : Nat × Ptr := match r.refusal, failed with
    | some n, _ => (0x40 + n.toNat, 0)
    | none, some x => (0x80 + (x.outcome.getD 0).toNat, x.first)
    | none, none => (1, 0)
  let s := s.meetRecord ck p.slot
  let s := if rstat = 1 then (s.putReply ck base dest r).putUpdate ck base p.update else s
  let s := s.sp2WriteBytes ck (base + 18) (toBytes 2 (rstat % 256 + r.flags.toNat * 2 ^ 8))
  s.mapCluster ck fun c =>
    { c with parked := c.parked.map fun x => if x.slot = p.slot then { x with req := none, va := va } else x }

/-- R169, R68: a reply reaches the record of a parked task, whose continuation is sent, or the thread that stalls for it. -/
def remoteReplyM (id : Nat) : M Unit := do
  let s ← get
  match s.req id with
  | none => pure ()
  | some r =>
    if r.performed && !r.replied && r.op ≠ .write then
      let ck := locClusterKey r.loc
      match (s.cluster ck).parked.find? fun p => p.req = some id with
      | some p => do
        set ({ (s.replyParked ck p r) with reqs := s.reqs.filter fun x => x.id ≠ id })
        sendContinuation ck p.slot
      | none => set (s.mapReq id fun r => { r with replied := true })
    else pure ()

def execRemoteReply (req : Nat) (s : State) : Out := runHeld (.remoteReply req) (remoteReplyM req) s

/-! ### Failure and acknowledgement -/

/-- R82: a request that gets no answer; whether it performs at its home is the part's to decide (log 18). -/
def noReply (id : Nat) : M Unit := do
  match (← get).req id with
  | none => pure ()
  | some r =>
    if r.sent && !r.replied then do
      if !r.performed then
        let n ← modifyGet fun s => s.choose 2
        if n = 1 then performAtHome id
      let parts := r.parts.map fun p => if p.outcome = some 0 then p else p.fail 1
      modify fun s =>
        let s := s.mapReq id fun r =>
          { r with parts := parts, performed := true, refusal := none }
        s.push (if r.op = .write then .storeAck id else .remoteReply id)
    else pure ()

/-- R86, R87: an acknowledgement or failure of a posted store reaches the NI. -/
def State.storeAck (s : State) (id : Nat) : State :=
  match s.req id with
  | none => s
  | some r =>
    if r.performed && r.op = .write then
      let s := { s with reqs := s.reqs.filter fun x => x.id ≠ id }
      let s := (s.reqs.filter fun x => x.uid = r.uid && !x.sent).foldl (fun s x => s.push (.remoteRequest x.id)) s
      ((r.parts.filterMap fun p => p.outcome.map fun o => (p.first, o)).eraseDups).foldl
        (fun s f => s.noteFailure (locClusterKey r.loc) r.torig r.tser id f.1 f.2) s
    else s

def execStoreAck (req : Nat) (s : State) : Out := .next (s.storeAck req)

end Sys2Proof.Machine
end

