-- ==== Sys2Proof/Machine/Delivery.lean ====
section
/-! DEFINITION. Messages on their way (R164, R171): arrival, acknowledgement, retry, selection and aging (R159, R160). -/

namespace Sys2Proof.Machine

def State.msg (s : State) (id : Nat) : Option Msg := s.msgs.find? fun m => m.id = id
def State.mapMsg (s : State) (id : Nat) (f : Msg → Msg) : State :=
  { s with msgs := s.msgs.map fun m => if m.id = id then f m else m }
def State.dropMsg (s : State) (id : Nat) : State := { s with msgs := s.msgs.filter fun m => m.id ≠ id }

/-- R164, R171: a message that waits: to the same core an earlier one of its sender is not queued or its NI holds an earlier one, or an
earlier one of its NI to the same rank went to another core and is not acknowledged. -/
def State.mustWait (s : State) (m : Msg) : Bool :=
  (s.msgs.takeWhile fun x => x.id ≠ m.id).any fun x =>
    (!x.queued && x.target = m.target && (senderOf x.header = senderOf m.header || (x.held && x.ni = m.ni))) ||
    (m.rank.isSome && x.rank = m.rank && x.ni = m.ni && x.target ≠ m.target)

/-- R334, R82: a message that is not delivered: a posted send fails with an outcome; one inside the module is noted for its
sender, if that still runs (log 18: the address is a free value). -/
def State.undelivered (s : State) (m : Msg) (o : BitVec 8) : State :=
  let s := s.dropMsg m.id
  match m.req with
  | some id =>
    (s.mapReq id fun r => { r with performed := true, parts := r.parts.map fun p => p.fail o }).push (.storeAck id)
  | none =>
    match s.placeOf m.uid with
    | none => s
    | some w =>
      let t := s.threadOf w
      let (v, s) := s.freeWord
      s.noteFailure m.ni t.torig t.tser m.id (v.zeroExtend 80) o

/-- R164: where a message for a rank goes by the entry as it now reads; none while it must wait. One that has not been sent is
resolved here, and not delivered to a rank that is absent or has ended; one that was sent is forwarded to a rank that has moved,
and else stays with the core it was sent to. -/
def retarget (m : Msg) : M (Option (Except Unit Msg)) := do
  match m.rank with
  | none => pure (some (.ok m))
  | some (team, rank) => do
    let unsent := m.region.isNone
    let stay : Except Unit Msg := if unsent then .error () else .ok m
    match ← placement (m.ni * 16) team rank with
    | none => pure (some stay)
    | some e =>
      match entryState e with
      | 1 => pure (some (.ok (if unsent then m.toEntry team rank e
          else { m with target := entryLoc e, region := some (entryRegion e) })))
      | 2 => pure none
      | _ => pure (some stay)

/-- R164, R86: a message that its NI has held unsent goes: TMO runs from now; to another module it is a posted send. -/
def State.sendHeld (s : State) (m : Msg) : State × Msg :=
  let own := m.ni / 2 ^ 10
  let away := locModule m.target ≠ own
  let s := if away then s.sendPacket own (locModule m.target) 80 else s
  match m.req, s.placeOf m.uid with
  | some id, _ => (s.mapReq id fun r => { r with sent := true, since := s.now, parts := r.parts.map fun p => m.part p.va }, m)
  | none, some w =>
    if away then
      let t := s.threadOf w
      let (id, s) := s.newId
      let r : Req := ⟨id, m.uid, m.ni * 16 + bits m.header 43 40, t.torig, t.tser, .write, m.ctx, false, 0,
        [m.part 0], true, false, false, none, 0, none, s.now⟩
      ({ s with reqs := s.reqs ++ [r] }, { m with req := some id })
    else (s, m)
  | none, none => (s, m)

/-- R171: a message arrives: it is queued, or refused and held. -/
def State.deliver (s : State) (m : Msg) : State :=
  if !(s.coreThere m.target) || s.cutOff (m.ni / 2 ^ 10) (locModule m.target) then
    s.undelivered m 0
  else
    match s.arrive m.target (m.inMsg s.now) with
    | none => s.mapMsg m.id fun _ => { m with held := true }
    | some s => (s.mapMsg m.id fun _ => { m with held := false, queued := true }).push (.messageAck m.id)

/-- A read that must wait keeps its message held (R410). -/
def waiting (m : M (Option (Except Unit Msg))) : M (Option (Except Unit Msg)) := fun s =>
  match m.run s with
  | .error .stall _ => .ok none s
  | r => r

/-- R164, R171, R410: a message arrives, is forwarded, or is held. -/
def messageArrivalM (id : Nat) : M Unit := do
  match (← get).msg id with
  | none => pure ()
  | some m =>
    if m.queued then pure ()
    else
      match ← waiting (retarget m) with
      | none => modify fun s => s.mapMsg id fun m => { m with held := true }
      | some (.error _) => modify fun s => s.undelivered m 0
      | some (.ok m') => do
        let m' ← modifyGet fun s => if m.rank.isSome && m.region.isNone then ((s.sendHeld m').2, (s.sendHeld m').1) else (m', s)
        modify fun s => s.mapMsg id fun _ => m'
        let s ← get
        if s.mustWait m' || s.routePaused (m'.ni / 2 ^ 10) (locModule m'.target) then set (s.mapMsg id fun m => { m with held := true })
        else set (s.deliver m')

def execMessageArrival (msg : Nat) (s : State) : Out := runEvent (messageArrivalM msg) s

/-- R171: every 1 µs, or when room appears, the NI tries a message again that it holds. -/
def execMessageRetry (msg : Nat) (s : State) : Out :=
  match s.msg msg with
  | some m => if m.held then runEvent (messageArrivalM msg) s else .next s
  | none => .next s

/-- R164: an acknowledgement: a posted send is acknowledged (R86), and the messages that its NI holds are tried. -/
def State.messageAck (s : State) (id : Nat) : State :=
  match s.msg id with
  | none => s
  | some m =>
    if !m.queued then s
    else
      let s := s.dropMsg id
      let s := match m.req with
        | some r => (s.mapReq r fun r => { r with performed := true }).push (.storeAck r)
        | none => s
      (s.msgs.filter fun x => x.held && x.ni = m.ni).foldl (fun s x => s.push (.messageRetry x.id)) s

def execMessageAck (msg : Nat) (s : State) : Out := .next (s.messageAck msg)

/-- R159, R156, R169. -/
def execMessageSelect (loc : Nat) (s : State) : Out := .next (s.select loc)

/-- R160: multiples of 2^16 ck that a message's age has passed. -/
def ageSteps (now : Nat) (m : InMsg) : Nat := (now - m.born) / 2 ^ 16

/-- R160: a message's channel rises by one for each. -/
def agedMsg (now : Nat) (m : InMsg) : InMsg :=
  let n := ageSteps now m
  { m with
    age := max m.age n
    header := setBits m.header 14 12 (min 7 (chanOf m.header + (n - m.age))) }

def execMessageAging (loc : Nat) (s : State) : Out :=
  .next (s.mapCore loc fun c => { c with inbox := c.inbox.map (agedMsg s.now) })

end Sys2Proof.Machine
end

