-- ==== Sys2Proof/Machine/Branch.lean ====
section
/-! DEFINITION. Branches, jumps and calls (R240-R242) and `rpt` (R287). A word that may not stand in the body of an active
`rpt` traps when it comes to issue. -/

namespace Sys2Proof.Machine

/-- R201: the offset `words` words from the PC, modulo the size of an SP1. -/
def State.pcPlus (s : State) (words : Int) : BitVec 16 := s.pc + BitVec.ofInt 16 (4 * words)

/-- R287: the trap of a word that may not stand in an active body. -/
def State.bodyTrap (s : State) : Out := trapOut s (illegal 0x06 s.word)

/-- R240: a branch on a condition. -/
def State.branch (s : State) (taken : Bool) (o : BitVec 12) : Out :=
  if s.inBody then s.bodyTrap else .next (s.setPc (if taken then s.pcPlus o.toInt else s.next))

def execBeq (a b : BitVec 5) (o : BitVec 12) (s : State) : Out := s.branch (s.g a == s.g b) o
def execBne (a b : BitVec 5) (o : BitVec 12) (s : State) : Out := s.branch (s.g a != s.g b) o
def execBlt (a b : BitVec 5) (o : BitVec 12) (s : State) : Out := s.branch ((s.g a).slt (s.g b)) o
def execBge (a b : BitVec 5) (o : BitVec 12) (s : State) : Out := s.branch (!(s.g a).slt (s.g b)) o
def execBltn (a b : BitVec 5) (o : BitVec 12) (s : State) : Out := s.branch ((s.g a).ult (s.g b)) o
def execBgen (a b : BitVec 5) (o : BitVec 12) (s : State) : Out := s.branch (!(s.g a).ult (s.g b)) o

/-- R241, R242: the return offset in g31. -/
def State.link (s : State) : State := s.setG 31 (s.next.zeroExtend 64)

/-- R241. -/
def execJ (o : BitVec 26) (s : State) : Out :=
  if s.inBody then s.bodyTrap else .next (s.setPc (s.pcPlus o.toInt))
def execCall (o : BitVec 26) (s : State) : Out :=
  if s.inBody then s.bodyTrap else .next (s.link.setPc (s.pcPlus o.toInt))

/-- R242: the target that a register names. -/
def jumpTarget (t : Word) : BitVec 16 := BitVec.ofNat 16 (bits t 15 2 * 4)

def execJr (a : BitVec 5) (s : State) : Out :=
  if s.inBody then s.bodyTrap else .next (s.setPc (jumpTarget (s.g a)))
def execCallr (a : BitVec 5) (s : State) : Out :=
  if s.inBody then s.bodyTrap else .next (s.link.setPc (jumpTarget (s.g a)))
def execRet (s : State) : Out :=
  if s.inBody then s.bodyTrap else .next (s.setPc (jumpTarget (s.g 31)))

end Sys2Proof.Machine
end

