-- ==== Sys2Proof/Machine/Unit.lean ====
section
/-! DEFINITION. The compute unit and the dispatch queues of its cores (R161, R245, R322, R324): the instructions that enter a queue and
what each does when the unit executes it, the registers that an instruction must find written before it issues, the round robin of the
unit, and commands sent to another core (R325-R327). -/

namespace Sys2Proof.Machine

/-! ### Instructions of the unit -/

/-- R245, R322, R324: the instructions that the unit executes from the dispatch queue, by their meanings. The memory forms hold a place there
(`vectorMemory`). -/
def unitMeaning : Instr → Option (State → Out)
  | .vaddF d a b q f => some (execVaddF d a b q f)
  | .vsubF d a b q f => some (execVsubF d a b q f)
  | .vmulF d a b q f => some (execVmulF d a b q f)
  | .vfma d a b q f => some (execVfma d a b q f)
  | .vminF d a b q f => some (execVminF d a b q f)
  | .vmaxF d a b q f => some (execVmaxF d a b q f)
  | .vdiv d a b q f => some (execVdiv d a b q f)
  | .vsqrt d a q f => some (execVsqrt d a q f)
  | .vaddI d a b q f => some (execVaddI d a b q f)
  | .vsubI d a b q f => some (execVsubI d a b q f)
  | .vmulI d a b q f => some (execVmulI d a b q f)
  | .vminI d a b q f => some (execVminI d a b q f)
  | .vmaxI d a b q f => some (execVmaxI d a b q f)
  | .vand d a b q f => some (execVand d a b q f)
  | .vor d a b q f => some (execVor d a b q f)
  | .vxor d a b q f => some (execVxor d a b q f)
  | .vshl d a b q f => some (execVshl d a b q f)
  | .vshr d a b q f => some (execVshr d a b q f)
  | .vsra d a b q f => some (execVsra d a b q f)
  | .vabsI d a q f => some (execVabsI d a q f)
  | .vnegI d a q f => some (execVnegI d a q f)
  | .vexp2 d a q f => some (execVexp2 d a q f)
  | .vlog2 d a q f => some (execVlog2 d a q f)
  | .vrcp d a q f => some (execVrcp d a q f)
  | .vrsqrt d a q f => some (execVrsqrt d a q f)
  | .vtanh d a q f => some (execVtanh d a q f)
  | .vabsF d a q f => some (execVabsF d a q f)
  | .vnegF d a q f => some (execVnegF d a q f)
  | .vcvt d a sel p f => some (execVcvt d a sel p f)
  | .vwiden d a sel p f => some (execVwiden d a sel p f)
  | .vnarrow d a sel p f => some (execVnarrow d a sel p f)
  | .vcmp d a b q c f => some (execVcmp d a b q c f)
  | .vbound d a b e => some (execVbound d a b e)
  | .qand d a b => some (execQand d a b)
  | .qor d a b => some (execQor d a b)
  | .qxor d a b => some (execQxor d a b)
  | .qnot d a => some (execQnot d a)
  | .qcnt d a e => some (execQcnt d a e)
  | .qfirst d a e => some (execQfirst d a e)
  | .vmov d a q => some (execVmov d a q)
  | .vsel d a b sel => some (execVsel d a b sel)
  | .vdup d a q e => some (execVdup d a q e)
  | .vget d a b e => some (execVget d a b e)
  | .vset d a b e => some (execVset d a b e)
  | .vperm d a b q e => some (execVperm d a b q e)
  | .vzipLo d a b q e => some (execVzipLo d a b q e)
  | .vzipHi d a b q e => some (execVzipHi d a b q e)
  | .vunzipEven d a b q e => some (execVunzipEven d a b q e)
  | .vunzipOdd d a b q e => some (execVunzipOdd d a b q e)
  | .vtrnEven d a b q e => some (execVtrnEven d a b q e)
  | .vtrnOdd d a b q e => some (execVtrnOdd d a b q e)
  | .vslideUp d a b q e => some (execVslideUp d a b q e)
  | .vslideDn d a b q e => some (execVslideDn d a b q e)
  | .vwidth d e => some (execVwidth d e)
  | .vsum d a f q => some (execVsum d a f q)
  | .vmaxr d a f q => some (execVmaxr d a f q)
  | .vminr d a f q => some (execVminr d a f q)
  | .vscan d a f q => some (execVscan d a f q)
  | .mxRd v g c => some (execMxRd v g c)
  | .mxProg d => some (execMxProg d)
  | .mxProgClr d b => some (execMxProgClr d b)
  | _ => none

/-- The instruction that a word of the unit's groups stands for. -/
def decodeUnit (w : BitVec 32) : Option Instr :=
  let e := match bits w 31 26 with
    | 0x27 => decodeOp27 w
    | 0x28 => decodeOp28 w
    | 0x29 => decodeOp29 w
    | 0x2A => decodeOp2A w
    | 0x2B => decodeOp2B w
    | 0x2D => decodeOp2D w
    | _ => .error .opcode
  match e with
  | .ok i => some i
  | .error _ => none

/-- R324: the word of `mx.prog`. -/
def isProg (w : BitVec 32) : Bool :=
  match decodeUnit w with
  | some (.mxProg _) => true
  | some (.mxProgClr _ _) => true
  | _ => false

/-- The `g` register that an instruction of the unit writes (R245). -/
def unitDest : Instr → Option (BitVec 5)
  | .vget d _ _ _ => some d
  | .qcnt d _ _ => some d
  | .qfirst d _ _ => some d
  | .vwidth d _ => some d
  | .mxProg d => some d
  | .mxProgClr d _ => some d
  | _ => none

/-- R157: the `g` registers that an instruction reads or writes, as its operands name them. -/
def gFields : Instr → List Nat
  | .movi d _ _ _ => [d.toNat]
  | .movk d _ _ => [d.toNat]
  | .ldN8 d _ _ _ _ => [d.toNat]
  | .ldI8 d _ _ _ _ => [d.toNat]
  | .ldN16 d _ _ _ _ => [d.toNat]
  | .ldI16 d _ _ _ _ => [d.toNat]
  | .ldN32 d _ _ _ _ => [d.toNat]
  | .ldI32 d _ _ _ _ => [d.toNat]
  | .ldI64 d _ _ _ _ => [d.toNat]
  | .st8 d _ _ _ _ => [d.toNat]
  | .st16 d _ _ _ _ => [d.toNat]
  | .st32 d _ _ _ _ => [d.toNat]
  | .st64 d _ _ _ _ => [d.toNat]
  | .lda d _ _ _ _ => [d.toNat]
  | .mxProg d => [d.toNat]
  | .qcnt d _ _ => [d.toNat]
  | .qfirst d _ _ => [d.toNat]
  | .vwidth d _ => [d.toNat]
  | .crr d _ => [d.toNat]
  | .alloy d _ => [d.toNat]
  | .astat d => [d.toNat]
  | .pget d _ => [d.toNat]
  | .pgeth d _ => [d.toNat]
  | .pdiff d _ _ => [d.toNat]
  | .fadd d a b _ _ => [d.toNat, a.toNat, b.toNat]
  | .fsub d a b _ _ => [d.toNat, a.toNat, b.toNat]
  | .fmul d a b _ _ => [d.toNat, a.toNat, b.toNat]
  | .fdiv d a b _ _ => [d.toNat, a.toNat, b.toNat]
  | .fmac d a b _ _ => [d.toNat, a.toNat, b.toNat]
  | .fmin d a b _ => [d.toNat, a.toNat, b.toNat]
  | .fmax d a b _ => [d.toNat, a.toNat, b.toNat]
  | .fcmp d a b _ _ => [d.toNat, a.toNat, b.toNat]
  | .add d a b => [d.toNat, a.toNat, b.toNat]
  | .sub d a b => [d.toNat, a.toNat, b.toNat]
  | .and d a b => [d.toNat, a.toNat, b.toNat]
  | .or d a b => [d.toNat, a.toNat, b.toNat]
  | .xor d a b => [d.toNat, a.toNat, b.toNat]
  | .andn d a b => [d.toNat, a.toNat, b.toNat]
  | .orn d a b => [d.toNat, a.toNat, b.toNat]
  | .sll d a b => [d.toNat, a.toNat, b.toNat]
  | .srl d a b => [d.toNat, a.toNat, b.toNat]
  | .sra d a b => [d.toNat, a.toNat, b.toNat]
  | .rol d a b => [d.toNat, a.toNat, b.toNat]
  | .ror d a b => [d.toNat, a.toNat, b.toNat]
  | .slt d a b => [d.toNat, a.toNat, b.toNat]
  | .sltn d a b => [d.toNat, a.toNat, b.toNat]
  | .min d a b => [d.toNat, a.toNat, b.toNat]
  | .max d a b => [d.toNat, a.toNat, b.toNat]
  | .minn d a b => [d.toNat, a.toNat, b.toNat]
  | .maxn d a b => [d.toNat, a.toNat, b.toNat]
  | .mul d a b => [d.toNat, a.toNat, b.toNat]
  | .mulh d a b => [d.toNat, a.toNat, b.toNat]
  | .mulhn d a b => [d.toNat, a.toNat, b.toNat]
  | .div d a b => [d.toNat, a.toNat, b.toNat]
  | .divn d a b => [d.toNat, a.toNat, b.toNat]
  | .rem d a b => [d.toNat, a.toNat, b.toNat]
  | .remn d a b => [d.toNat, a.toNat, b.toNat]
  | .fsqrt d a _ _ => [d.toNat, a.toNat]
  | .fcvt d a _ _ _ => [d.toNat, a.toNat]
  | .fclass d a _ => [d.toNat, a.toNat]
  | .crs d a _ => [d.toNat, a.toNat]
  | .crc d a _ => [d.toNat, a.toNat]
  | .clz d a => [d.toNat, a.toNat]
  | .ctz d a => [d.toNat, a.toNat]
  | .pop d a => [d.toNat, a.toNat]
  | .sext8 d a => [d.toNat, a.toNat]
  | .sext16 d a => [d.toNat, a.toNat]
  | .sext32 d a => [d.toNat, a.toNat]
  | .zext8 d a => [d.toNat, a.toNat]
  | .zext16 d a => [d.toNat, a.toNat]
  | .zext32 d a => [d.toNat, a.toNat]
  | .bswap d a => [d.toNat, a.toNat]
  | .addi d a _ => [d.toNat, a.toNat]
  | .andi d a _ => [d.toNat, a.toNat]
  | .ori d a _ => [d.toNat, a.toNat]
  | .xori d a _ => [d.toNat, a.toNat]
  | .slli d a _ => [d.toNat, a.toNat]
  | .srli d a _ => [d.toNat, a.toNat]
  | .srai d a _ => [d.toNat, a.toNat]
  | .slti d a _ => [d.toNat, a.toNat]
  | .sltni d a _ => [d.toNat, a.toNat]
  | .beq a b _ => [a.toNat, b.toNat]
  | .bne a b _ => [a.toNat, b.toNat]
  | .blt a b _ => [a.toNat, b.toNat]
  | .bge a b _ => [a.toNat, b.toNat]
  | .bltn a b _ => [a.toNat, b.toNat]
  | .bgen a b _ => [a.toNat, b.toNat]
  | .bset _ a b => [a.toNat, b.toNat]
  | .vbound _ a b _ => [a.toNat, b.toNat]
  | .vset _ a b _ => [a.toNat, b.toNat]
  | .stvSwap a b _ => [a.toNat, b.toNat]
  | .call _ => [31]
  | .ret => [31]
  | .jr a => [a.toNat]
  | .waitkReg a _ => [a.toNat]
  | .waitbReg a _ => [a.toNat]
  | .kset a _ => [a.toNat]
  | .kget a _ => [a.toNat]
  | .trig a _ _ => [a.toNat]
  | .rpt a _ => [a.toNat]
  | .join a _ _ => [a.toNat]
  | .tid a _ => [a.toNat]
  | .mxSend a _ _ => [a.toNat]
  | .etw _ a _ _ => [a.toNat]
  | .etr _ a _ _ => [a.toNat]
  | .vdup _ a _ _ => [a.toNat]
  | .stvInit a _ => [a.toNat]
  | .crw a _ => [a.toNat]
  | .trc a _ => [a.toNat]
  | .callr a => [a.toNat, 31]
  | .stl _ b _ _ _ => [b.toNat]
  | .bmov _ _ b => [b.toNat]
  | .cpFill _ b _ => [b.toNat]
  | .tswap _ b _ => [b.toNat]
  | .vslideUp _ _ b _ _ => [b.toNat]
  | .vslideDn _ _ b _ _ => [b.toNat]
  | .vldw _ _ b _ _ _ => [b.toNat]
  | .vstw _ _ b _ _ _ => [b.toNat]
  | .vldt _ _ b _ _ _ => [b.toNat]
  | .vldtTile _ _ b _ _ => [b.toNat]
  | .stvAmp _ b _ => [b.toNat]
  | .idle _ _ b => [b.toNat]
  | .padd _ _ b => [b.toNat]
  | .pset _ a b => [a.toNat, b.toNat]
  | .amoAdd d _ b _ _ => [d.toNat, b.toNat]
  | .amoAnd d _ b _ _ => [d.toNat, b.toNat]
  | .amoOr d _ b _ _ => [d.toNat, b.toNat]
  | .amoXor d _ b _ _ => [d.toNat, b.toNat]
  | .amoMin d _ b _ _ => [d.toNat, b.toNat]
  | .amoMax d _ b _ _ => [d.toNat, b.toNat]
  | .amoMinn d _ b _ _ => [d.toNat, b.toNat]
  | .amoMaxn d _ b _ _ => [d.toNat, b.toNat]
  | .amoSwap d _ b _ _ => [d.toNat, b.toNat]
  | .cas d _ b _ _ => [d.toNat, b.toNat]
  | .famoAdd d _ b _ _ => [d.toNat, b.toNat]
  | .mxProgClr d b => [d.toNat, b.toNat]
  | .vget d _ b _ => [d.toNat, b.toNat]
  | .cas2 d _ b _ => [d.toNat, d.toNat + 1, b.toNat, b.toNat + 1]
  | .tcfg _ _ c => [c.toNat]
  | .tfill _ _ _ _ c => [c.toNat]
  | .tdrain _ _ _ _ c => [c.toNat]
  | .tlbi c _ _ _ => [c.toNat]
  | .tlbiCtx c _ => [c.toNat]
  | .tdef _ b c => [b.toNat, c.toNat]
  | .stvProb _ b _ c => [b.toNat, c.toNat]
  | .tstat _ b => [b.toNat, b.toNat + 1]
  | .spawn a b => [a.toNat, b.toNat, 2, 3, 4, 5, 6, 7, 8]
  | .mxMac u v _ a b _ _ _ => (if u = 0 then [a.toNat] else []) ++ (if v = 0 then [b.toNat] else [])
  | .mxMacb u v _ a b _ _ _ => (if u = 0 then [a.toNat] else []) ++ (if v = 0 then [b.toNat] else [])
  | .mxRd _ g _ => [g.toNat]
  | .snd a b _ p => [a.toNat, b.toNat] ++ (List.range 7).map (p.toNat + ·)
  | .sndv a _ _ h => [a.toNat, h.toNat]
  | .sndz a _ _ _ x => [a.toNat, x.toNat]
  | .nmc x _ _ _ h => [x.toNat, h.toNat]
  | .ngt x _ _ _ h => [x.toNat, h.toNat]
  | .nsc x _ _ _ h => [x.toNat, h.toNat]
  | .na2a x _ _ _ h => [x.toNat, h.toNat]
  | .treplay h _ => [h.toNat]
  | .tfree h => [h.toNat]
  | .tinfo d h _ => [d.toNat, h.toNat]
  | .xpath d e => [d.toNat, e.toNat]
  | .stvFix a b _ c => [a.toNat, b.toNat, c.toNat]
  | _ => []

/-- R261: the `v` registers that an instruction of the unit names. -/
def vFields : Instr → List Nat
  | .vaddF d a b _ _ => [d.toNat, a.toNat, b.toNat]
  | .vsubF d a b _ _ => [d.toNat, a.toNat, b.toNat]
  | .vmulF d a b _ _ => [d.toNat, a.toNat, b.toNat]
  | .vfma d a b _ _ => [d.toNat, a.toNat, b.toNat]
  | .vminF d a b _ _ => [d.toNat, a.toNat, b.toNat]
  | .vmaxF d a b _ _ => [d.toNat, a.toNat, b.toNat]
  | .vdiv d a b _ _ => [d.toNat, a.toNat, b.toNat]
  | .vsqrt d a _ _ => [d.toNat, a.toNat]
  | .vaddI d a b _ _ => [d.toNat, a.toNat, b.toNat]
  | .vsubI d a b _ _ => [d.toNat, a.toNat, b.toNat]
  | .vmulI d a b _ _ => [d.toNat, a.toNat, b.toNat]
  | .vminI d a b _ _ => [d.toNat, a.toNat, b.toNat]
  | .vmaxI d a b _ _ => [d.toNat, a.toNat, b.toNat]
  | .vand d a b _ _ => [d.toNat, a.toNat, b.toNat]
  | .vor d a b _ _ => [d.toNat, a.toNat, b.toNat]
  | .vxor d a b _ _ => [d.toNat, a.toNat, b.toNat]
  | .vshl d a b _ _ => [d.toNat, a.toNat, b.toNat]
  | .vshr d a b _ _ => [d.toNat, a.toNat, b.toNat]
  | .vsra d a b _ _ => [d.toNat, a.toNat, b.toNat]
  | .vabsI d a _ _ => [d.toNat, a.toNat]
  | .vnegI d a _ _ => [d.toNat, a.toNat]
  | .vexp2 d a _ _ => [d.toNat, a.toNat]
  | .vlog2 d a _ _ => [d.toNat, a.toNat]
  | .vrcp d a _ _ => [d.toNat, a.toNat]
  | .vrsqrt d a _ _ => [d.toNat, a.toNat]
  | .vtanh d a _ _ => [d.toNat, a.toNat]
  | .vabsF d a _ _ => [d.toNat, a.toNat]
  | .vnegF d a _ _ => [d.toNat, a.toNat]
  | .vcvt d a _ _ _ => [d.toNat, a.toNat]
  | .vwiden d a _ _ _ => [d.toNat, a.toNat]
  | .vnarrow d a _ _ _ => [d.toNat, a.toNat]
  | .vcmp _ a b _ _ _ => [a.toNat, b.toNat]
  | .vmov d a _ => [d.toNat, a.toNat]
  | .vsel d a b _ => [d.toNat, a.toNat, b.toNat]
  | .vdup d _ _ _ => [d.toNat]
  | .vget _ a _ _ => [a.toNat]
  | .vset d _ _ _ => [d.toNat]
  | .vperm d a b _ _ => [d.toNat, a.toNat, b.toNat]
  | .vzipLo d a b _ _ => [d.toNat, a.toNat, b.toNat]
  | .vzipHi d a b _ _ => [d.toNat, a.toNat, b.toNat]
  | .vunzipEven d a b _ _ => [d.toNat, a.toNat, b.toNat]
  | .vunzipOdd d a b _ _ => [d.toNat, a.toNat, b.toNat]
  | .vtrnEven d a b _ _ => [d.toNat, a.toNat, b.toNat]
  | .vtrnOdd d a b _ _ => [d.toNat, a.toNat, b.toNat]
  | .vslideUp d a _ _ _ => [d.toNat, a.toNat]
  | .vslideDn d a _ _ _ => [d.toNat, a.toNat]
  | .vsum d a _ _ => [d.toNat, a.toNat]
  | .vmaxr d a _ _ => [d.toNat, a.toNat]
  | .vminr d a _ _ => [d.toNat, a.toNat]
  | .vscan d a _ _ => [d.toNat, a.toNat]
  | .mxRd v _ _ => [v.toNat]
  | _ => []

/-- R161, R245, R257: the vector memory forms. Each enters the dispatch queue at its issue, and a full queue stalls it. -/
def vectorMemory : Instr → Bool
  | .vld _ _ _ _ _ => true
  | .vst _ _ _ _ _ => true
  | .vldx _ _ _ _ _ _ => true
  | .vstx _ _ _ _ _ _ => true
  | .vldw _ _ _ _ _ _ => true
  | .vstw _ _ _ _ _ _ => true
  | .vldt _ _ _ _ _ _ => true
  | .vldtTile _ _ _ _ _ => true
  | _ => false

/-- An instruction, none of the unit's, that reads, binds or frees a `v` register as it issues. -/
def usesVector : Instr → Bool
  | .vbind _ _ _ _ => true
  | .vfree _ => true
  | .sndv _ _ _ _ => true
  | .sndz _ _ _ _ _ => true
  | _ => false

/-- The `v` register that an instruction of the unit writes. -/
def unitVector : Instr → Option Nat
  | .vcmp _ _ _ _ _ _ => none
  | .vget _ _ _ _ => none
  | i => (vFields i).head?

/-- The `q` register that an instruction of the unit writes. -/
def unitPred : Instr → Option Nat
  | .vcmp d _ _ _ _ _ => some d.toNat
  | .vbound d _ _ _ => some d.toNat
  | .qand d _ _ => some d.toNat
  | .qor d _ _ => some d.toNat
  | .qxor d _ _ => some d.toNat
  | .qnot d _ => some d.toNat
  | _ => none

/-! ### Stores that have not performed (R354, R110; log 80) -/

/-- An instruction that a thread issues while its earlier stores have not performed: of memory on path C it reads at most what it names by
a plain load or an atomic, for which stores to the same bytes perform first (R109, R110); a `gbar` orders
them on path C alone (R130). -/
def passesStores : Instr → Bool
  | .movi _ _ _ _ => true
  | .movk _ _ _ => true
  | .fadd _ _ _ _ _ => true
  | .fsub _ _ _ _ _ => true
  | .fmul _ _ _ _ _ => true
  | .fdiv _ _ _ _ _ => true
  | .fsqrt _ _ _ _ => true
  | .fmac _ _ _ _ _ => true
  | .fmin _ _ _ _ => true
  | .fmax _ _ _ _ => true
  | .fcmp _ _ _ _ _ => true
  | .fcvt _ _ _ _ _ => true
  | .fclass _ _ _ => true
  | .beq _ _ _ => true
  | .bne _ _ _ => true
  | .blt _ _ _ => true
  | .bge _ _ _ => true
  | .bltn _ _ _ => true
  | .bgen _ _ _ => true
  | .j _ => true
  | .call _ => true
  | .jr _ => true
  | .callr _ => true
  | .ret => true
  | .waitkImm _ _ _ => true
  | .waitkReg _ _ => true
  | .waitbImm _ _ _ => true
  | .waitbReg _ _ => true
  | .kget _ _ => true
  | .cpCopy _ _ _ => true
  | .cpFill _ _ _ => true
  | .cpRows _ _ _ _ => true
  | .cpScat _ _ _ _ => true
  | .tfill _ _ _ _ _ => true
  | .tdrain _ _ _ _ _ => true
  | .mxMac _ _ _ _ _ _ _ _ => true
  | .mxMacb _ _ _ _ _ _ _ _ => true
  | .mxZero _ _ => true
  | .mxLd _ _ _ => true
  | .mxSt _ _ _ => true
  | .mxHand _ _ => true
  | .etw _ _ _ _ => true
  | .etr _ _ _ _ => true
  | .gbar _ => true
  | .treplay _ _ => true
  | .add _ _ _ => true
  | .sub _ _ _ => true
  | .and _ _ _ => true
  | .or _ _ _ => true
  | .xor _ _ _ => true
  | .andn _ _ _ => true
  | .orn _ _ _ => true
  | .sll _ _ _ => true
  | .srl _ _ _ => true
  | .sra _ _ _ => true
  | .rol _ _ _ => true
  | .ror _ _ _ => true
  | .slt _ _ _ => true
  | .sltn _ _ _ => true
  | .min _ _ _ => true
  | .max _ _ _ => true
  | .minn _ _ _ => true
  | .maxn _ _ _ => true
  | .clz _ _ => true
  | .ctz _ _ => true
  | .pop _ _ => true
  | .sext8 _ _ => true
  | .sext16 _ _ => true
  | .sext32 _ _ => true
  | .zext8 _ _ => true
  | .zext16 _ _ => true
  | .zext32 _ _ => true
  | .bswap _ _ => true
  | .addi _ _ _ => true
  | .andi _ _ _ => true
  | .ori _ _ _ => true
  | .xori _ _ _ => true
  | .slli _ _ _ => true
  | .srli _ _ _ => true
  | .srai _ _ _ => true
  | .slti _ _ _ => true
  | .sltni _ _ _ => true
  | .mul _ _ _ => true
  | .mulh _ _ _ => true
  | .mulhn _ _ _ => true
  | .div _ _ _ => true
  | .divn _ _ _ => true
  | .rem _ _ _ => true
  | .remn _ _ _ => true
  | .padd _ _ _ => true
  | .pset _ _ _ => true
  | .pget _ _ => true
  | .pgeth _ _ => true
  | .pdiff _ _ _ => true
  | .ldN8 _ _ _ _ _ => true
  | .ldI8 _ _ _ _ _ => true
  | .ldN16 _ _ _ _ _ => true
  | .ldI16 _ _ _ _ _ => true
  | .ldN32 _ _ _ _ _ => true
  | .ldI32 _ _ _ _ _ => true
  | .ldI64 _ _ _ _ _ => true
  | .ldp _ _ _ _ _ => true
  | .amoAdd _ _ _ _ _ => true
  | .amoAnd _ _ _ _ _ => true
  | .amoOr _ _ _ _ _ => true
  | .amoXor _ _ _ _ _ => true
  | .amoMin _ _ _ _ _ => true
  | .amoMax _ _ _ _ _ => true
  | .amoMinn _ _ _ _ _ => true
  | .amoMaxn _ _ _ _ _ => true
  | .amoSwap _ _ _ _ _ => true
  | .cas _ _ _ _ _ => true
  | .famoAdd _ _ _ _ _ => true
  | .cas2 _ _ _ _ => true
  | _ => false

/-- A plain store, which may perform after the thread has gone on. -/
def plainStore : Instr → Bool
  | .st8 _ _ _ _ _ => true
  | .st16 _ _ _ _ _ => true
  | .st32 _ _ _ _ _ => true
  | .st64 _ _ _ _ _ => true
  | .stp _ _ _ _ _ => true
  | .vst _ _ _ _ _ => true
  | .vstx _ _ _ _ _ _ => true
  | .vstw _ _ _ _ _ _ => true
  | _ => false

/-- The moving thread's stores need not have performed for an instruction to issue; a command that names a barrier object reads it
first (R283). -/
def State.passes (s : State) (i : Instr) : Bool := passesStores i && !(bit (s.thr.cp.get 3) 31)

/-! ### Entering the queue -/

/-- The instructions of a task for the unit that stand in its core's dispatch queue: their words. -/
def State.queuedUnits (s : State) (uid : Nat) : List (BitVec 32) :=
  s.cmds.filterMap fun c => if c.uid = uid then c.kind.unitWord else none

/-- A task has a vector memory form in its core's dispatch queue with bytes to move. -/
def State.queuedMemory (s : State) (uid : Nat) : Bool :=
  s.cmds.any fun c => c.uid = uid && match c.kind with
    | .vmem _ _ _ _ (_ :: _) => true
    | _ => false

/-- An instruction that its thread may issue while a vector memory form of it stands in the queue: it orders no access on path C, and an access
of its own waits where it moves bytes of the form (`awaitQueued`). -/
def State.passesQueued (s : State) (i : Instr) : Bool :=
  (unitMeaning i).isSome || vectorMemory i || plainStore i ||
  match i with
  | .gbar _ => false
  | .treplay _ _ => false
  | .nmc _ _ _ _ _ => true
  | .ngt _ _ _ _ _ => true
  | .nsc _ _ _ _ _ => true
  | .na2a _ _ _ _ _ => true
  | .xfence _ _ _ => true
  | i => s.passes i

/-- R157, R245, R161: an instruction of a thread that is not ready: a `g` register that it names, or that a loop counts in, is still to be
written by the unit, it uses vector registers that the unit may still write or orders accesses that the unit is still to make, or it is a
memory form that finds the queue full. -/
def State.awaitsUnit (s : State) (i : Instr) : Bool :=
  let queued := s.queuedUnits s.thr.uid
  let st := s.thr.status
  let named := gFields i ++ (if bits st 26 22 = 0 then [] else [bits st 31 27])
  (vectorMemory i && decide (8 ≤ s.cr.dq.length)) ||
  !queued.isEmpty && (usesVector i || (s.queuedMemory s.thr.uid && !(s.passesQueued i)) ||
    queued.any fun w => match (decodeUnit w).bind unitDest with
    | some d => named.contains d.toNat
    | none => false)

/-- R324: a task has a matrix command open that it issued before another. -/
def State.openMx (s : State) (uid before : Nat) : Bool :=
  match s.placeOf uid with
  | some w => (s.threadOf w).opens.any fun o => o.cls = .mx && !o.done && o.cmd < before
  | none => false

/-- R245: an instruction that enters the queue and does not execute at once: something stands before it, or `mx.prog` waits. -/
def State.queues (s : State) (i : Instr) : Bool :=
  (unitMeaning i).isSome &&
    (!s.cr.dq.isEmpty || (match i with
      | .mxProg _ => s.thr.outstanding .mx ≠ 0
      | .mxProgClr _ _ => s.thr.outstanding .mx ≠ 0
      | _ => false))

/-- The `g` registers as the moving thread reads them, those of the shadow bank among them (R435). -/
def State.gSample (s : State) : Vector Word 32 := Vector.ofFn fun i => s.g (BitVec.ofNat 5 i.val)

/-- The state in which the unit executes an instruction of a task: its own core's queue empty, the registers and controls as it
sampled them, its earlier matrix commands done. -/
def State.unitState (s : State) (l : Loc) (k : Nat) (c : Cmd) (pc : BitVec 16) (g : Vector Word 32) (vfmt mxfmt : Word) : State :=
  let s := { s with cur := .slot l k, ops := none, softs := [] }.mapCore l fun x =>
    { x with dq := [], vfmt := vfmt, mxfmt := mxfmt }
  s.mapThreadAt l k fun t =>
    { t with pc := pc, g := g, mx := c.mx, status := setBits (setBits t.status 26 22 0) 3 3 0, opens := t.opens.filter fun o => o.cls ≠ .mx }

/-- R245: the unit executes an instruction of the queue: its vector, predicate and accumulator results, its flags and the generator
stand, and the `g` register that it writes. Errors in what it reads were met at issue. -/
def State.runUnit (s : State) (c : Cmd) (w : BitVec 32) (pc : BitVec 16) (g : Vector Word 32) (vfmt mxfmt : Word) : State :=
  let s := { s with cmds := s.cmds.filter fun x => x.id ≠ c.id }
  match decodeUnit w, s.placeOf c.uid with
  | some i, some (.slot l k) =>
    let out : Option Out := (unitMeaning i).map fun f => f (s.unitState l k c pc g vfmt mxfmt)
    match out with
    | some (.next t) =>
      let old := s.threadAt l k
      let t := { t with cur := s.cur, ops := s.ops, softs := s.softs }.mapCore l fun x =>
        { x with dq := (s.core l).dq, vfmt := (s.core l).vfmt, mxfmt := (s.core l).mxfmt }
      let g := (t.threadAt l k).g
      let t := t.mapThreadAt l k fun x => { x with pc := old.pc, g := old.g, mx := old.mx, status := old.status, opens := old.opens }
      match unitDest i with
      | some d => { { t with cur := .slot l k, ops := none }.setG d (g.get d.toFin) with cur := s.cur, ops := s.ops }
      | none => t
    | _ => s
  | _, _ => s

/-- An instruction runs on without a trap: the thread stands behind it, in the same mode. -/
def runsOn (s : State) : Out → Bool
  | .next t => t.thr.pc = s.adv.thr.pc && t.thr.status = s.adv.thr.status && t.thr.st = .running
  | _ => false

/-- An entry of the dispatch queue that no counter counts, of the moving thread, with what it samples: its number, and the state that has
it. -/
def State.unitCmd (s : State) (kind : CmdKind) : Nat × State :=
  let t := s.thr
  let c := s.cr
  let (id, s') := s.newId
  let cmd : Cmd := {
    id := id
    uid := t.uid
    loc := s.loc
    ctr := 0
    num := 0
    ctx := t.ctxid
    user := s.user
    winp := c.winp.toList
    gtid := t.gtid
    mx := t.mx
    cp := t.cp
    ni := t.ni
    stv := t.stv
    mxfmt := c.mxfmt
    mxsca := c.mxsca
    mxscb := c.mxscb
    inf8 := s.inf8
    tapeb := c.tapeb
    kind := kind
    barrier := none
    since := s.now
    performed := false
    begun := false
    placed := 0
    message := none
    fault := none }
  (id, { s' with cmds := s'.cmds ++ [cmd] })

/-! ### Vector memory forms in the queue (R161, R245, R257; log 90) -/

/-- R257: a vector memory form as it issues: whether it stores, its registers, the swizzle and the elements of its accesses, the addresses that
must be aligned, with the base, and to what (R104), the `v` register and the predicate that say which elements it has, and the pointer that it updates. -/
structure VForm where
  store : Bool
  reg : BitVec 5
  regs : Nat
  xs : Nat
  elems : Elems
  size : Nat
  base : Ptr
  aligned : List Ptr
  index : Option (BitVec 5)
  pred : BitVec 3
  update : BitVec 3 × Option Ptr

/-- R257: an indexed, strided or transposing form of elements of `n` bytes from a base. -/
def elementForm (store : Bool) (d : BitVec 5) (regs n : Nat) (x q : BitVec 3) (base : Ptr) (index : Option (BitVec 5)) (elems : Elems) : VForm :=
  ⟨store, d, regs, x.toNat, elems, n, base, elems.map (·.1), index, q, (0, none)⟩

/-- R255, R257: the form that an instruction is; none for an illegal one, and for the tile form, which waits for its tile. -/
def State.vectorForm (s : State) (i : Instr) : Option VForm :=
  let run := fun (store : Bool) (d : BitVec 5) (p : BitVec 3) (m : BitVec 2) (x : BitVec 3) (imm : BitVec 13) =>
    if legalMode2 m then
      let a := s.address p m imm 256
      some (⟨store, d, 1, x.toNat, [(a.1, 256, 0)], 1, a.1, [], none, 0, (p, a.2)⟩ : VForm)
    else none
  match i with
  | .vld d p m x imm => run false d p m x imm
  | .vst d p m x imm => run true d p m x imm
  | .vldx d a b q z x =>
    let n := 2 ^ z.toNat
    some (elementForm false d 1 n x q (s.p a) (some b) (indexedElems (s.q q) n (s.p a) (lanesOf n (s.v b))))
  | .vstx d a b q z x =>
    let n := 2 ^ z.toNat
    some (elementForm true d 1 n x q (s.p a) (some b) (indexedElems (s.q q) n (s.p a) (lanesOf n (s.v b))))
  | .vldw d a b q z x =>
    let n := 2 ^ z.toNat
    some (elementForm false d 1 n x q (s.p a) none (stridedElems (s.q q) n (s.p a) (s.g b)))
  | .vstw d a b q z x =>
    let n := 2 ^ z.toNat
    some (elementForm true d 1 n x q (s.p a) none (stridedElems (s.q q) n (s.p a) (s.g b)))
  | .vldt d a b q z x =>
    let n := 2 ^ z.toNat
    if d.toNat % 8 = 0 then some (elementForm false d 8 n x q (s.p a) none (transposedElems (s.q q) n (s.p a) (s.g b))) else none
  | _ => none

/-- R257: the registers of a form's group. -/
def VForm.group (f : VForm) : List Nat := (List.range f.regs).map fun j => (f.reg + BitVec.ofNat 5 j).toNat

/-- R245: the unit is still to write the index register or the predicate of a form; one of its registers is bound to a stream (R261). -/
def State.formWaits (s : State) (f : VForm) : Bool :=
  let named := f.group ++ (f.index.map (·.toNat)).toList
  let writes := fun (c : Cmd) => match c.kind with
    | .unit w _ _ _ _ => match decodeUnit w with
      | some i => f.index.any (fun r => unitVector i = some r.toNat) || (f.pred ≠ 0 && unitPred i = some f.pred.toNat)
      | none => false
    | .vmem _ store d regs _ => !store && f.index.any fun r => ((List.range regs).map fun j => (d + BitVec.ofNat 5 j)).contains r
    | _ => false
  s.thr.streams.any (fun x => named.contains x.reg) || s.cmds.any fun c => c.uid = s.thr.uid && writes c

/-- R257, R89: the bytes that the elements of a form move, translated and checked (R245); it ends where some of them lie in no memory of the
core's module, or in a message window. -/
def planElems (w : Who) (k : AccessKind) (xs : Nat) : Elems → M (List VPlace)
  | [] => pure []
  | (va, n, lane) :: rest => do
    if isMessageWindow va then throw .ended
    let here ← mapPieces w k va xs n (fun p => do
      if p.inRegisters || p.parts.any fun x => paModule x.1 ≠ locModule w.loc || !(kindReach w.path w.eth (paKind x.1)) then throw .ended
      checkPiece w p
      pure (p.parts.map fun x => (⟨p.va + BitVec.ofNat 80 x.2.1, x.1, p.slot, lane + p.off + x.2.1, x.2.2⟩ : VPlace))) n 0
    let more ← planElems w k xs rest
    pure (here ++ more)

/-- R161, R245: the places of a form, all checked as it issues (R204). -/
def planForm (f : VForm) : M (List VPlace) := do
  let k : AccessKind := if f.store then .store else .load
  gate .c
  checkElems k f.base f.size f.aligned
  planElems (← get).coreWho k f.xs f.elems

/-- R161: a vector memory form enters the queue with what it is to move, where nothing stands against it: none where it must act as it issues. -/
def State.enqueueForm (s : State) (i : Instr) : Option State :=
  match s.vectorForm i with
  | none => none
  | some f =>
    if s.formWaits f then none
    else match (planForm f).run ((s.drain s.loc s.slotNo).performReleased) with
      | .ok places t =>
        let (id, t) := t.unitCmd (.vmem s.word f.store f.reg f.regs places)
        let t := match f.update with
          | (p, some x) => t.setP p x
          | (_, none) => t
        some (t.dispatch s.loc id).adv
      | _ => none

/-- R161: a vector memory form has acted while others' commands stand in its core's queue: it takes its place behind them. -/
def State.holdPlace (s : State) (i : Instr) : Out → Out
  | .next t =>
    if vectorMemory i && !s.cr.dq.isEmpty && runsOn s (.next t) && t.thr.uid = s.thr.uid then
      let (id, t) := t.unitCmd (.vmem s.word false 0 0 [])
      .next (t.dispatch t.loc id)
    else .next t
  | o => o

/-- R245: a command of the task stands in its core's queue that comes before a form of it: any but `mx.hand`, which moves no byte and no `v`
register. -/
def State.queuedBefore (s : State) : Bool :=
  s.cr.dq.any fun id => match s.cmd id with
    | some c => c.uid = s.thr.uid && match c.kind with
      | .mxHand _ => false
      | .vmem _ _ _ _ [] => false
      | _ => true
    | none => false

/-- R161, R245: how an instruction runs that has come to issue: a vector memory form enters its core's queue behind what stands there, or, where it
must act as it issues (a trap, bytes of another module or of registers, a stream), waits for its thread's earlier commands there. -/
def State.throughQueue (s : State) (i : Instr) (run : State → Out) : Out :=
  if !(vectorMemory i) || s.cr.dq.isEmpty || (s.thr.issuedAt s.pc).isSome then run s
  else match s.enqueueForm i with
    | some t => .next t
    | none => if s.queuedBefore then .next s.unissued else s.holdPlace i (run s)

/-! ### Instructions of the unit in the queue -/

/-- R261: how many instructions of a task in the queue move on a stream: those that write the register of a write stream, those that name that of
a read stream. -/
def State.queuedOn (s : State) (uid : Nat) (x : Stream) : Nat :=
  ((s.queuedUnits uid).filter fun w => match decodeUnit w with
    | some i => if x.write then unitVector i = some x.reg else (vFields i).contains x.reg
    | none => false).length

/-- R261: the streams as the unit will find them once it has executed what the thread has in the queue. -/
def State.streamsAhead (s : State) : State :=
  s.mapThr fun t => { t with streams := t.streams.map fun x =>
    let n := s.queuedOn t.uid x
    { x with used := x.used + n, ready := if x.write then x.ready else x.ready.drop n } }

/-- R261: the chunks that an instruction consumes have arrived. -/
def State.chunksReady (s : State) (i : Instr) : Bool :=
  s.streamsAhead.thr.streams.all fun x => x.write || !((vFields i).contains x.reg) || !x.ready.isEmpty

/-- R161, R245: an instruction of the unit comes to issue behind others: a full queue, or a chunk that has not arrived (R261), stalls it; one that
traps does so when nothing of its thread is left in the queue; else it samples what it reads and enters the queue, and the thread goes
on. -/
def State.queueUnit (s : State) (i : Instr) : Out :=
  match unitMeaning i with
  | none => .next s.unissued
  | some f =>
    let t := s.thr
    let c := s.cr
    if 8 ≤ c.dq.length then .next s.unissued
    else
      let (id, s') := s.unitCmd (.unit s.word s.pc s.gSample c.vfmt c.mxfmt)
      let trial := { s.streamsAhead with ops := none }.mapCr fun x => { x with dq := [] }
      let out := f (trial.mapThr fun t => { t with opens := t.opens.filter fun o => o.cls ≠ .mx })
      if runsOn s out then (if s.chunksReady i then .next (s'.dispatch s.loc id).adv else .next s.unissued)
      else if (s.queuedUnits t.uid).isEmpty then
        match out with
        | .next x => .next ((x.mapCore s.loc fun y => { y with dq := c.dq }).mapThreadAt s.loc s.slotNo fun y => { y with opens := t.opens })
        | o => o
      else .next s.unissued

/-- R245, R257: the unit executes a vector memory form: its bytes move between memory and the registers of its thread. -/
def State.runMemory (s : State) (c : Cmd) (store : Bool) (d : BitVec 5) (regs : Nat) (places : List VPlace) : State :=
  let s := { s with cmds := s.cmds.filter fun x => x.id ≠ c.id }
  match s.placeOf c.uid with
  | some (.slot l k) =>
    let group := (List.range regs).map fun j => d + BitVec.ofNat 5 j
    let old := group.flatMap fun r => vecBytes ((s.threadAt l k).v.get r.toFin)
    if store then
      places.foldl (fun s x => s.homeWrite (some l) x.slot x.pa ((old.drop x.lane).take x.len)) s
    else
      let (new, s) := places.foldl (fun (b : List Byte × State) x =>
        let (data, s) := b.2.homeRead (some l) x.slot x.pa x.len
        (placeBytes b.1 x.lane data, s)) (old, s)
      s.mapThreadAt l k fun t => { t with v := (List.range regs).foldl (fun v j =>
        let r := d + BitVec.ofNat 5 j
        v.set r.toNat (vecOfBytes ((new.drop (256 * j)).take 256)) r.isLt) t.v }
  | _ => s

/-! ### The unit serves its queues (R161, R312, R321, R327) -/

/-- R312, R323: the accumulator tile that an entry of the queue names, of the core's own commands. -/
def CmdKind.names (k : CmdKind) : Option Nat :=
  match k with
  | .unit w _ _ _ _ => match decodeUnit w with
    | some (.mxRd _ _ c) => some c.toNat
    | _ => none
  | k => k.tile

/-- R312, R321, R324: what the unit does not start yet: a command of the core's own, or `mx.rd`, whose tile an earlier one is still to write,
`mx.hand` while no slot is free, `mx.prog` while an earlier matrix command of its thread is open. -/
def State.heldCommand (s : State) (l : Loc) (id : Nat) : Bool :=
  match s.cmd id with
  | some c => (c.kind.names.any fun t => s.tileBusy l t) || match c.kind with
    | .mxHand _ => 16 ≤ (s.core l).hand.length
    | .unit w _ _ _ _ => isProg w && s.openMx c.uid id
    | _ => false
  | none => false

/-- R161: the core whose queue the unit serves next: round-robin from its turn, past empty and held queues. -/
def State.nextQueue (s : State) (ck u : Nat) : Option (Loc × Nat) :=
  let turn := ((s.cluster ck).turn.getD u 0).toNat
  (List.range 4).findSome? fun i =>
    let l := ck * 16 + 4 * u + (turn + i) % 4
    match (s.core l).dq with
    | [] => none
    | id :: _ => if s.heldCommand l id then none else some (l, id)

/-- A sent command that waits for room in a core's queue. -/
def State.waitingSend (s : State) (l : Loc) : Option Cmd :=
  s.cmds.find? fun c => !c.begun && !c.performed &&
    match c.kind with
    | .mxSend target _ _ _ _ => target = l
    | _ => false

/-- A command has performed, with its fault if it met one; it completes at a step of its own. -/
def State.performed (s : State) (id : Nat) (f : Option FaultRec) : State :=
  (s.mapCmd id fun c => { c with performed := true, fault := f }).push (.engineCompletion id)

/-- R161: the unit starts the next command of a dispatch queue and executes it. -/
def serve (ck u : Nat) : M Unit := do
  let s ← get
  match s.nextQueue ck u with
  | none => pure ()
  | some (l, id) => do
    let s := s.mapCore l fun c => { c with dq := c.dq.tail }
    let s := s.mapCluster ck fun c => { c with turn := c.turn.setIfInBounds u (BitVec.ofNat 2 (locCore l + 1)) }
    let s := match s.waitingSend l with
      | some c => s.push (.mxSendArrival c.id)
      | none => s
    set s
    match s.cmd id with
    | none => pure ()
    | some c =>
      match c.kind with
      | .unit w pc g vfmt mxfmt => modify fun s => s.runUnit c w pc g vfmt mxfmt
      | .vmem _ store d regs places => modify fun s => s.runMemory c store d regs places
      | .mxSend _ _ w opa opb => do
        let f ← match sentKind w opa opb with
          | some k => performMx c false k
          | none => pure none
        modify fun s => s.performed id f
      | k => do
        let later ← modifyGet fun s => s.choose 2
        if k.overlaps && later = 1 then modify fun s => (s.mapCmd id fun c => { c with begun := true }).push (.engineCompletion id)
        else do
          let f ← performMx c true k
          modify fun s => s.performed id f
    modify fun s => if (s.nextQueue ck u).isSome then s.push (.dispatchServe ck u) else s

/-- R326: the capability check of a sent command at its target. -/
def capabilityOk (c : Core) (ctx : BitVec 16) (cap : Word) (w : BitVec 32) : Bool :=
  bit c.mxcapctl 63 && cap = c.mxcapkey && bit c.mxcapctl (bits w 3 0) && bits c.mxcapctl 47 32 = ctx.toNat

/-- A fault of a command that has no address: the VA of its record is a free value (log 18). -/
def State.failCommand (s : State) (c : Cmd) (cause outcome : Nat) : State :=
  let (v, s) := s.freeWord
  s.performed c.id (some (c.record 0 0 (trapInfo cause outcome (v.zeroExtend 80))))

/-- R327: a sent command arrives. One that finds the queue full is tried again, its capability checked anew (log 107: DESIGN CHOICE). -/
def State.mxSendArrival (s : State) (id : Nat) : State :=
  match s.cmd id with
  | none => s
  | some c =>
    match c.kind with
    | .mxSend target cap w _ _ =>
      if c.begun || c.performed then s
      else if s.cutOff (locModule c.loc) (locModule target) || !(s.coreThere target) then s.failCommand c 0x0B 0
      else if !(capabilityOk (s.core target) c.ctx cap w) then s.failCommand c 0x0E 0x26
      else if 8 ≤ (s.core target).dq.length || s.routePaused (locModule c.loc) (locModule target) then s
      else
        let (a, b) := (locModule c.loc, locModule target)
        let s := if a = b then s else (s.sendPacket a b 64).sendPacket b a 0
        (s.mapCmd id fun c => { c with begun := true }).dispatch target id
    | _ => s

end Sys2Proof.Machine
end

