-- ==== Sys2Proof/Machine/Fabric.lean ====
section
/-! DEFINITION. NI commands (R331, R332, R336, R337, R441): remote buffers, sparse sends, the forward transfers at acceptance and as
they proceed, and the tape that records them (R338-R342). -/

namespace Sys2Proof.Machine

/-! ### NI engine registers (R331) -/

def niList (r : Vector Ptr 4) : Ptr := r.get 0
def niIdx (r : Vector Ptr 4) : Ptr := r.get 1
def niPart (r : Vector Ptr 4) : Nat := bits (r.get 2) 63 48
def niFmt (r : Vector Ptr 4) : Nat := bits (r.get 2) 44 40
def niRwm1 (r : Vector Ptr 4) : Nat := bits (r.get 2) 39 28
def niCount (r : Vector Ptr 4) : Nat := bits (r.get 2) 27 0
def niGlb (r : Vector Ptr 4) : Bool := bit (r.get 3) 7
def niHq (r : Vector Ptr 4) : Bool := bit (r.get 3) 6
def niAdd (r : Vector Ptr 4) : Bool := bit (r.get 3) 5
def niSat (r : Vector Ptr 4) : Bool := bit (r.get 3) 4
def niMode (r : Vector Ptr 4) : Nat := bits (r.get 3) 2 0

/-- The reserved bits of NIGEO and NICTL are zero. -/
def niReservedZero (r : Vector Ptr 4) : Bool := bits (r.get 2) 47 45 = 0 && bits (r.get 3) 63 8 = 0 && !(bit (r.get 3) 3)

/-! ### Ranks and remote buffers (R332) -/

/-- R163, R164, R332: where a rank's cluster and team region are, none when the rank is unreachable. While it moves, and
while a reconfiguration holds the route to it (R410), its traffic waits. -/
def resolveRank (l : Loc) (team : BitVec 32) (rank : BitVec 20) : M (Option (Loc × Nat)) := do
  match ← placement l team rank with
  | none => pure none
  | some e =>
    match entryState e with
    | 1 => do
      let s ← get
      if s.cutOff (locModule l) (locModule (entryLoc e)) then pure none
      else if s.routePaused (locModule l) (locModule (entryLoc e)) then stall
      else pure (some (entryLoc e, entryRegion e))
    | 2 => stall
    | _ => pure none

/-- R332: bytes that an NI command reaches: at an address, or at an offset of a cluster's SP2. -/
inductive Buf where
  | va (a : Ptr)
  | sp2 (l : Loc) (off : Nat)
deriving DecidableEq, Repr

/-- A buffer in a team region as one piece; an offset beyond SP2 stays beyond it. -/
def sp2Piece (l : Loc) (off n : Nat) : Piece :=
  ⟨windowPtr (locModule l) (locDie l) 2 (locCluster l) 0 off, 0, n, 0, true, [(sp2Pa (locClusterKey l) (min off (2 ^ 36 - 1)), 0, n)]⟩

def Buf.read (w : Who) (n : Nat) : Buf → M (List Byte)
  | .va a => memRead w a n 0
  | .sp2 l off => do
    let p := sp2Piece l off n
    checkPiece w p
    across w p 0 n (readParts w 0 p.parts)

def Buf.write (w : Who) (data : List Byte) : Buf → M Unit
  | .va a => memWrite w a data 0
  | .sp2 l off => do
    let p := sp2Piece l off data.length
    checkPiece w p
    across w p data.length 0 (writeParts w 0 data p.parts)

/-- R76: an element atomic. -/
def Buf.atomic (w : Who) (n : Nat) (f : List Byte → M (Option (List Byte))) : Buf → M Unit
  | .va a => do
    let _ ← memAtomic w a n 0 f
    pure ()
  | .sp2 l off => do
    let p := sp2Piece l off n
    if off % n ≠ 0 then raise (accessTrap 0x04 0x01 0 p.va)
    checkPiece w p
    let _ ← across w p n n (atomicParts w 0 p.parts f)
    pure ()

/-- An access to a rank or module that cannot be reached (R82); without an address the VA is a free value (log 18). -/
def unreachableTrap {α : Type} : M α := do
  let (v, s) := (← get).freeWord
  set s
  raise (accessTrap 0x0B 0 0 (v.zeroExtend 80))

/-- R332: the place `off` bytes into the remote buffer X of a rank, none when the rank is unreachable. -/
def remoteBuf (c : Cmd) (l : Loc) (glb : Bool) (local_ : Ptr) (x : Word) (rank : Nat) (off : Nat) : M (Option Buf) := do
  if glb then pure (some (.va (BitVec.ofNat 80 (bits local_ 79 64 * 2 ^ 64 + x.toNat) + BitVec.ofNat 80 off)))
  else
    match ← resolveRank l (teamOf c.gtid) (BitVec.ofNat 20 rank) with
    | none => pure none
    | some (at_, reg) => pure (some (.sp2 at_ ((reg * 4096 + x.toNat + off) % 2 ^ 64)))

/-- The same, ending with a fault when the rank is unreachable. -/
def needBuf (c : Cmd) (l : Loc) (glb : Bool) (local_ : Ptr) (x : Word) (rank : Nat) (off : Nat) : M Buf := do
  match ← remoteBuf c l glb local_ x rank off with
  | some b => pure b
  | none => unreachableTrap

/-! ### `sndz` (R336) -/

/-- R336: the lanes of a block in order of magnitude: NaN above infinity, the lower lane between equals. -/
def largestTwo (f : Float.Fmt) (v : Vec) (e first n : Nat) : List Nat :=
  let size := fun (i : Nat) => min (lane v e i % 2 ^ (8 * e - 1)) (Float.infCode f + 1)
  let best := fun (skip : Option Nat) => (List.range n).foldl (fun (b : Option Nat) i =>
    let i := first + i
    if skip = some i then b
    else match b with
      | none => some i
      | some j => if size j < size i then some i else b) none
  match best none with
  | none => []
  | some i => match best (some i) with
    | none => [i]
    | some j => if i < j then [i, j] else [j, i]

/-- R336. -/
def acceptSndz (a v : BitVec 5) (k : BitVec 3) (f : BitVec 1) (x : BitVec 5) : M Unit := do
  let pk ← if (← get).ops.isSome then pure [] else peekStreams [v.toNat]
  let s ← get
  let id ← accept k .cp .n (.sndz (BitVec.ofNat 20 (s.gA a).toNat) (s.source pk v) (f = 1) (s.gC x)) none
  modify fun s => (s.consume pk).push (.sndzArrival id)

def execSndz (a v : BitVec 5) (k : BitVec 3) (f : BitVec 1) (x : BitVec 5) (s : State) : Out := runCAdv (acceptSndz a v k f x) s

/-- R336: the additions that the receiving NI performs, in ascending lane order. -/
def sndzWork (c : Cmd) (rank : BitVec 20) (v : Vec) (bf : Bool) (x : Word) : M Unit := do
  let f := if bf then Float.bf16 else Float.f32
  let e := if bf then 2 else 4
  let n := 256 / e
  let lanes := (List.range 4).flatMap fun b => largestTwo f v e (b * (n / 4)) (n / 4)
  forUpTo (fun j => do
    let i := lanes.getD j 0
    let b ← needBuf c c.loc false 0 x rank.toNat (i * e)
    b.atomic c.niWho e fun old => do
      let (code, fl, _) := Float.combine f false 0 false 0 0 (ofBytes old) (lane v e i)
      modify fun s => s.raiseVF c.loc fl
      pure (some (toBytes e code))) lanes.length 0

/-! ### The tape (R338-R342) -/

/-- R340: a handle. -/
def handleOf (ck slot : Nat) (gen : BitVec 16) : Word :=
  BitVec.ofNat 64 (gen.toNat * 2 ^ 48 + ck / 2 ^ 10 * 2 ^ 38 + ck / 2 ^ 6 % 16 * 2 ^ 34 + ck % 64 * 2 ^ 28 + slot)

def handleNi (h : Word) : Nat := bits h 47 38 * 2 ^ 10 + bits h 37 34 * 2 ^ 6 + bits h 33 28
def handleGen (h : Word) : BitVec 16 := BitVec.ofNat 16 (bits h 63 48)
def handleSlot (h : Word) : Nat := bits h 9 0

/-- R340: the generation of a slot after an allocation. -/
def nextGen (g : BitVec 16) : BitVec 16 := if g = 0xFFFF then 1 else g + 1

/-- R339: the first place of `n` units of list space that is free, in a region of `len` times 64 KiB. -/
def firstFit (tape : List TapeEntry) (len n : Nat) : Option Nat :=
  let used := (tape.filter fun e => e.units ≠ 0).map fun e => (e.list, e.units)
  let ok := fun (u : Nat) => decide (u + n ≤ len * 1024) && used.all fun x => decide (u + n ≤ x.1 ∨ x.1 + x.2 ≤ u)
  ((1024 :: used.map fun x => x.1 + x.2).filter ok).foldl (fun (b : Option Nat) u =>
    match b with
    | none => some u
    | some v => some (min u v)) none

/-- R341: why a recording exceeds the quota, if it does, else its list space. -/
def Cluster.quota (c : Cluster) (tapeb tapel : Word) (n : Nat) : Except Nat Nat :=
  if tapel.toNat < 2 || c.tape.any (fun e => e.tapeb ≠ tapeb || e.tapel ≠ tapel) then .error 3
  else if 1024 ≤ c.tape.length then .error 2
  else if n = 0 then .ok 0
  else match firstFit c.tape tapel.toNat n with
    | none => .error 1
    | some u => .ok u

/-- R441: the units of list space that a recording takes at acceptance. -/
def listUnits (kind : Nat) (r : Vector Ptr 4) : Nat :=
  let most := if kind = 1 then niPart r else niCount r
  let bytes := (if kind = 1 then 0 else 8 * niCount r) + (if niGlb r then 0 else 4 * (most - 8))
  (bytes + 63) / 64

/-- R341, R342: a transfer recorded at acceptance: its slot and generation. The slot, of those free, is the part's choice
(log 18). -/
def State.recordEntry (s : State) (kind : Nat) (r : Vector Ptr 4) (l : Ptr) (x : Word) (at_ : Nat) : Nat × BitVec 16 × State :=
  let ck := locClusterKey s.loc
  let c := s.cluster ck
  let free := (List.range 1024).filter fun n => !(c.tape.any fun e => e.slot = n)
  let (i, s) := s.choose free.length
  let slot := free.getD i 0
  let gen := nextGen ((c.tapeGen.find? slot).getD 0)
  let e : TapeEntry := ⟨slot, gen, kind, niFmt r, niGlb r, niHq r, niCount r, niRwm1 r, teamOf s.thr.gtid, l, rankOf s.thr.gtid, x, at_,
    listUnits kind r, 0, [], s.cr.tapeb, s.cr.tapel, s.actCtx, true⟩
  (slot, gen, s.mapCluster ck fun c => { c with tape := c.tape ++ [e], tapeGen := c.tapeGen.put slot gen })

/-- R342: the 64 bytes of a header. NPART, of 16 bits, shows 65,535 where there are more participants (log 110: DESIGN CHOICE). -/
def TapeEntry.header (e : TapeEntry) : List Byte :=
  [BitVec.ofNat 8 e.kind, BitVec.ofNat 8 e.fmt, BitVec.ofNat 8 ((if e.glb then 1 else 0) + (if e.hq then 2 else 0)), 0] ++
  toBytes 4 e.count ++ toBytes 2 e.rwm1 ++ toBytes 2 (min e.npart 65535) ++ toBytes 4 e.team.toNat ++ toBytes 10 e.l.toNat ++
  toBytes 2 e.gen.toNat ++ toBytes 4 e.owner.toNat ++ toBytes 8 e.x.toNat ++ toBytes 4 e.list ++
  toBytes 20 ((e.ranks.zipIdx.map fun p => p.1 % 2 ^ 20 * 2 ^ (20 * p.2)).sum)

/-! ### Forward transfers at acceptance (R337) -/

/-- R337: the registers are within their limits. -/
def transferLegal (kind : Nat) (r : Vector Ptr 4) : Bool :=
  niReservedZero r && decide (niMode r ≤ 4) && Float.fmtBytes (niFmt r) ≠ 0 && niCount r ≠ 0 &&
  (kind ≠ 1 || decide (1 ≤ niPart r ∧ niPart r ≤ 4096)) && (kind = 5 || niRwm1 r = 0) &&
  (!(kind = 4 || niAdd r) || addFmt (niFmt r))

/-- R321, R337: the elements taken from the thread's hand-off queue, its slot freed; the unit may start a hand-off that waited. -/
def takeHand (r : Vector Ptr 4) : M (List Nat) := do
  let s ← get
  let uid := s.thr.uid
  match s.cr.hand.find? fun h => h.uid = uid with
  | none =>
    if s.cmds.any fun c => c.uid = uid && !c.performed && match c.kind with
      | .mxHand _ => true
      | _ => false
    then stall
    else badOperand 0x05
  | some h => do
    check (h.fmt = niFmt r && niCount r * (niRwm1 r + 1) = 1024) 0x06
    set ((s.mapCr fun c => { c with hand := removeFirst h c.hand }).push (.dispatchServe (locClusterKey s.loc) (unitOf s.loc)))
    pure h.codes

/-- R341: what becomes of a transfer that exceeds the quota: it is accepted untaped, refused with the reason in G[H], or
traps. -/
def overQuota (reason : Nat) (h : BitVec 5) : M Bool := do
  let s ← get
  match bits s.cr.tapep 1 0 with
  | 0 => do
    set (s.setG h (BitVec.ofNat 64 reason))
    pure false
  | 1 => do
    set ((s.mapCr fun c => { c with tstat := c.tstat ||| 1 }).setG h 0)
    pure true
  | _ => raise (trapInfo 0x10 reason 0)

/-- R337, R341: a forward transfer at acceptance. -/
def acceptTransfer (nsc : Bool) (kind : Nat) (x sel : BitVec 5) (k : BitVec 3) (r : BitVec 1) (h : BitVec 5) : M Unit := do
  let s ← get
  let ni := s.thr.ni
  let kind := if nsc && niAdd ni then 4 else kind
  check (transferLegal kind ni) 0x06
  check (!(kind = 1 && niGlb ni)) 0x05
  gate .n
  let before ← get
  let hand ← if niHq ni && kind ≠ 2 then some <$> takeHand ni else pure none
  let s ← get
  let (l, gx) := (s.pB sel, s.gA x)
  let go := fun (tape : Option (Nat × BitVec 16)) => (do
    let id ← accept k .cp .n (.transfer kind gx l tape hand) none
    modify fun s => s.push (.engineCompletion id) : M Unit)
  if r = 1 then
    match s.cl.quota s.cr.tapeb s.cr.tapel (listUnits kind ni) with
    | .ok u => do
      let (slot, gen, s) := s.recordEntry kind ni l gx u
      set (s.setG h (handleOf (locClusterKey s.loc) slot gen))
      go (some (slot, gen))
    | .error reason => do
      set before
      if ← overQuota reason h then
        let _ ← if niHq ni && kind ≠ 2 then takeHand ni else pure []
        go none
  else go none

def acceptNmc (x sel : BitVec 5) (k : BitVec 3) (r : BitVec 1) (h : BitVec 5) : M Unit := acceptTransfer false 1 x sel k r h
def acceptNgt (x sel : BitVec 5) (k : BitVec 3) (r : BitVec 1) (h : BitVec 5) : M Unit := acceptTransfer false 2 x sel k r h
def acceptNsc (x sel : BitVec 5) (k : BitVec 3) (r : BitVec 1) (h : BitVec 5) : M Unit := acceptTransfer true 3 x sel k r h
def acceptNa2a (x sel : BitVec 5) (k : BitVec 3) (r : BitVec 1) (h : BitVec 5) : M Unit := acceptTransfer false 5 x sel k r h

def execNmc (x sel : BitVec 5) (k : BitVec 3) (r : BitVec 1) (h : BitVec 5) (s : State) : Out := runCAdv (acceptNmc x sel k r h) s
def execNgt (x sel : BitVec 5) (k : BitVec 3) (r : BitVec 1) (h : BitVec 5) (s : State) : Out := runCAdv (acceptNgt x sel k r h) s
def execNsc (x sel : BitVec 5) (k : BitVec 3) (r : BitVec 1) (h : BitVec 5) (s : State) : Out := runCAdv (acceptNsc x sel k r h) s
def execNa2a (x sel : BitVec 5) (k : BitVec 3) (r : BitVec 1) (h : BitVec 5) (s : State) : Out := runCAdv (acceptNa2a x sel k r h) s

/-! ### Forward transfers as they proceed (R337, R441) -/

/-- R441: entries of `w` bytes of a list, in order up to one that cannot be read: the entries and the fault with its
position. -/
def readList (c : Cmd) (base : Ptr) (w : Nat) : Nat → Nat → M (List Nat × Option FaultRec)
  | 0, _ => pure ([], none)
  | n + 1, i => do
    match ← attempt (memRead c.niWho (base + BitVec.ofNat 80 (w * i)) w 0) with
    | .ok b => do
      let (rest, f) ← readList c base w n (i + 1)
      pure (ofBytes b :: rest, f)
    | .error (.trap t) => pure ([], some (c.record 0 i t))
    | .error e => throw e

/-- Runs the items of a command in order. After the first that faults the part stops or goes on as it chooses (logs 18, 19); the
record is the first one's. -/
def eachItem {α : Type} (c : Cmd) (f : Nat → α → M Unit) : List α → Nat → Option FaultRec → M (Option FaultRec)
  | [], _, r => pure r
  | a :: rest, i, r => do
    match r, ← work c i (f i a) with
    | none, some x => do
      let n ← modifyGet fun s => s.choose 2
      if n = 0 then pure (some x) else eachItem c f rest (i + 1) (some x)
    | r, _ => eachItem c f rest (i + 1) r

/-- R337: an index or route entry that is skipped. -/
def skippedEntry (e : Nat) : Bool := e = 2 ^ 64 - 1

/-- R337: the rank and the index or slot of an entry; under GLB a route entry, like an index entry, is one number of 64 bits (log 108: DESIGN
CHOICE). -/
def entryRank (e : Nat) : Nat := e / 2 ^ 32 % 2 ^ 20
def entryIndex (glb : Bool) (e : Nat) : Nat := if glb then e else e % 2 ^ 32

/-- R344, R342: the distinct ranks of a list in order of first appearance. -/
def distinctRanks (l : List Nat) : List Nat :=
  l.foldl (fun acc e => if skippedEntry e || acc.contains (entryRank e) then acc else acc ++ [entryRank e]) []

/-- Source bytes of a transfer: from the hand-off slot, or read at the local buffer. -/
def sourceBytes (c : Cmd) (l : Ptr) (hand : Option (List Nat)) (e off n : Nat) : M (List Byte) :=
  match hand with
  | some codes => pure (((codes.drop (off / e)).take (n / e)).flatMap fun x => toBytes e x)
  | none => memRead c.niWho (l + BitVec.ofNat 80 off) n 0

/-- R337: what one participant or list entry of a transfer moves; a participant entry is used by its bits [19:0] (log 108: DESIGN CHOICE). -/
def moveItem (c : Cmd) (kind : Nat) (x : Word) (l : Ptr) (hand : Option (List Nat)) (i entry : Nat) : M Unit := do
  let r := c.ni
  let fmt := niFmt r
  let e := Float.fmtBytes fmt
  let glb := niGlb r
  let idx := entryIndex glb entry
  let rank := entryRank entry
  match kind with
  | 1 => do
    let b ← needBuf c c.loc false l x (entry % 2 ^ 20) 0
    let data ← sourceBytes c l hand e 0 (e * niCount r)
    b.write c.niWho data
  | 2 =>
    if skippedEntry entry then pure ()
    else do
      let b ← needBuf c c.loc glb l x rank (idx * e)
      let data ← b.read c.niWho e
      memWrite c.niWho (l + BitVec.ofNat 80 (i * e)) data 0
  | 5 =>
    if skippedEntry entry then pure ()
    else do
      let rb := (niRwm1 r + 1) * e
      let b ← needBuf c c.loc glb l x rank (idx * rb)
      let data ← sourceBytes c l hand e (i * rb) rb
      b.write c.niWho data
  | _ =>
    if skippedEntry entry then pure ()
    else do
      let b ← needBuf c c.loc glb l x rank (idx * e)
      let data ← sourceBytes c l hand e (i * e) e
      if kind = 4 then
        b.atomic c.niWho e fun old => do
          let (new, fl) ← addElement c fmt (niMode r) (niSat r) old data
          modify fun s => s.raiseVF c.loc fl
          pure (some new)
      else b.write c.niWho data

/-- R441: the lists of a recorded transfer laid down, the header completed and the space left over freed. -/
def layDown (c : Cmd) (kind slot : Nat) (gen : BitVec 16) (got : List Nat) : M Unit := do
  let ck := locClusterKey c.loc
  let entries := if kind = 1 then [] else got ++ List.replicate (niCount c.ni - got.length) (2 ^ 64 - 1)
  let ranks := if kind = 1 then got.map (· % 2 ^ 20) else if niGlb c.ni then [] else distinctRanks got
  let blob := (entries.flatMap fun x => toBytes 8 x) ++ (ranks.drop 8).flatMap fun x => toBytes 4 x
  match (← get).cluster ck |>.tape.find? fun e => e.slot = slot && e.gen = gen with
  | none => pure ()
  | some t => do
    modify fun s => s.mapCluster ck fun x => { x with tape := x.tape.map fun e =>
      if e.slot = slot && e.gen = gen then
        { e with reading := false, npart := ranks.length, ranks := ranks.take 8, list := if blob.isEmpty then 0 else e.list,
                 units := (blob.length + 63) / 64 }
      else e }
    if !blob.isEmpty then memWrite c.niWho (t.tapeb.zeroExtend 80 + BitVec.ofNat 80 (64 * t.list)) blob 0

/-- R337, R441: a forward transfer, whole. A fault in writing the lists into the tape region does not end it, and is recorded with ROW 0 unless
another is (log 109: DESIGN CHOICE). -/
def performTransfer (c : Cmd) (kind : Nat) (x : Word) (l : Ptr) (tape : Option (Nat × BitVec 16)) (hand : Option (List Nat)) :
    M (Option FaultRec) := do
  let (got, lf) ← if kind = 1 then readList c (niList c.ni) 4 (niPart c.ni) 0 else readList c (niIdx c.ni) 8 (niCount c.ni) 0
  let tf ← match tape with
    | some (slot, gen) => work c 0 (layDown c kind slot gen got)
    | none => pure none
  let mf ← eachItem c (moveItem c kind x l hand) got 0 none
  pure (match mf, lf, tf with
    | some f, _, _ => some f
    | none, some f, _ => some f
    | none, none, f => f)

end Sys2Proof.Machine
end

