-- ==== Sys2Proof/Machine/Tape.lean ====
section
/-! DEFINITION. Tape replay (R343-R345), `tfree` and `tinfo` (R347), and collectives on recorded trees (R348, R349). -/

namespace Sys2Proof.Machine

/-! ### Handles (R343) -/

/-- R340: the null handle or a refusal status. -/
def nullHandle (h : Word) : Bool := h = 0 || (handleGen h = 0 && decide (1 ≤ handleSlot h ∧ handleSlot h ≤ 3))

/-- R343: the live entry that a handle names for the issuing task, or the outcome of STALE_HANDLE. -/
def State.entryOf (s : State) (h : Word) : Except Nat TapeEntry :=
  if nullHandle h then .error 0
  else if s.cutOff (locModule s.loc) (handleNi h / 2 ^ 10) then .error 3
  else match (s.cluster (handleNi h)).tape.find? fun e => e.slot = handleSlot h && e.gen = handleGen h with
    | none => .error 1
    | some e => if e.team = teamOf s.thr.gtid then .ok e else .error 2

/-- R423: an access to an entry of a tape store meets an error: it is corrected, or the access fails with the VA a free value
(log 18). -/
def tapeError (ck slot : Nat) : M Unit := do
  let s ← get
  match s.softAt (.tape ck slot) with
  | some true => do
    let (v, s) := (s.softMet (ck / 2 ^ 6) 1 (.tape ck slot)).freeWord
    set s
    raise (trapInfo 0x09 0x10 (v.zeroExtend 80))
  | some false => set (s.softMet (ck / 2 ^ 6) 0 (.tape ck slot))
  | none => pure ()

/-- R343, R441: the entry, ending with STALE_HANDLE; one whose lists are still being read is waited for. -/
def needEntry (h : Word) : M TapeEntry := do
  match (← get).entryOf h with
  | .error o => raise (trapInfo 0x13 o (h.zeroExtend 80))
  | .ok e => do
    tapeError (handleNi h) e.slot
    if e.reading then stall else pure e

/-- An entry and its lists freed. -/
def State.freeEntry (s : State) (ck : Nat) (e : TapeEntry) : State :=
  s.mapCluster ck fun c => { c with tape := c.tape.filter fun x => !(x.slot = e.slot && x.gen = e.gen) }

/-- R347. -/
def tfreeM (h : BitVec 5) : M Unit := do
  let w := (← get).g h
  let e ← needEntry w
  modify fun s => s.freeEntry (handleNi w) e

def execTfree (h : BitVec 5) (s : State) : Out := runAdv (tfreeM h) s

/-- R347: bytes 8w to 8w + 7 of the header. -/
def tinfoM (d h : BitVec 5) (w : BitVec 3) : M Unit := do
  let e ← needEntry ((← get).g h)
  modify fun s => s.setG d (BitVec.ofNat 64 (leAt e.header (8 * w.toNat) 8))

def execTinfo (d h : BitVec 5) (w : BitVec 3) (s : State) : Out := runAdv (tinfoM d h w) s

/-! ### Replay at acceptance (R343) -/

/-- R343: a format that a replay takes. -/
def replayFmt (c : Nat) : Bool := decide (8 ≤ c ∧ c ≤ 0x0A) || (0x11 ≤ c && c ≤ 0x17) || (0x19 ≤ c && c ≤ 0x1F)

/-- R343: a replay block within its limits. -/
def replayBlock (b : List Byte) : Bool :=
  (leAt b 12 1 = 0x0A || leAt b 12 1 = 0x0E) && decide (leAt b 13 1 % 8 ≤ 4) && decide (leAt b 13 1 < 16) && decide (leAt b 14 1 < 8) &&
  decide (leAt b 15 1 < 2) && zeroBytes b 26 38

/-- R343: the latch, the block, the handle, the format, in this order. -/
def acceptTreplay (h b : BitVec 5) : M Unit := do
  let s ← get
  let w := s.gA h
  let blk ← latch (s.pB b) 1 s.word
  check (replayBlock blk) 0x06
  let e ← needEntry w
  check (replayFmt e.fmt) 0x06
  let id ← accept (BitVec.ofNat 3 (leAt blk 14 1)) .cp .n
    (.treplay (handleNi w) e (BitVec.ofNat 64 (leAt blk 4 8)) (leAt blk 12 1) (leAt blk 13 1) (BitVec.ofNat 80 (leAt blk 16 10))) none
  modify fun s =>
    let s := if leAt blk 15 1 % 2 = 1 then s.freeEntry (handleNi w) e else s
    s.push (.engineCompletion id)

def execTreplay (h b : BitVec 5) (s : State) : Out := runCAdv (acceptTreplay h b) s

/-! ### The replay (R344, R345) -/

/-- R34, R343: the NI that carries a replay out. -/
def Cmd.tapeWho (c : Cmd) (ck : Nat) : Who := ⟨niUnit ck, .n, false, ck * 16, c.ctx, c.user, c.winp⟩

/-- A contribution or a destination of a replay: the participant it belongs to (for GLB the index positions that name it), none for the
local buffer, and its place, none when the participant is unreachable. -/
structure Spot where
  who : List Nat
  at_ : Option Buf
deriving DecidableEq, Repr

/-- R344: one destination element and its contributions, in recorded order. -/
structure Sum where
  y : Spot
  from_ : List Spot
deriving DecidableEq, Repr

/-- R344: L + Δ, and X + Δ. -/
def movedPtr (l : Ptr) (delta : Word) : Ptr := l + delta.signExtend 80

/-- The participant that a rank is. -/
def participantOf (ranks : List Nat) (rank : Nat) : Nat := (ranks.findIdx? (· = rank)).getD 0

/-- R344: the destination elements of a replay, with their contributions. -/
def replaySums (c : Cmd) (ck : Nat) (t : TapeEntry) (delta : Word) (ranks entries : List Nat) : M (List Sum) := do
  let e := Float.fmtBytes t.fmt
  let l := movedPtr t.l delta
  let x := t.x + delta
  let near := fun (off : Nat) => (⟨[], some (.va (l + BitVec.ofNat 80 off))⟩ : Spot)
  let far := fun (rank : Nat) (who : List Nat) (off : Nat) => (do
    let b ← remoteBuf c (ck * 16) t.glb l x rank off
    pure ⟨who, b⟩ : M Spot)
  let live := (entries.zipIdx).filter fun p => !(skippedEntry p.1)
  let who := fun (p : Nat × Nat) => [if t.glb then p.2 else participantOf ranks (entryRank p.1)]
  match t.kind with
  | 1 => collect (fun j => do
      let cs ← collect (fun p => far (ranks.getD p 0) [p] (j * e)) ranks.length 0
      pure ⟨near (j * e), cs⟩) t.count 0
  | 2 => do
    let same := fun (p q : Nat × Nat) =>
      entryIndex t.glb p.1 = entryIndex t.glb q.1 && (t.glb || entryRank p.1 = entryRank q.1)
    let firsts := live.filter fun p => !(live.any fun q => q.2 < p.2 && same p q)
    collect (fun i => do
      let p := firsts.getD i (0, 0)
      let all := live.filter (same p)
      let y ← far (entryRank p.1) (all.flatMap who).eraseDups (entryIndex t.glb p.1 * e)
      pure ⟨y, all.map fun q => near (q.2 * e)⟩) firsts.length 0
  | 5 => do
    let rows ← collect (fun i => do
      let p := live.getD i (0, 0)
      let rb := (t.rwm1 + 1) * e
      collect (fun j => do
        let s ← far (entryRank p.1) (who p) (entryIndex t.glb p.1 * rb + j * e)
        pure (⟨near (p.2 * rb + j * e), [s]⟩ : Sum)) (t.rwm1 + 1) 0) live.length 0
    pure rows.flatten
  | _ => collect (fun i => do
      let p := live.getD i (0, 0)
      let s ← far (entryRank p.1) (who p) (entryIndex t.glb p.1 * e)
      pure ⟨near (p.2 * e), [s]⟩) live.length 0

/-- Runs an access; none when the place is unreachable (R82). -/
def reachable {α : Type} (m : M α) : M (Option α) := do
  match ← attempt m with
  | .ok a => pure (some a)
  | .error (.trap i) => if i.cause = 0x0B && i.outcome = 0 then pure none else raise i
  | .error e => throw e

/-- The contributions read, with the participants skipped. -/
def readSpots (w : Who) (e : Nat) : List Spot → M (List (List Byte) × List Nat)
  | [] => pure ([], [])
  | s :: rest => do
    let r ← match s.at_ with
      | none => pure none
      | some b => reachable (b.read w e)
    let (more, skipped) ← readSpots w e rest
    match r, s.who with
    | some b, _ => pure (b :: more, skipped)
    | none, [] => unreachableTrap
    | none, l => pure (more, l ++ skipped)

/-- R344: the sum of one element, rounded to ACC at each addition and once to storage. -/
def sumElement (c : Cmd) (fmt acc srnd : Nat) (old : List Byte) (parts : List (List Byte)) : M (Option (List Byte)) := do
  match Float.fmtOf fmt with
  | none => pure none
  | some f => do
    let a := if acc = 0x0A then Float.f32 else Float.a36
    let y := Float.unpack f c.inf8 (ofBytes old)
    let r := parts.foldl (fun (r : Float.Val × BitVec 6) b =>
      let s := Float.add 0 r.1 (Float.unpack f c.inf8 (ofBytes b))
      let z := Float.round a false 0 false 0 s.1
      (Float.unpack a false z.1, r.2 ||| s.2 ||| z.2)) (y, Float.invOf y)
    let (code, fl, s) := (← get).round c.loc f c.inf8 (srnd % 8) (srnd.testBit 3) r.1
    set (s.raiseVF c.loc (r.2 ||| fl))
    pure (some (toBytes (Float.fmtBytes fmt) code))

/-- R344: one destination element: the participants skipped. -/
def replayElement (c : Cmd) (w : Who) (fmt acc srnd : Nat) (x : Sum) : M (List Nat) := do
  let e := Float.fmtBytes fmt
  let (parts, skipped) ← readSpots w e x.from_
  let wrote ← match x.y.at_ with
    | none => pure none
    | some b => reachable (b.atomic w e fun old => sumElement c fmt acc srnd old parts)
  match wrote, x.y.who with
  | some _, _ => pure skipped
  | none, [] => unreachableTrap
  | none, l => pure (l ++ skipped)

/-- The elements of a replay in order: the participants skipped. -/
def replayElements (c : Cmd) (w : Who) (fmt acc srnd : Nat) : List Sum → M (List Nat)
  | [] => pure []
  | x :: rest => do
    let a ← replayElement c w fmt acc srnd x
    let b ← replayElements c w fmt acc srnd rest
    pure (a ++ b)

/-- R345: the bytes of a status record. -/
def statusBytes (skipped : List Nat) (n : Nat) : List Byte :=
  if skipped.isEmpty then toBytes 8 0
  else toBytes 8 (1 + skipped.length % 2 ^ 16 * 2 ^ 16) ++
    toBytes (8 * ((n + 63) / 64)) ((skipped.map fun p => 2 ^ p).sum)

/-- R344: the lists of an entry as they stand at replay: the spilled ones are read from the region. -/
def replayLists (w : Who) (t : TapeEntry) : M (List Nat × List Nat) := do
  let n := if t.kind = 1 then 0 else t.count
  let spilled := t.npart - 8
  if t.list = 0 then pure (t.ranks, [])
  else do
    let b ← memRead w (t.tapeb.zeroExtend 80 + BitVec.ofNat 80 (64 * t.list)) (8 * n + 4 * spilled) 0
    pure (t.ranks ++ (List.range spilled).map fun i => leAt b (8 * n + 4 * i) 4 % 2 ^ 20,
      (List.range n).map fun i => leAt b (8 * i) 8)

/-- R344, R345: a replay, whole. -/
def performReplay (c : Cmd) (ck : Nat) (t : TapeEntry) (delta : Word) (acc srnd : Nat) (result : Ptr) : M (Option FaultRec) :=
  work c 0 do
    let w := c.tapeWho ck
    let (ranks, entries) ← replayLists w t
    let sums ← replaySums c ck t delta ranks entries
    let skipped := (← replayElements c w t.fmt acc srnd sums).eraseDups
    if !skipped.isEmpty then modify fun s => s.mapCore c.loc fun x => { x with tstat := x.tstat ||| 2 }
    if result ≠ 0 then memWrite w result (statusBytes skipped (if t.glb then t.count else t.npart)) 0

/-! ### Collectives (R348, R349) -/

/-- R348: a tree block within its limits. -/
def treeBlock (b : List Byte) : Bool :=
  decide (leAt b 8 1 ≤ 8) && zeroBytes b 9 3 && zeroBytes b 44 20 && leAt b 4 4 / 2 ^ 20 % 2 ^ 11 = 0

/-- R348: the tree that a block lays down for a rank. -/
def treeOf (b : List Byte) (t : Nat) (team : BitVec 32) (rank : BitVec 20) : Tree where
  tree := t
  team := team
  rank := rank
  root := leAt b 4 4 / 2 ^ 31 = 1
  parent := BitVec.ofNat 20 (leAt b 4 4)
  children := (List.range (leAt b 8 1)).map fun i => BitVec.ofNat 20 (leAt b (12 + 4 * i) 4)

/-- R348. -/
def ccfgM (b : BitVec 5) (t : BitVec 4) : M Unit := do
  let s ← get
  let blk ← latch (s.p b) 1 s.word
  check (treeBlock blk) 0x06
  let s ← get
  let x := treeOf blk t.toNat (teamOf s.thr.gtid) (rankOf s.thr.gtid)
  let others := s.cl.trees.filter fun y => !(y.tree = x.tree && y.team = x.team && y.rank = x.rank)
  check (decide (others.length < 256)) 0x07
  set (s.mapCl fun c => { c with trees := others ++ [x] })

def execCcfg (b : BitVec 5) (t : BitVec 4) (s : State) : Out := runCAdv (ccfgM b t) s

/-- R349: `coll` at acceptance. -/
def acceptColl (d sel : BitVec 5) (k : BitVec 3) (o : BitVec 2) (t : BitVec 4) : M Unit := do
  check (o ≠ 3) 0x04
  let s ← get
  let r := s.thr.ni
  check (niReservedZero r && decide (niMode r ≤ 4) && addFmt (niFmt r) && niCount r ≠ 0) 0x06
  let id ← accept k .cp .n (.coll o.toNat t.toNat (s.pA d) (s.pB sel)) none
  modify fun s => s.push (.collContribution id)

def execColl (d sel : BitVec 5) (k : BitVec 3) (o : BitVec 2) (t : BitVec 4) (s : State) : Out := runCAdv (acceptColl d sel k o t) s

/-- R348: what the NIs have recorded under a team's tree number. -/
def State.treesOf (s : State) (team : BitVec 32) (t : Nat) : List Tree :=
  s.clusters.flatMap fun e => e.2.trees.filter fun x => x.tree = t && x.team = team

/-- The tree recorded for a rank. -/
def State.treeFor (s : State) (team : BitVec 32) (t : Nat) (rank : BitVec 20) : Option Tree :=
  (s.treesOf team t).find? fun x => x.rank = rank

/-- The ranks that a block names. -/
def Tree.named (x : Tree) : List (BitVec 20) := (if x.root then [] else [x.parent]) ++ x.children

/-- R348: the blocks of one tree: those of a list, with those that name one of them or that one of them names, over `n` steps. -/
def treeClosure (trees : List Tree) : Nat → List Tree → List Tree
  | 0, l => l
  | n + 1, l => treeClosure trees n (trees.filter fun y => l.any fun x =>
      x.rank = y.rank || x.named.contains y.rank || y.named.contains x.rank)

/-- The blocks of the tree that a rank belongs to. -/
def State.treeAt (s : State) (team : BitVec 32) (t : Nat) (rank : BitVec 20) : List Tree :=
  let trees := s.treesOf team t
  treeClosure trees trees.length (trees.filter fun x => x.rank = rank)

/-- R349: the other members of the tree that a rank belongs to. -/
def State.otherMembers (s : State) (team : BitVec 32) (t : Nat) (rank : BitVec 20) : List (BitVec 20) :=
  (((s.treeAt team t rank).flatMap fun x => x.rank :: x.named).eraseDups).filter (· != rank)

/-- The oldest command of a rank that waits on a tree. -/
def State.collOf (s : State) (team : BitVec 32) (t : Nat) (rank : BitVec 20) : Option Cmd :=
  s.cmds.find? fun c => !c.performed && teamOf c.gtid = team && rankOf c.gtid = rank && match c.kind with
    | .coll _ n _ _ => n = t
    | _ => false

/-- The root of the tree that a rank belongs to, going up by at most `n` parents. -/
def State.collRoot (s : State) (team : BitVec 32) (t : Nat) : Nat → BitVec 20 → Option (BitVec 20)
  | 0, _ => none
  | n + 1, r => match s.treeFor team t r with
    | none => none
    | some x => if x.root then some r else s.collRoot team t n x.parent

/-- A member of a tree with its command and its children's nodes. -/
inductive Node where
  | mk (c : Cmd) (children : List Node)

/-- The nodes below the ranks of a list, while every block agrees and every member's command waits; at most `n` levels. -/
def State.collNodes (s : State) (team : BitVec 32) (t : Nat) : Nat → List (BitVec 20) → Option (List Node)
  | 0, _ => none
  | n + 1, ranks =>
    ranks.foldr (fun r (acc : Option (List Node)) => do
      let rest ← acc
      let x ← s.treeFor team t r
      let c ← s.collOf team t r
      if x.children.all fun k => match s.treeFor team t k with
          | some y => y.parent = r && !y.root
          | none => false
      then do
        let below ← s.collNodes team t n x.children
        some (Node.mk c below :: rest)
      else none) (some [])

/-- R349: two node values combined element by element; the flags go to the member's core. -/
def combineLists (c : Cmd) (op : Nat) (a b : List Byte) : Nat → M (List Byte)
  | 0 => pure []
  | n + 1 => do
    let fmt := niFmt c.ni
    let e := Float.fmtBytes fmt
    match Float.fmtOf fmt with
    | none => pure []
    | some f => do
      let s ← get
      let (x, fl, gen) := Float.combine f c.inf8 (niMode c.ni) (niSat c.ni) (match op with | 0 => 0 | 1 => 2 | _ => 1) (s.gen c.loc)
        (ofBytes (a.take e)) (ofBytes (b.take e))
      let s := if op = 0 && !(Float.isInt fmt) then s.setGen c.loc gen else s
      set (s.raiseVF c.loc fl)
      let rest ← combineLists c op (a.drop e) (b.drop e) n
      pure (toBytes e x ++ rest)

/-- R349: what a member gives its parent: its own elements, then each child's node value in configured order. -/
def nodeValue (n : Nat) : Node → M (List Byte)
  | .mk c children => do
    let (op, src) := match c.kind with
      | .coll o _ _ s => (o, s)
      | _ => (0, 0)
    let count := niCount c.ni
    let own ← memRead c.niWho src (count * Float.fmtBytes (niFmt c.ni)) 0
    let rec go : List Node → List Byte → M (List Byte)
      | [], v => pure v
      | k :: rest, v => do
        let w ← nodeValue n k
        let v ← combineLists c op v w count
        go rest v
    go children own

/-- The commands of a tree's nodes. -/
def Node.cmds : Node → List Cmd
  | .mk c children =>
    let rec go : List Node → List Cmd
      | [] => []
      | k :: rest => k.cmds ++ go rest
    c :: go children

/-- The operation, count and format of a collective. -/
def collShape (c : Cmd) : Nat × Nat × Nat :=
  (match c.kind with | .coll o _ _ _ => o | _ => 0, niCount c.ni, niFmt c.ni)

/-- R349: the result written to each member; a fault is that member's own. -/
def collResults (v : List Byte) : List Cmd → M Unit
  | [] => pure ()
  | c :: rest => do
    let dst := match c.kind with
      | .coll _ _ d _ => d
      | _ => 0
    let f ← work c 0 (memWrite c.niWho dst v 0)
    modify fun s => s.performed c.id f
    collResults v rest

/-- R332, R349: one of some ranks is unreachable; while one moves, what goes to it waits. -/
def anyLost (l : Loc) (team : BitVec 32) : List (BitVec 20) → M Bool
  | [] => pure false
  | r :: rest => do
    match ← resolveRank l team r with
    | none => pure true
    | some _ => anyLost l team rest

/-- R349: the oldest command of a rank on a tree is taken as far as it goes: it ends when another member is unreachable; when every
member of the tree has contributed and the blocks agree, the result is formed and written, and the members' next commands are
tried. A fault in reading a member's elements ends every member's command with it. -/
def collStep (c : Cmd) (t : Nat) : M Unit := do
  let s ← get
  let team := teamOf c.gtid
  let rank := rankOf c.gtid
  if ← anyLost c.loc team (s.otherMembers team t rank) then modify fun s => s.failCommand c 0x0B 0
  else
    let fuel := s.cmds.length + 1
    match (s.collRoot team t fuel rank).bind fun r => s.collNodes team t fuel [r] with
    | some [node] =>
      let members := node.cmds
      if members.all fun m => collShape m = collShape c then do
        members.forM fun m => crossTo (locModule c.loc) (locModule m.loc) (niCount c.ni * Float.fmtBytes (niFmt c.ni))
          (niCount c.ni * Float.fmtBytes (niFmt c.ni))
        match ← attempt (nodeValue fuel node) with
        | .ok v => collResults v members
        | .error (.trap i) => modify fun s => members.foldl (fun s m => s.performed m.id (some (m.record 0 0 i))) s
        | .error e => throw e
        modify fun s => members.foldl (fun s m => match s.collOf team t (rankOf m.gtid) with
          | some n => s.push (.collContribution n.id)
          | none => s) s
      else pure ()
    | _ => pure ()

/-- R349: a contribution arrives: its rank's oldest command on the tree may go on. -/
def collContribute (id : Nat) : M Unit := do
  let s ← get
  match s.cmd id with
  | none => pure ()
  | some c =>
    match c.kind with
    | .coll _ t _ _ =>
      match s.collOf (teamOf c.gtid) t (rankOf c.gtid) with
      | some o => collStep o t
      | none => pure ()
    | _ => pure ()

end Sys2Proof.Machine
end

