-- ==== Sys2Proof/Machine/Ethernet.lean ====
section
/-! DEFINITION. Ethernet endpoints (R350, R351, R411-R413): commands at acceptance, what the endpoint does, and arriving packets. -/

namespace Sys2Proof.Machine

/-- R350: a transfer block within its limits. -/
def transferBlock (b : List Byte) (rx : Bool) : Bool :=
  decide (leAt b 4 1 < 8) && decide (leAt b 5 1 < 3) && zeroBytes b 6 2 && zeroBytes b 18 6 &&
  decide (1 ≤ leAt b 24 8 ∧ leAt b 24 8 ≤ 2 ^ 32) && zeroBytes b 36 4 && zeroBytes b 56 8 &&
  (!rx || decide (2 ^ 63 ≤ leAt b 48 8))

/-- The receives armed on an endpoint of a module, oldest first (R413). -/
def State.armed (s : State) (m e : Nat) : List Cmd :=
  s.cmds.filter fun c => !c.performed && locModule c.loc = m && match c.kind with
    | .ethRecv n _ _ _ _ => n = e
    | _ => false

/-- R350: an endpoint's command at acceptance. -/
def acceptEth (k : BitVec 3) (b : BitVec 5) (rx : Bool) (kind : List Byte → CmdKind) : M Unit := do
  let s ← get
  let blk ← latch (s.p b) 1 s.word
  check (transferBlock blk rx) 0x06
  let s ← get
  if rx && decide (256 ≤ (s.armed (locModule s.loc) (leAt blk 4 1)).length) then stall
  let id ← accept k .cp .n (kind blk) none
  modify fun s => s.push (.engineCompletion id)

def blkLocal (b : List Byte) : Ptr := BitVec.ofNat 80 (leAt b 8 10)
def blkWord (b : List Byte) (o : Nat) : Word := BitVec.ofNat 64 (leAt b o 8)
def blkPeer (b : List Byte) : BitVec 32 := BitVec.ofNat 32 (leAt b 32 4)

def execXpostTx (b : BitVec 5) (k : BitVec 3) (s : State) : Out :=
  runCAdv (acceptEth k b false fun x =>
    .ethPut (leAt x 4 1) (leAt x 5 1) (blkLocal x) (leAt x 24 8) (blkPeer x) (blkWord x 40) (blkWord x 48)) s
def execXpostRx (b : BitVec 5) (k : BitVec 3) (s : State) : Out :=
  runCAdv (acceptEth k b true fun x => .ethRecv (leAt x 4 1) (blkLocal x) (leAt x 24 8) (blkPeer x) (blkWord x 48)) s
def execXfetch (b : BitVec 5) (k : BitVec 3) (s : State) : Out :=
  runCAdv (acceptEth k b false fun x =>
    .ethGet (leAt x 4 1) (leAt x 5 1) (blkLocal x) (leAt x 24 8) (blkPeer x) (blkWord x 40) (blkWord x 48)) s

/-! ### What an endpoint does -/

/-- The die that hosts endpoint `e` of a module (R411). -/
def ethDie (m e : Nat) : Nat := m * 16 + e

/-- R34: an endpoint's accesses under a context. -/
def ethWho (dk : Nat) (ctx : BitVec 16) (user : Bool) : Who := ⟨ethUnit dk (dk % 16), .n, true, mkLoc 0 (dk / 16) (dk % 16) 0 0, ctx, user, []⟩

/-- R21, R136: an endpoint's accesses for a command, from the die that hosts it. -/
def Cmd.ethWho (c : Cmd) (e : Nat) : Who :=
  let dk := ethDie (locModule c.loc) e
  ⟨ethUnit dk e, .n, true, mkLoc 0 (dk / 16) e 0 0, c.ctx, c.user, c.winp⟩

/-- A count of an endpoint's telemetry (R415). -/
def State.countEth (s : State) (dk entry n : Nat) : State :=
  if n = 0 then s else s.count (dk / 16) (0x4000 + 64 * (dk % 16) + 8 * entry) n

/-- An entry of 32 bytes of an endpoint's table, read under the context of EPCFG; its privilege is the part's choice (log 18). -/
def ethEntry (dk : Nat) (table : Word) (i : Nat) : M (List Byte) := do
  let n ← modifyGet fun s => s.choose 2
  let w := ethWho dk (BitVec.ofNat 16 (((← get).die dk).epcfg.toNat)) (n = 1)
  memRead w (table.zeroExtend 80 + BitVec.ofNat 80 (32 * i)) 32 0

/-- R412: the entry of a peer of an enabled endpoint, none when it has none: the number of its entropy values. -/
def peerValues (dk peer : Nat) : M (Option Nat) := do
  let d := (← get).die dk
  if !(bit d.epcfg 63) || bits d.epcfg 47 32 ≤ peer then pure none
  else do
    let b ← ethEntry dk d.epptb peer
    pure (if leAt b 17 1 % 2 = 0 then none else some (leAt b 16 1 + 1))

/-- R412: the entropy values of a command's peer; a peer that is not there ends it with UNREACHABLE. -/
def needPeer (dk : Nat) (peer : BitVec 32) : M Nat := do
  match ← peerValues dk peer.toNat with
  | some n => pure n
  | none => unreachableTrap

/-- R412: the endpoint is enabled and the peer is in its table, or any peer is meant; else the command ends with UNREACHABLE. -/
def peerKnown (dk : Nat) (peer : BitVec 32) (any : Bool) : M Unit := do
  if !(bit ((← get).die dk).epcfg 63) then unreachableTrap
  else if any then pure ()
  else do
    let _ ← needPeer dk peer

/-! ### Paths (R351, R411) -/

/-- What an endpoint holds for a path. -/
def State.pathAt (s : State) (dk k : Nat) : PathState :=
  let ep := dk / 16 * 8 + dk % 16
  ((s.die dk).paths.find? k).getD
    ⟨BitVec.ofNat 16 (Config.pathState ep k 0).toNat, Config.pathState ep k 1, BitVec.ofNat 16 (Config.pathState ep k 2).toNat⟩

/-- R351: the word that `xpath` gives for a path. -/
def PathState.word (p : PathState) : Word :=
  BitVec.ofNat 64 (p.rtt.toNat + ((List.range 64).filter fun i => p.marks.getLsbD i).length * 65535 / 64 * 2 ^ 16 + p.allow.toNat * 2 ^ 32)

/-- Packets have gone out on a path: the time, the marks and the allowance that their acknowledgements bring are the network's
(log 18). -/
def State.pathUsed (s : State) (dk k : Nat) : State :=
  let (a, s) := s.freeWord
  let (b, s) := s.freeWord
  let (c, s) := s.freeWord
  s.mapDie dk fun d => { d with paths := d.paths.put k ⟨BitVec.ofNat 16 a.toNat, b, BitVec.ofNat 16 c.toNat⟩ }

/-- R411: the packets of a command go to a peer with `n` entropy values: sprayed over them, in the reliable ordered mode on value 0
alone, as the window and the credit granted allow. How many there are, and how many the transport sends again, is the network's
(log 18). -/
def State.sendPackets (s : State) (dk mode n most : Nat) : State :=
  let s := iterate (fun k s => s.pathUsed dk k) (if mode = 1 then 1 else n) 0 s
  let (extra, s) := s.choose most
  let (again, s) := s.choose (most + 1)
  (s.countEth dk 0 (1 + extra)).countEth dk 2 again

/-- R351, R412: a path of an endpoint is configured: some peer of its table has so many entropy values. -/
def pathConfigured (dk k : Nat) : Nat → Nat → M Bool
  | 0, _ => pure false
  | n + 1, i => do
    match ← attempt (peerValues dk i) with
    | .ok (some m) => if k < m then pure true else pathConfigured dk k n (i + 1)
    | .ok none => pathConfigured dk k n (i + 1)
    | .error _ => pathConfigured dk k n (i + 1)

/-- R351: the state of a path, 0 for one that is not configured; looking leaves no trace. While a reconfiguration holds the route to the
endpoint's table (R410) the thread waits. -/
def execXpath (d e : BitVec 5) (s : State) : Out :=
  let x := s.g e
  let dk := ethDie (locModule s.loc) (bits x 2 0)
  let k := bits x 15 8
  match (pathConfigured dk k (bits (s.die dk).epcfg 47 32) 0).run s with
  | .ok true _ => s.result d (s.pathAt dk k).word
  | .error .stall _ => .next s.held
  | _ => s.result d 0

/-! ### Commands and their peers -/

/-- `n` bytes that a peer sends: the model has no peer, they are free (log 18). -/
def freeBytes : Nat → M (List Byte)
  | 0 => pure []
  | n + 1 => do
    let w ← modifyGet fun s => s.freeWord
    let rest ← freeBytes n
    pure (BitVec.ofNat 8 w.toNat :: rest)

/-- How a peer answers (log 18): it does what is asked, refuses, or does not answer. -/
inductive PeerAnswer where
  | served | refused | silent
deriving DecidableEq, Repr

def peerAnswers : M PeerAnswer := do
  let n ← modifyGet fun s => s.choose 3
  pure (match n with | 0 => .served | 1 => .refused | _ => .silent)

/-- Ends a command's work with the outcome of R82 for a peer that refuses; there is no address (log 18). -/
def peerRefused {α : Type} : M α := do
  let (v, s) := (← get).freeWord
  set s
  raise (accessTrap 0x0B 2 0 (v.zeroExtend 80))

/-- R350: a put or get carried out, or nothing when the peer does not answer. A receive stays armed. -/
def ethWork (c : Cmd) : M Bool := do
  match c.kind with
  | .ethPut e mode a len peer _ _ => do
    let dk := ethDie (locModule c.loc) e
    let n ← needPeer dk peer
    let _ ← memRead (c.ethWho e) a len 0
    modify fun s => s.sendPackets dk mode n len
    match ← peerAnswers with
    | .served => pure true
    | .refused => peerRefused
    | .silent => pure false
  | .ethGet e mode a len peer _ _ => do
    let dk := ethDie (locModule c.loc) e
    let n ← needPeer dk peer
    modify fun s => s.sendPackets dk mode n 1
    match ← peerAnswers with
    | .served => do
      let b ← freeBytes len
      memWrite (c.ethWho e) a b 0
      modify fun s => s.countEth dk 1 1
      pure true
    | .refused => peerRefused
    | .silent => pure false
  | .ethRecv e _ _ peer _ => do
    peerKnown (ethDie (locModule c.loc) e) peer (peer = 0xFFFFFFFF)
    pure false
  | _ => pure true

/-- An endpoint's command after acceptance: it performs, or waits for its peer. -/
def ethPerform (c : Cmd) : M Unit := do
  match ← attempt (ethWork c) with
  | .ok true => modify fun s => s.performed c.id none
  | .ok false => pure ()
  | .error (.trap i) => modify fun s => s.performed c.id (some (c.record 0 0 i))
  | .error e => throw e

/-- R350: no answer within TMO. -/
def State.ethTimeout (s : State) (id : Nat) : State :=
  match s.cmd id with
  | none => s
  | some c =>
    if c.performed then s
    else match c.kind with
      | .ethPut _ _ _ _ _ _ _ => s.failCommand c 0x0B 1
      | .ethGet _ _ _ _ _ _ _ => s.failCommand c 0x0B 1
      | _ => s

/-! ### Arriving packets (R413) -/

/-- The window that a key names, among those from number `i` on: its context, base and length. -/
def findWindow (dk : Nat) (key : Word) : Nat → Nat → M (Option (BitVec 16 × Ptr × Nat))
  | 0, _ => pure none
  | n + 1, i => do
    match ← attempt (ethEntry dk ((← get).die dk).epwtb i) with
    | .ok b =>
      if leAt b 0 8 = key.toNat then pure (some (BitVec.ofNat 16 (leAt b 18 2), BitVec.ofNat 80 (leAt b 8 10), leAt b 24 8))
      else findWindow dk key n (i + 1)
    | .error (.trap _) => findWindow dk key n (i + 1)
    | .error e => throw e

/-- R413: a packet of a put or get to a window, `off` bytes into a message of `total` bytes; a get's reply goes out. -/
def windowPacket (dk : Nat) (get_ : Bool) (key roff : Word) (off len total : Nat) (data : List Byte) : M Unit := do
  let s ← get
  let d := s.die dk
  let ok ← match ← findWindow dk key (bits d.epcfg 31 16) 0 with
    | none => pure none
    | some (ctx, base, size) =>
      pure (if d.eplo ≤ ctx && ctx ≤ d.ephi && decide (roff.toNat + total ≤ size ∧ off + len ≤ total) then some (ctx, base) else none)
  match ok with
  | none => modify fun s => s.countEth dk 4 1
  | some (ctx, base) => do
    let n ← modifyGet fun s => s.choose 2
    let w := ethWho dk ctx (n = 1)
    let at_ := base + roff.zeroExtend 80 + BitVec.ofNat 80 off
    match ← attempt (if get_ then do
        let _ ← memRead w at_ len 0
        modify fun s => s.countEth dk 0 1
      else memWrite w at_ (data.take len) 0) with
    | .ok _ => pure ()
    | .error (.trap _) => modify fun s => s.countEth dk 4 1
    | .error e => throw e

/-- R413: the receive that a message of a peer goes to: the one that its first packet to arrive has selected, or for that packet the oldest
that is free and accepts the peer and the tag. A message whose receive has ended goes to no other. -/
def State.receiveFor (s : State) (dk peer msg : Nat) (key : Word) : Option Cmd :=
  let ok := fun (c : Cmd) => c.message.isNone && match c.kind with
    | .ethRecv _ _ _ p tag => tag = key && (p.toNat = peer || p = 0xFFFFFFFF)
    | _ => false
  let l := s.armed (dk / 16) (dk % 16)
  match l.find? fun c => c.message = some (peer, msg) with
  | some c => some c
  | none => if (s.die dk).taken.contains (peer, msg) then none else l.find? ok

/-- R413: a packet of a put to a receive buffer, `off` bytes into its message. -/
def receivePacket (dk : Nat) (msg : EthMessage) (key : Word) (off : Nat) (data : List Byte) : M Unit := do
  let s ← get
  match s.receiveFor dk msg.peer msg.number key with
  | none => if (s.die dk).taken.contains (msg.peer, msg.number) then pure () else set (s.countEth dk 3 1)
  | some c =>
    modify fun s => s.mapDie dk fun d =>
      { d with taken := if d.taken.contains (msg.peer, msg.number) then d.taken else d.taken ++ [(msg.peer, msg.number)] }
    let s ← get
    match c.kind with
    | .ethRecv e a len _ _ =>
      if len < msg.total then set (s.failCommand c 0x0B 2)
      else do
        match ← attempt (memWrite (c.ethWho e) (a + BitVec.ofNat 80 off) data 0) with
        | .ok _ =>
          modify fun s =>
            let s := s.mapCmd c.id fun c => { c with begun := true, placed := c.placed + data.length, message := some (msg.peer, msg.number) }
            if msg.total ≤ c.placed + data.length then s.performed c.id none else s
        | .error (.trap i) => modify fun s => s.performed c.id (some (c.record 0 0 i))
        | .error x => throw x
    | _ => pure ()

/-- R413, R415: an arriving packet; whether the network has marked it is the network's (log 18). -/
def ethPacket (dk : Nat) (msg : EthMessage) (get_ : Bool) (key roff : Word) (off len : Nat) (data : List Byte) : M Unit := do
  let s ← get
  if 8 ≤ dk % 16 || !(bit (s.die dk).epcfg 63) then pure ()
  else do
    let (marked, s) := (s.countEth dk 1 1).choose 2
    set (s.countEth dk 5 marked)
    if bit key 63 then (if get_ then pure () else receivePacket dk msg key off data)
    else windowPacket dk get_ key roff off len msg.total data

end Sys2Proof.Machine
end

