-- ==== Sys2Proof/Machine/Swage.lean ====
section
/-! DEFINITION. The swage engine (R356-R370): index maps, plans and remaps, commands at acceptance, and what they do. -/

namespace Sys2Proof.Machine

/-! ### The index map (R357, R358) -/

structure StvMap where
  gen : BitVec 32
  n : Nat
  fmt : Nat
  db : Nat
  mb : Nat
  base : Ptr
  pos : List Nat
deriving DecidableEq, Repr

def StvMap.ofBytes (b : List Byte) : StvMap :=
  ⟨BitVec.ofNat 32 (leAt b 0 4), leAt b 4 1, leAt b 5 1, leAt b 6 1, leAt b 7 1, BitVec.ofNat 80 (leAt b 8 10),
    (List.range (leAt b 4 1)).map fun j => leAt b (24 + j) 1⟩

def StvMap.toBytes (m : StvMap) : List Byte :=
  let h := Machine.toBytes 4 m.gen.toNat ++ [BitVec.ofNat 8 m.n, BitVec.ofNat 8 m.fmt, BitVec.ofNat 8 m.db, BitVec.ofNat 8 m.mb] ++
    Machine.toBytes 10 m.base.toNat ++ Machine.toBytes 6 0 ++ m.pos.map (BitVec.ofNat 8 ·)
  h ++ List.replicate (64 - h.length) 0

/-- R357: bytes of an amplitude. -/
def stvBytes (fmt : Nat) : Nat := if fmt = 0x0C then 8 else 16

def StvMap.local_ (m : StvMap) : Nat := m.n - m.db - m.mb

/-- R357: a well-formed map. -/
def stvMapOk (b : List Byte) : Bool :=
  let m := StvMap.ofBytes b
  decide (3 ≤ m.n ∧ m.n ≤ 40) && (m.fmt = 0x0C || m.fmt = 0x0D) && decide (m.db ≤ 3) && decide (m.mb ≤ 10) &&
  decide (m.db + m.mb + 2 ≤ m.n) && m.pos.all (fun p => decide (p < m.n)) && m.pos.eraseDups.length = m.n &&
  m.base.toNat % min (2 ^ m.local_ * stvBytes m.fmt) 4096 = 0 && zeroBytes b 18 6 && zeroBytes b (24 + m.n) (40 - m.n)

/-- R358: the position of an index in the shares laid end to end, each index bit at its position. -/
def StvMap.place (m : StvMap) (x : Nat) : Nat :=
  ((m.pos.zipIdx).map fun p => if x.testBit p.2 then 2 ^ p.1 else 0).sum

/-- R358: the index at a position. -/
def StvMap.index (m : StvMap) (y : Nat) : Nat := ((m.pos.zipIdx).map fun p => if y.testBit p.1 then 2 ^ p.2 else 0).sum

/-- R358: the address of an amplitude: share s begins at BASE + s · SHSZ. -/
def StvMap.addr (m : StvMap) (x : Nat) : Ptr := m.base + BitVec.ofNat 80 (m.place x * stvBytes m.fmt)

/-- R360: the number of the share that holds an address. -/
def StvMap.share (m : StvMap) (va : Ptr) : Nat := (va - m.base).toNat / (2 ^ m.local_ * stvBytes m.fmt)

/-! ### Commands at acceptance (R360-R370) -/

def stvMapVa (r : Vector Ptr 2) : Ptr := r.get 0
def stvN (r : Vector Ptr 2) : Nat := bits (r.get 1) 5 0

/-- R209: the block that holds an address. -/
def blockOf (va : Ptr) : Ptr := BitVec.ofNat 80 (va.toNat / 64 * 64)

/-- R359, R360: a command other than `stv.map` needs a map, and the reserved bits of STVST zero (R305; the outcome is log 91's). -/
def needMap : M Unit := do
  let r := (← get).thr.stv
  check (bits (r.get 1) 63 6 = 0) 0x06
  check (stvMapVa r ≠ 0 && stvN r ≠ 0) 0x05

/-- R360: a swage command accepted; its start is a step of its own. -/
def acceptStv (k : BitVec 3) (kind : CmdKind) : M Unit := do
  let id ← accept k .cp .s kind none
  modify fun s => s.push (.swageCommandStart id)

/-- R364. -/
def acceptStvMap (a : BitVec 5) (k : BitVec 3) : M Unit := do
  let s ← get
  let va := s.pA a
  let b ← latch va 1 s.word
  check (stvMapOk b) 0x06
  gate .s
  modify fun s => s.mapThr fun t => { t with stv := (t.stv.set 0 va).set 1 (setBits (t.stv.get 1) 5 0 (leAt b 4 1)) }
  acceptStv k .stvMap

/-- R365. -/
def acceptStvInit (a : BitVec 5) (k : BitVec 3) : M Unit := do
  needMap
  acceptStv k (.stvInit ((← get).gA a))

def planTargets (b : List Byte) : List Nat := (List.range (leAt b 4 1)).map fun i => leAt b (8 + i) 1
def planControls (b : List Byte) : List Nat := (List.range (leAt b 5 1)).map fun i => leAt b (12 + i) 1

/-- R361: a plan block that is not refused. -/
def planOk (b : List Byte) (n : Nat) : Bool :=
  let k := leAt b 4 1
  let nc := leAt b 5 1
  let q := planTargets b ++ planControls b
  decide (1 ≤ k ∧ k ≤ 3) && decide (nc ≤ 8) && decide (leAt b 6 1 < 2 ^ nc) && zeroBytes b 7 1 && zeroBytes b (8 + k) (4 - k) &&
  zeroBytes b (12 + nc) (8 - nc) && zeroBytes b 30 34 && q.all (fun x => decide (x < n)) && q.eraseDups.length = q.length

/-- R361, R366: the plan, then FMT of the map, then the matrix. -/
def acceptStvGate (a : BitVec 5) (k : BitVec 3) : M Unit := do
  needMap
  let s ← get
  let r := s.thr.stv
  let b ← latch (s.pA a) 1 s.word
  check (planOk b (stvN r)) 0x06
  let f ← readBefore (blockOf (stvMapVa r) + 5) 1 s.word
  let fmt := leAt f 0 1
  check (fmt = 0x0C || fmt = 0x0D) 0x06
  let d := 2 ^ leAt b 4 1
  let u ← readBefore (BitVec.ofNat 80 (leAt b 20 10)) (d * d * stvBytes fmt) s.word
  acceptStv k (.stvGate b u fmt)

/-- R367. -/
def acceptStvSwap (a b : BitVec 5) (k : BitVec 3) : M Unit := do
  needMap
  let s ← get
  let n := stvN s.thr.stv
  let q := (s.gA a).toNat
  let r := (s.gB b).toNat
  check (decide (q < n) && decide (r < n) && q ≠ r) 0x05
  acceptStv k (.stvSwap q r)

/-- R368. -/
def acceptStvProb (a b : BitVec 5) (k : BitVec 3) (c : BitVec 5) : M Unit := do
  needMap
  let s ← get
  acceptStv k (.stvProb (s.pA a) (s.gB b) (s.gC c))

/-- R369. -/
def acceptStvFix (a b : BitVec 5) (k : BitVec 3) (c : BitVec 5) : M Unit := do
  needMap
  let s ← get
  acceptStv k (.stvFix (s.gA a) (s.gB b) (s.gC c))

/-- R368. -/
def acceptStvNorm (a : BitVec 5) (k : BitVec 3) : M Unit := do
  needMap
  acceptStv k (.stvNorm ((← get).pA a))

/-- R370. -/
def acceptStvAmp (a b : BitVec 5) (k : BitVec 3) : M Unit := do
  needMap
  let s ← get
  acceptStv k (.stvAmp (s.pA a) (s.gB b))

def execStvMap (a : BitVec 5) (k : BitVec 3) (s : State) : Out := runCAdv (acceptStvMap a k) s
def execStvInit (a : BitVec 5) (k : BitVec 3) (s : State) : Out := runCAdv (acceptStvInit a k) s
def execStvGate (a : BitVec 5) (k : BitVec 3) (s : State) : Out := runCAdv (acceptStvGate a k) s
def execStvSwap (a b : BitVec 5) (k : BitVec 3) (s : State) : Out := runCAdv (acceptStvSwap a b k) s
def execStvProb (a b : BitVec 5) (k : BitVec 3) (c : BitVec 5) (s : State) : Out := runCAdv (acceptStvProb a b k c) s
def execStvFix (a b : BitVec 5) (k : BitVec 3) (c : BitVec 5) (s : State) : Out := runCAdv (acceptStvFix a b k c) s
def execStvNorm (a : BitVec 5) (k : BitVec 3) (s : State) : Out := runCAdv (acceptStvNorm a k) s
def execStvAmp (a b : BitVec 5) (k : BitVec 3) (s : State) : Out := runCAdv (acceptStvAmp a b k) s

/-! ### Amplitudes -/

/-- R34: the swage engine of a die, working for a command. The spec gives the engine no quadrant; its requests count as those of quadrant 0 in a
hotness table (R91), and it walks with that quadrant's cache (logs 11, 36: DESIGN CHOICE). -/
def Cmd.stvOn (c : Cmd) (dk : Nat) : Who := ⟨swageUnit dk, .s, false, mkLoc 0 (dk / 16) (dk % 16) 0 0, c.ctx, c.user, c.winp⟩

/-- The die that holds an address as a unit would find it there, none when there is none; looking leaves no trace. -/
def State.dieOf (s : State) (w : Who) (k : AccessKind) (va : Ptr) : Option Nat :=
  match (translate w k va).run s with
  | .ok t _ => if paKind t.pa ≤ 1 then some (paDieKey t.pa) else none
  | .error _ _ => none

/-- R360: the coordinating engine: of the die that holds the map's home, when it can be found. -/
def State.stvWho (s : State) (c : Cmd) : Who :=
  let w := c.stvOn (locDieKey c.loc)
  match s.dieOf w .load (blockOf (stvMapVa c.stv)) with
  | some dk => c.stvOn dk
  | none => w

/-- R82, R410: the engine of a die works for another, which must be able to reach it. -/
def stvReach (c : Cmd) (from_ dk : Nat) (va : Ptr) : M Who := do
  let s ← get
  if s.cutOff from_ (dk / 16) || !(s.member (dk / 16)) then raise (accessTrap 0x0B 0 0 va)
  if s.noRoute from_ (dk / 16) then raise (accessTrap 0x0B 1 0 va)
  crossTo from_ (dk / 16) 64 64
  pure (c.stvOn dk)

/-- R358: the engine that works on a share: of the die that the share's pages name. -/
def shareWho (c : Cmd) (w : Who) (k : AccessKind) (va : Ptr) : M Who := do
  match (← get).dieOf w k va with
  | some dk => stvReach c (locModule w.loc) dk va
  | none => pure w

def stvFmt (fmt : Nat) : Float.Fmt := if fmt = 0x0C then Float.f32 else Float.f64

/-- A complex number as its two parts. -/
abbrev Amp := Float.Val × Float.Val

def ampOf (fmt : Nat) (b : List Byte) : Amp :=
  let h := stvBytes fmt / 2
  (Float.unpack (stvFmt fmt) false (leAt b 0 h), Float.unpack (stvFmt fmt) false (leAt b h h))

def readAmp (c : Cmd) (m : StvMap) (x : Nat) : M (List Byte) := do
  let w ← shareWho c ((← get).stvWho c) .load (m.addr x)
  memRead w (m.addr x) (stvBytes m.fmt) 0

def writeAmp (c : Cmd) (m : StvMap) (x : Nat) (b : List Byte) : M Unit := do
  let w ← shareWho c ((← get).stvWho c) .store (m.addr x)
  memWrite w (m.addr x) b 0

/-- R360: rounding of swage arithmetic: RNE, not saturating; the flags go to the issuing core. -/
def stvRound (c : Cmd) (f : Float.Fmt) (x : Float.Val × BitVec 6) : M Nat := do
  let (code, fl) := Float.round f false 0 false 0 x.1
  modify fun s => s.raiseVF c.loc (x.2 ||| fl)
  pure code

/-- R194: one fused multiply-add of the chain, rounded. -/
def stvFma (c : Cmd) (f : Float.Fmt) (x y z : Float.Val) : M Float.Val := do
  let code ← stvRound c f (Float.fma 0 z x y)
  pure (Float.unpack f false code)

/-- R194: an output amplitude from a row of the matrix. -/
def chain (c : Cmd) (f : Float.Fmt) : List (Amp × Amp) → Float.Val → Float.Val → M Amp
  | [], re, im => pure (re, im)
  | (u, a) :: rest, re, im => do
    let re ← stvFma c f u.1 a.1 re
    let re ← stvFma c f u.2.negate a.2 re
    let im ← stvFma c f u.1 a.2 im
    let im ← stvFma c f u.2 a.1 im
    chain c f rest re im

/-- The bytes of an amplitude, exact in its format. -/
def ampBytes (fmt : Nat) (a : Amp) : List Byte :=
  let f := stvFmt fmt
  let h := stvBytes fmt / 2
  toBytes h (Float.packExact f false a.1) ++ toBytes h (Float.packExact f false a.2)

/-- Bits of an index set to those of a number, one for each qubit of a list. -/
def spread (x : Nat) (qs : List Nat) (k : Nat) : Nat :=
  x + ((qs.zipIdx).map fun p => if k.testBit p.2 then 2 ^ p.1 else 0).sum

/-- R366: a group of the gate: its targets are 0 and its controls match. -/
def gateGroup (plan : List Byte) (x : Nat) : Bool :=
  (planTargets plan).all (fun t => !(x.testBit t)) &&
  ((planControls plan).zipIdx).all fun p => x.testBit p.1 = (leAt plan 6 1).testBit p.2

/-- R366: one group: every output is formed before any is written. -/
def gateOne (c : Cmd) (m : StvMap) (plan u : List Byte) (x : Nat) : M Unit := do
  let ts := planTargets plan
  let d := 2 ^ ts.length
  let e := stvBytes m.fmt
  let a ← collect (fun k => do
    let b ← readAmp c m (spread x ts k)
    pure (ampOf m.fmt b)) d 0
  let out ← collect (fun i =>
    chain c (stvFmt m.fmt) (((List.range d).map fun k => ampOf m.fmt ((u.drop ((i * d + k) * e)).take e)).zip a) (.zero false)
      (.zero false)) d 0
  forUpTo (fun i => writeAmp c m (spread x ts i) (ampBytes m.fmt (out.getD i (.zero false, .zero false)))) d 0

/-- R362: the amplitudes that an exchange swaps. -/
def exchangeOne (c : Cmd) (m : StvMap) (q r x : Nat) : M Unit := do
  if !(x.testBit q) && x.testBit r then do
    let y := x + 2 ^ q - 2 ^ r
    let a ← readAmp c m x
    let b ← readAmp c m y
    writeAmp c m x b
    writeAmp c m y a
  else pure ()

/-- R362: the map after an exchange. -/
def StvMap.exchanged (m : StvMap) (q r : Nat) : StvMap :=
  { m with gen := m.gen + 1, pos := (m.pos.set q (m.pos.getD r 0)).set r (m.pos.getD q 0) }

/-- R362: Exchange(q, r) on the amplitudes; the map is written by the caller. -/
def exchangeQubits (c : Cmd) (m : StvMap) (q r : Nat) : M Unit := forUpTo (exchangeOne c m q r) (2 ^ m.n) 0

/-- R362: the qubit at the highest free local position. -/
def StvMap.freeQubit (m : StvMap) (used : List Nat) : Option Nat :=
  ((List.range m.local_).reverse).findSome? fun p =>
    match m.pos.findIdx? (· = p) with
    | some r => if used.contains r then none else some r
    | none => none

/-- R362: the exchanges of a gate, in ascending target, each on the map that the one before left. -/
def StvMap.exchanges (used : List Nat) : List Nat → StvMap → List (Nat × Nat)
  | [], _ => []
  | t :: rest, m =>
    if m.local_ ≤ m.pos.getD t 0 then
      match m.freeQubit used with
      | some r => (t, r) :: exchanges used rest (m.exchanged t r)
      | none => exchanges used rest m
    else exchanges used rest m

/-- R362: the remaps of a gate carried out: the map that they leave. -/
def remaps (c : Cmd) : List (Nat × Nat) → StvMap → M StvMap
  | [], m => pure m
  | (q, r) :: rest, m => do
    exchangeQubits c m q r
    remaps c rest (m.exchanged q r)

/-- R362: fewer free local positions than targets to be moved. -/
def tooFew (m : StvMap) (plan : List Byte) : Bool :=
  let used := planTargets plan ++ planControls plan
  let need := ((planTargets plan).filter fun t => m.local_ ≤ m.pos.getD t 0).length
  let free := ((List.range m.n).filter fun r => m.pos.getD r 0 < m.local_ && !(used.contains r)).length
  decide (free < need)

/-- R368: the sum of squared magnitudes of matching amplitudes, at positions `y` on in ascending order. -/
def probSum (c : Cmd) (m : StvMap) (mask value : Nat) : Nat → Nat → Float.Val → M Float.Val
  | 0, _, sum => pure sum
  | n + 1, y, sum => do
    let x := m.index y
    if Nat.land x mask = value then do
      let a := ampOf m.fmt (← readAmp c m x)
      let sum ← stvFma c Float.f64 a.1 a.1 sum
      let sum ← stvFma c Float.f64 a.2 a.2 sum
      probSum c m mask value n (y + 1) sum
    else probSum c m mask value n (y + 1) sum

/-- R369: one amplitude scaled, or zeroed when it does not match. -/
def fixOne (c : Cmd) (m : StvMap) (mask value : Nat) (f : Float.Val) (x : Nat) : M Unit := do
  let h := stvBytes m.fmt / 2
  if Nat.land x mask = value then do
    let a := ampOf m.fmt (← readAmp c m x)
    let re ← stvRound c (stvFmt m.fmt) (Float.mul a.1 f)
    let im ← stvRound c (stvFmt m.fmt) (Float.mul a.2 f)
    writeAmp c m x (toBytes h re ++ toBytes h im)
  else writeAmp c m x (toBytes (2 * h) 0)

/-! ### A command runs (R360) -/

/-- What a command leaves when its amplitudes are done: the map, and what it writes as its result. -/
structure StvEnd where
  map : StvMap
  result : Option (Ptr × List Byte)
deriving DecidableEq, Repr

/-- R365-R370: the amplitudes of a command. -/
def stvWork (c : Cmd) (m : StvMap) : M StvEnd := do
  let all := 2 ^ m.n
  match c.kind with
  | .stvInit i => do
    let one := toBytes (stvBytes m.fmt / 2) (Float.packExact (stvFmt m.fmt) false (.fin false 1 0 false)) ++
      toBytes (stvBytes m.fmt / 2) 0
    forUpTo (fun x => writeAmp c m x (if x = i.toNat % all then one else toBytes (stvBytes m.fmt) 0)) all 0
    pure ⟨m, none⟩
  | .stvGate plan u _ => do
    let m' ← remaps c (m.exchanges (planTargets plan ++ planControls plan) (planTargets plan)) m
    forUpTo (fun x => if gateGroup plan x then gateOne c m' plan u x else pure ()) all 0
    pure ⟨m', none⟩
  | .stvSwap q r => do
    exchangeQubits c m q r
    pure ⟨m.exchanged q r, none⟩
  | .stvProb dst mask value => do
    let sum ← probSum c m (mask.toNat % all) (value.toNat % all) all 0 (.zero false)
    pure ⟨m, some (dst, toBytes 8 (Float.packExact Float.f64 false sum))⟩
  | .stvFix mask value f => do
    forUpTo (fixOne c m (mask.toNat % all) (value.toNat % all) (Float.unpack Float.f64 false f.toNat)) all 0
    pure ⟨m, none⟩
  | .stvNorm dst => do
    let sum ← probSum c m 0 0 all 0 (.zero false)
    if sum.isZero then modify fun s => s.raiseVF c.loc Float.DZ
    else do
      let f ← stvRound c Float.f64 (Float.rsqrt sum)
      forUpTo (fixOne c m 0 0 (Float.unpack Float.f64 false f)) all 0
    pure ⟨m, some (dst, toBytes 8 (Float.packExact Float.f64 false sum))⟩
  | .stvAmp dst i => do
    let b ← readAmp c m (i.toNat % all)
    pure ⟨m, some (dst, b)⟩
  | _ => pure ⟨m, none⟩

/-- R366: a gate whose exchanges are done writes the amplitude of an index. -/
def gateWrites (plan : List Byte) (x : Nat) : Bool :=
  ((planControls plan).zipIdx).all fun p => x.testBit p.1 = (leAt plan 6 1).testBit p.2

/-- R362, R366: a gate writes the element at a position of the shares: an exchange swaps it, or the gate acts on it under the map that
the exchanges leave. -/
def gateWritesAt (plan : List Byte) (y : Nat) : List (Nat × Nat) → StvMap → Bool
  | [], m => gateWrites plan (m.index y)
  | (q, r) :: rest, m => (m.index y).testBit q != (m.index y).testBit r || gateWritesAt plan y rest (m.exchanged q r)

/-- R360: a command writes the element at a position of the shares, which is unspecified when a share faults. -/
def stvWrites (c : Cmd) (m : StvMap) (y : Nat) : Bool :=
  match c.kind with
  | .stvInit _ => true
  | .stvFix _ _ _ => true
  | .stvNorm _ => true
  | .stvSwap q r => (m.index y).testBit q != (m.index y).testBit r
  | .stvGate plan _ _ => gateWritesAt plan y (m.exchanges (planTargets plan ++ planControls plan) (planTargets plan)) m
  | _ => false

/-- R360: the amplitudes that a command writes take free values (log 18), as far as they can be reached. -/
def stvUnspecified (c : Cmd) (m : StvMap) : M Unit :=
  forUpTo (fun y => if stvWrites c m y then do
      let b ← freeBytes (stvBytes m.fmt)
      let _ ← attempt (writeAmp c m (m.index y) b)
      pure ()
    else pure ()) (2 ^ m.n) 0

/-- R360: a map that ends the command with outcome 0x29. -/
def stvMapBad (c : Cmd) (b : List Byte) : Bool :=
  let m := StvMap.ofBytes b
  !(stvMapOk b) || m.n ≠ stvN c.stv || match c.kind with
    | .stvGate _ _ fmt => m.fmt ≠ fmt
    | _ => false

/-- R360: the command reads its map, works, writes the map back, and writes its result: the record of the fault that ends it,
or none. -/
def stvPerform (c : Cmd) : M (Option FaultRec) := do
  let base := blockOf (stvMapVa c.stv)
  match c.kind with
  | .stvMap => pure none
  | _ =>
    match ← attempt (do
      let w ← stvReach c (locModule c.loc) (locDieKey ((← get).stvWho c).loc) base
      memRead w base 64 0) with
    | .error (.trap i) => pure (some (c.record 0 0xFFFFFFFE i))
    | .error e => throw e
    | .ok b =>
      let w := (← get).stvWho c
      let m := StvMap.ofBytes b
      if stvMapBad c b then pure (some (c.record 0 0 (engineTrap 0x29 base)))
      else if (match c.kind with | .stvGate plan _ _ => tooFew m plan | _ => false) then
        pure (some (c.record 0 0 (engineTrap 0x28 base)))
      else
        match ← attempt (stvWork c m) with
        | .error (.trap i) => do
          stvUnspecified c m
          pure (some (c.record 0 (m.share i.value) i))
        | .error e => throw e
        | .ok r => do
          let f ← work c 0xFFFFFFFE (memWrite w base r.map.toBytes 0)
          match f, r.result with
          | none, some (dst, data) => work c 0xFFFFFFFF (memWrite w dst data 0)
          | f, _ => pure f

/-- The command is the swage engines'. -/
def CmdKind.swage : CmdKind → Bool
  | .stvMap => true
  | .stvInit _ => true
  | .stvGate _ _ _ => true
  | .stvSwap _ _ => true
  | .stvProb _ _ _ => true
  | .stvFix _ _ _ => true
  | .stvNorm _ => true
  | .stvAmp _ _ => true
  | _ => false

/-- R360: two swage commands that run one after the other: of one thread, or on one map. -/
def sameStv (a b : Cmd) : Bool := a.kind.swage && b.kind.swage && (a.uid = b.uid || blockOf (stvMapVa a.stv) = blockOf (stvMapVa b.stv))

/-- R360, R364: an earlier command that a swage command follows has not completed. -/
def State.swageBehind (s : State) (c : Cmd) : Bool := s.cmds.any fun x => decide (x.id < c.id) && sameStv x c

/-- R360: the commands that waited for one that has completed are started. -/
def State.swageNext (s : State) (c : Cmd) : State :=
  { s with pending := s.pending ++
      (s.cmds.filter fun x => decide (c.id < x.id) && !x.performed && sameStv x c).map fun x => Event.swageCommandStart x.id }

/-- R360: the engine starts a command, unless an earlier one that it follows has not completed. -/
def swageStart (id : Nat) : M Unit := do
  let s ← get
  match s.cmd id with
  | none => pure ()
  | some c =>
    if c.performed || !(c.kind.swage) || s.swageBehind c then pure ()
    else do
      let f ← stvPerform c
      modify fun s => s.performed id f

end Sys2Proof.Machine
end

