-- ==== Sys2Proof/Machine/Triggers.lean ====
section
/-! DEFINITION. Completion counters (R277-R279) and triggers (R280-R282): waits, `kset`, `kget`, arming, firing. -/

namespace Sys2Proof.Machine

/-! ### Firing (R281) -/

/-- R203: the outcome of a word that the decoder refuses. -/
def decodeOutcome : DecodeError → Nat
  | .zeroWord => 0
  | .opcode => 0
  | .function => 1
  | .reserved => 2
  | .registerField => 3
  | .invalidateForm => 4
  | .operandSize => 4

/-- R281: the engine command that a word names, as it is accepted; none for a word that names none. -/
def acceptInstr : Instr → Option (M Unit)
  | .mxMac u v t a b k sel c => some (acceptMxMac u v t a b k sel c)
  | .mxMacb u v t a b k sel c => some (acceptMxMacb u v t a b k sel c)
  | .mxZero k c => some (acceptMxZero k c)
  | .mxLd a k c => some (acceptMxLd a k c)
  | .mxSt a k c => some (acceptMxSt a k c)
  | .mxHand k c => some (acceptMxHand k c)
  | .mxSend a b k => some (acceptMxSend a b k)
  | .cpCopy a b k => some (acceptCpCopy a b k)
  | .cpFill a b k => some (acceptCpFill a b k)
  | .cpRows a b k c => some (acceptCpRows a b k c)
  | .cpScat a b k c => some (acceptCpScat a b k c)
  | .tfill a b k o c => some (acceptTfill a b k o c)
  | .tdrain a b k o c => some (acceptTdrain a b k o c)
  | .tswap a b k => some (acceptTswap a b k)
  | .sndz a v k f x => some (acceptSndz a v k f x)
  | .nmc x l k r h => some (acceptNmc x l k r h)
  | .ngt x l k r h => some (acceptNgt x l k r h)
  | .nsc x l k r h => some (acceptNsc x l k r h)
  | .na2a x l k r h => some (acceptNa2a x l k r h)
  | .coll d l k o t => some (acceptColl d l k o t)
  | .treplay h b => some (acceptTreplay h b)
  | .stvMap a k => some (acceptStvMap a k)
  | .stvInit a k => some (acceptStvInit a k)
  | .stvGate a k => some (acceptStvGate a k)
  | .stvSwap a b k => some (acceptStvSwap a b k)
  | .stvProb a b k c => some (acceptStvProb a b k c)
  | .stvFix a b k c => some (acceptStvFix a b k c)
  | .stvNorm a k => some (acceptStvNorm a k)
  | .stvAmp a b k => some (acceptStvAmp a b k)
  | _ => none

/-- The decoding of a word of the ops that R280 lists. -/
def decodeTriggered (w : BitVec 32) : Option (Except DecodeError Instr) :=
  match bits w 31 26 with
  | 0x2D => some (decodeOp2D w)
  | 0x2F => some (decodeOp2F w)
  | 0x30 => some (decodeOp30 w)
  | 0x31 => some (decodeOp31 w)
  | 0x32 => some (decodeOp32 w)
  | 0x33 => some (decodeOp33 w)
  | 0x34 => some (decodeOp34 w)
  | _ => none

/-- R281: WORD accepted as if the thread issued it. -/
def acceptWord (w : BitVec 32) : M Unit :=
  match decodeTriggered w with
  | none => raise (engineTrap 0x24 0)
  | some (.error e) => raiseIllegal (decodeOutcome e) w
  | some (.ok i) =>
    match acceptInstr i with
    | some m => m
    | none => raise (engineTrap 0x24 0)

/-- R281: the record of a triggered word that is not accepted. Where it has no address, and for its command number, the spec
gives no value (log 18). -/
def State.triggerFault (s : State) (w : Place) (t : Trigger) (i : TrapInfo) : State :=
  let (v, s) := s.freeWord
  let (n, s) := s.freeWord
  s.mapThreadOf w fun x => x.addFault
    ⟨if i.data then i.value else v.zeroExtend 80, t.ctr, BitVec.ofNat 8 i.cause, BitVec.ofNat 8 i.outcome, 2, BitVec.ofNat 3 i.level,
      n.truncate 32, 0⟩

/-- R281, R132: a trigger of the thread of a place fires: the state after it, none when its word would stall, which is then tried again. The
thread's earlier stores have performed, as its latches must see them (log 80). -/
def State.fire (s : State) (w : Place) (t : Trigger) : Option State :=
  let s := match w with
    | .slot l k => (s.drain l k).performReleased
    | .parked _ _ => s.meetPlace w
  let back := fun (s' : State) => ({ s' with cur := s.cur, ops := s.ops }).mapThreadOf w fun x =>
    { x with trigs := removeFirst t x.trigs }
  match (acceptWord t.word).run { s with cur := w, ops := some t } with
  | .ok _ s' => some (back s')
  | .error (.trap i) s' => some ((back s').triggerFault w t i)
  | .error _ _ => none

/-- R278, R281: a count has reached a threshold; one with Serial(t, C) ≥ 2^31 − 1 counts as reached. -/
def reachedBy (c t : BitVec 32) : Bool := decide (0 ≤ serial c t) || decide (2 ^ 31 - 1 ≤ serial t c)

/-- R279, R281: the trigger's threshold is reached: Serial(C, n) ≥ 0, whereas a wait also ends at the farthest count (R278). -/
def Thread.reached (x : Thread) (t : Trigger) : Bool := decide (0 ≤ serial (x.k.get t.ctr.toFin).c t.threshold)

/-- R279, R281: the triggers of a thread that are reached fire in the order they were armed; behind one whose word stalls the others of its
counter wait. -/
def State.fireAll (s : State) (w : Place) : State :=
  ((s.threadOf w).trigs.foldl (fun (r : State × List (BitVec 3)) t =>
    if r.2.contains t.ctr || !((r.1.threadOf w).reached t) then r
    else match r.1.fire w t with
      | some s => (s, r.2)
      | none => (r.1, r.2 ++ [t.ctr])) (s, [])).1

/-- R281: the triggers of the threads that a core serves: those in its slots and those it has parked. -/
def State.fireCore (s : State) (l : Loc) : State :=
  let s := (List.range 5).foldl (fun s k => if (s.threadAt l k).st = .free then s else s.fireAll (.slot l k)) s
  ((s.cluster (locClusterKey l)).parked.filter (·.loc = l)).foldl (fun s p => s.fireAll (.parked l p.slot)) s

/-! ### Waits (R278) -/

/-- R266: a marked counter delivers its fault. -/
def testMark (k : BitVec 3) : M Unit := do
  let s ← get
  if s.thr.marked k then
    let (i, t) := s.thr.deliver k
    set (s.setThr t)
    raise i

/-- R278: the command number that an immediate names. -/
def waitNumber (i : BitVec 32) (n : Nat) : BitVec 32 := i - BitVec.ofNat 32 ((i - BitVec.ofNat 32 n).toNat % 2 ^ 15)

/-- R278: `waitk`. -/
def waitkM (k : BitVec 3) (t : State → BitVec 32) : M Unit := do
  testMark k
  let s ← get
  if reachedBy (s.k k).c (t s) then pure () else stall

/-- R278: `waitb`. -/
def waitbM (k : BitVec 3) (t : BitVec 32) : M Unit := do
  check (t ≠ 0) 0x04
  testMark k
  let c := (← get).k k
  if 0 ≤ serial (c.i - c.c) t then stall

/-- R277: the immediate of a wait. -/
def waitImm (nhi : BitVec 10) (nlo : BitVec 5) : Nat := nhi.toNat * 32 + nlo.toNat

def execWaitkImm (nhi : BitVec 10) (k : BitVec 3) (nlo : BitVec 5) (s : State) : Out :=
  runAdv (waitkM k fun s => waitNumber (s.k k).i (waitImm nhi nlo)) s
def execWaitkReg (a : BitVec 5) (k : BitVec 3) (s : State) : Out := runAdv (waitkM k fun s => (s.g a).truncate 32) s
def execWaitbImm (nhi : BitVec 10) (k : BitVec 3) (nlo : BitVec 5) (s : State) : Out :=
  runAdv (waitbM k (BitVec.ofNat 32 (waitImm nhi nlo))) s
def execWaitbReg (a : BitVec 5) (k : BitVec 3) (s : State) : Out := runAdv (waitbM k ((s.g a).truncate 32)) s

/-! ### `kset`, `kget`, `trig`, `untrig` (R279-R282) -/

/-- R279. -/
def execKset (a : BitVec 5) (k : BitVec 3) (s : State) : Out :=
  runAdv (do
    let s ← get
    let c := s.k k
    if c.i ≠ c.c then stall
    let v : BitVec 32 := (s.g a).truncate 32
    modify fun s => (s.setK k ⟨v, v⟩).fireAll s.cur) s

/-- R279. -/
def execKget (a : BitVec 5) (k : BitVec 3) (s : State) : Out :=
  s.result a (BitVec.ofNat 64 ((s.k k).i.toNat * 2 ^ 32 + (s.k k).c.toNat))

/-- R280: a trigger from its block. -/
def triggerOf (s : State) (k : BitVec 3) (n : BitVec 32) (base : Ptr) (b : List Byte) : Trigger :=
  ⟨k, n, base, BitVec.ofNat 32 (leAt b 4 4), BitVec.ofNat 80 (leAt b 8 10), BitVec.ofNat 80 (leAt b 24 10), BitVec.ofNat 80 (leAt b 40 10),
    s.actCtx, s.actUser, s.actWinp⟩

/-- R281: a thread holds at most eight armed triggers. -/
def execTrig (a b : BitVec 5) (k : BitVec 3) (s : State) : Out :=
  runCAdv (do
    let s ← get
    if 8 ≤ s.thr.trigs.length then stall
    let va := s.p b
    let blk ← latch va 1 s.word
    modify fun s =>
      let t := triggerOf s k ((s.g a).truncate 32) (blockOf va) blk
      (s.mapThr fun x => { x with trigs := x.trigs ++ [t] }).fireAll s.cur) s

/-- R282. -/
def execUntrig (b : BitVec 5) (k : BitVec 3) (s : State) : Out :=
  done (s.mapThr fun x => { x with trigs := x.trigs.filter fun t => !(t.ctr = k && t.block = blockOf (s.p b)) })

end Sys2Proof.Machine
end

