-- ==== Sys2Proof/Machine/Control.lean ====
section
/-! DEFINITION. The control-register instructions (R376, R377) with the access rules of R206. -/

namespace Sys2Proof.Machine

/-- R192: a command whose arithmetic raises flags in VFSTAT. -/
def CmdKind.flagged : CmdKind → Bool
  | .mac _ _ _ _ _ _ _ _ _ => true
  | .mxZero _ => true
  | .mxLd _ _ => true
  | .mxSt _ _ => true
  | .mxHand _ => true
  | .mxSend _ _ _ _ _ => true
  | .sndz _ _ _ _ => true
  | .transfer _ _ _ _ _ => true
  | .coll _ _ _ _ => true
  | .treplay _ _ _ _ _ _ => true
  | k => k.swage

/-- R192: a read of VFSTAT waits for the thread's own commands and queued instructions that raise flags. -/
def awaitFlags (n : Nat) : M Unit := do
  let s ← get
  if n = 0x19 && (!(s.queuedUnits s.thr.uid).isEmpty || s.thr.opens.any fun o => !o.done && match s.cmd o.cmd with
      | some c => c.kind.flagged
      | none => false)
  then stall

/-- R206: an assigned number, and the access that user mode has. -/
def ctrlCheck (n : Nat) (user : Bool) : M Unit := do
  check (ctrlAssigned n) 0x04
  demand (user || !(← get).user) privTrap

/-- R377: `crr`. -/
def execCrr (d : BitVec 5) (c : BitVec 11) (s : State) : Out :=
  runAdv (do
    ctrlCheck c.toNat (ctrlUserRead c.toNat)
    awaitFlags c.toNat
    modify fun s => s.setG d (s.ctrl c.toNat)) s

/-- R377: `crw`; flags clear where a 1 is written. -/
def execCrw (a : BitVec 5) (c : BitVec 11) (s : State) : Out :=
  runAdv (do
    ctrlCheck c.toNat (ctrlUserWrite c.toNat)
    writeCtrl c.toNat (s.g a)) s

/-- R377: `crs`; flags that clear by a 1 do not change. -/
def execCrs (d a : BitVec 5) (c : BitVec 11) (s : State) : Out :=
  runAdv (do
    let n := c.toNat
    ctrlCheck n (ctrlUserRead n && ctrlUserWrite n)
    let old := s.ctrl n
    if !(ctrlW1C n) then writeCtrl n (old ||| s.g a)
    modify fun s => s.setG d old) s

/-- R377: `crc`, which user mode may use on the flags. -/
def execCrc (d a : BitVec 5) (c : BitVec 11) (s : State) : Out :=
  runAdv (do
    let n := c.toNat
    ctrlCheck n (ctrlUserRead n && (ctrlUserWrite n || ctrlW1C n))
    let old := s.ctrl n
    writeCtrl n (if ctrlW1C n then s.g a else old &&& ~~~(s.g a))
    modify fun s => s.setG d old) s

end Sys2Proof.Machine
end

