-- ==== Sys2Proof/Machine/Trace.lean ====
section
/-! DEFINITION. Trace records (R432, R433) and the PC-match table (R434, R435). -/

namespace Sys2Proof.Machine

/-! ### Trace records -/

/-- R432: records that the ring holds. -/
def trcRecords (cfg : Word) : Nat := 2 ^ 16 * 2 ^ bits cfg 56 53 / 32

/-- R432: the unit traces a task: EN, and the TEAM filter. -/
def traced (cfg : Word) (gtid : Word) : Bool := bit cfg 63 && (bits cfg 31 0 = 0 || bits cfg 31 0 = bits gtid 63 32)

/-- R433: the 32 bytes of a record. -/
def trcBytes (t : Thread) (now : Nat) (l : Loc) (k kind tag : Nat) (value : Word) : List Byte :=
  toBytes 8 t.gtid.toNat ++ toBytes 8 now ++ toBytes 1 kind ++ toBytes 1 (k % 8 + locCore l * 16) ++ toBytes 2 tag ++
    toBytes 2 t.pc.toNat ++ toBytes 2 0 ++ toBytes 8 value.toNat

/-- R432: the place of the next record, none when the ring is full and does not wrap, or the place is no HBM of the die. -/
def State.trcPlace (s : State) (ck : Nat) : Option Nat :=
  let c := s.cluster ck
  let next := bits c.trcptr 31 0
  let pa := c.trcbase.toNat + 32 * (next % trcRecords c.trccfg)
  if (bit c.trccfg 62 || next < trcRecords c.trccfg) && paKind pa = 0 && paDieKey pa = ck / 64 && s.paThere pa 32
      && !(s.beyondHbm pa 32) then
    some pa
  else none

/-- R432, R433: a record for a thread is written, a request of its cluster's own (R92), or dropped and counted. -/
def State.trace (s : State) (l : Loc) (k kind tag : Nat) (value : Word) : State :=
  let ck := locClusterKey l
  let c := s.cluster ck
  let t := s.threadAt l k
  if traced c.trccfg t.gtid then
    match s.trcPlace ck with
    | some pa =>
      (s.homeWrite (some l) 0 pa (trcBytes t s.now l k kind tag value)).mapCluster ck fun c =>
        { c with trcptr := setBits c.trcptr 31 0 (bits c.trcptr 31 0 + 1) }
    | none => s.mapCluster ck fun c => { c with trcptr := setBits c.trcptr 63 32 (min (2 ^ 32 - 1) (bits c.trcptr 63 32 + 1)) }
  else s

/-! ### PC match -/

/-- R435: an entry matches an instruction of a thread. -/
def pcmMatches (c : Core) (t : Thread) (e : Word) : Bool :=
  bit e 63 && bits e 15 2 * 4 = t.pc.toNat && (!(bit e 61) || bits e 59 40 = bits t.gtid 31 12) &&
    (!(bit e 60) || bits c.pcmteam 31 0 = bits t.gtid 63 32)

/-- R435: the lowest-numbered entry that matches the instruction at a thread's PC, when it is tested. -/
def State.pcMatch (s : State) (l : Loc) (k : Nat) : Option (Nat × Word) :=
  let c := s.core l
  let t := c.thread k
  if bit t.status 2 || bit t.status 3 || t.exempt then none
  else (List.range 16).findSome? fun i =>
    if pcmMatches c t (c.pcm.getD i 0) then some (i, c.pcm.getD i 0) else none

/-- R435, R398: the shadow context is entered: an alloy parts as for a trap, the handler runs in supervisor mode on the shadow
bank. -/
def State.enterShadow (s : State) (l : Loc) (k i : Nat) (e : Word) : State :=
  let n := (s.threadAt l k).alloy
  let s := s.partForTrap l k (trapInfo 0x12 i 0)
  let pc := (s.threadAt l k).pc
  let s := s.mapCore l fun c =>
    { c with shadowUser := some k
             shadow := (c.shadow.setIfInBounds 1 (BitVec.ofNat 64 i)).setIfInBounds 2 (pc.zeroExtend 64) }
  s.mapThreadAt l k fun t =>
    { t with shdPc := t.pc
             shdUser := bit t.status 0
             shdAlloy := n
             status := setBits (setBits t.status 3 3 1) 0 0 0
             pc := BitVec.ofNat 16 (bits e 29 16 * 4) }

/-- R435: what a match does; a thread that finds the shadow bank in use stays where it is. -/
def State.actOnMatch (s : State) (l : Loc) (k i : Nat) (e : Word) : State :=
  if bit e 62 then (s.trace l k 2 i 0).takeTrap l k (trapInfo 0x12 i 0)
  else if (s.core l).shadowUser.isSome then s
  else (s.trace l k 2 i 0).enterShadow l k i e

/-- R389. -/
def execTrc (a : BitVec 5) (t : BitVec 11) (s : State) : Out := done (s.trace s.loc s.slotNo 0 t.toNat (s.g a))

/-- R389: the enable field of an entry. -/
def State.pcmEnable (s : State) (e : BitVec 4) (on : Nat) : State :=
  s.mapCr fun c => { c with pcm := c.pcm.setIfInBounds e.toNat (setBits (c.pcm.getD e.toNat 0) 63 63 on) }

def execPcmEn (e : BitVec 4) (s : State) : Out := if s.user then trapOut s privTrap else done (s.pcmEnable e 1)
def execPcmDis (e : BitVec 4) (s : State) : Out := if s.user then trapOut s privTrap else done (s.pcmEnable e 0)

/-- R389, R435: back to the matched instruction, which is not tested again for this issue; an alloy that the match parted
forms again. -/
def State.pcmReturn (s : State) : State :=
  let n := s.thr.shdAlloy
  let s := s.mapCr fun c => { c with shadowUser := none }
  let s := s.mapThr fun t =>
    { t with pc := t.shdPc
             status := setBits (setBits t.status 3 3 0) 0 0 (if t.shdUser then 1 else 0)
             exempt := true
             shdAlloy := 0 }
  if n ≠ 0 then s.reform else s

def execPcmRet (s : State) : Out :=
  if s.user then trapOut s privTrap
  else if bit s.thr.status 3 then .next s.pcmReturn
  else trapOut s (illegal 0x05 s.word)

end Sys2Proof.Machine
end

