-- ==== Sys2Proof/Machine/System.lean ====
section
/-! DEFINITION. Traps by instruction, return, waiting on a word, safe points and stopping (R382-R386), invalidation (R38-R42), the
alloy instructions (R392-R397), and undefined words (R203). -/

namespace Sys2Proof.Machine

/-! ### `trap`, `brk`, `eret` -/

/-- R382: SYSCALL with outcome n. -/
def execTrap (n : BitVec 8) (s : State) : Out := trapOut s (trapInfo 0x14 n.toNat 0)

/-- R382, R433: BREAK with outcome n, which the trace unit records. -/
def execBrk (n : BitVec 8) (s : State) : Out := trapOut (s.trace s.loc s.slotNo 3 0 0) (trapInfo 0x11 n.toNat 0)

/-- R383. -/
def execEret (s : State) : Out := if s.user then trapOut s privTrap else .next s.returnFromTrap

/-! ### `idle` -/

/-- R384, R113: the thread issues `idle` again until the word differs; a reply that did not end the wait is done with. -/
def idleM (a sel : BitVec 3) (b : BitVec 5) : M Unit := do
  check (decide (sel.toNat ≤ 5)) 0x04
  let s ← get
  let va := s.p a
  if va.toNat % 8 ≠ 0 then raise (accessTrap 0x04 0x02 0 va)
  awaitRelease sel
  let x ← load va 8 0 none s.word
  if ofBytes x = (s.g b).toNat then
    modify State.endWaits
    stall

def execIdle (a sel : BitVec 3) (b : BitVec 5) (s : State) : Out := runCAdv (idleM a sel b) s

/-! ### `safe`, `halt` -/

/-- R385: the thread stops at the safe point: it was asked to, and nothing that holds it off stands. -/
def State.safeStops (s : State) : Bool :=
  decide (s.slotNo < 4) && bit s.cr.prectl s.slotNo && !s.inh && !(bit s.thr.status 3) && s.thr.streams.isEmpty

/-- R385, R177; without a free parking slot the stop waits. -/
def execSafe (n : BitVec 8) (s : State) : Out :=
  if s.inBody then s.bodyTrap
  else if s.safeStops then
    match s.cl.freePark with
    | some p => .next (s.stopSafe s.loc s.slotNo p n.toNat s.next)
    | none => done s
  else done s

/-- R386. -/
def execHalt (s : State) : Out :=
  if s.user then trapOut s privTrap
  else
    let s := (s.partAlloy s.loc s.slotNo 4).adv
    .next (s.stopSlot s.loc s.slotNo 0)

/-! ### Invalidation -/

/-- R37: the scopes of `tlbi` and `tlbsync`. -/
def shootScope (sel : BitVec 3) : Bool := decide (1 ≤ sel.toNat ∧ sel.toNat ≤ 5)

/-- R39: an invalidation sent to its scope, once the thread's stores and sends have performed; at most 16 are unacknowledged. -/
def tlbiM (c : BitVec 5) (sel : BitVec 3) (lo : Nat) (size : Option Nat) : M Unit := do
  let s ← get
  let t := s.thr
  if !(s.posted t.uid).isEmpty || !(s.unsent t.uid).isEmpty || 16 ≤ (s.invals.filter fun i => i.uid = t.uid).length then stall
  let w := s.g c
  let (id, s) := s.newId
  let ctx : Option (BitVec 16) := if bit w 16 then none else some (BitVec.ofNat 16 w.toNat)
  let i : Inval := ⟨id, t.uid, s.loc, sel, ctx, lo, size, false, 0, []⟩
  set ({ s with invals := s.invals ++ [i] }.push (.invalidate id))

/-- R38, R39: by address. -/
def execTlbi (c : BitVec 5) (sel : BitVec 3) (z : BitVec 4) (a : BitVec 3) (s : State) : Out :=
  if s.user then trapOut s privTrap
  else if !(shootScope sel) || 11 < z.toNat then trapOut s (illegal 0x04 s.word)
  else
    let size := 2 ^ (12 + 2 * z.toNat)
    runAdv (tlbiM c sel ((s.p a).toNat / size * size) (some size)) s

/-- R38, R39: a whole context. -/
def execTlbiCtx (c : BitVec 5) (sel : BitVec 3) (s : State) : Out :=
  if s.user then trapOut s privTrap
  else if !(shootScope sel) then trapOut s (illegal 0x04 s.word)
  else runAdv (tlbiM c sel 0 none) s

/-- R42. -/
def execTlbsync (sel : BitVec 3) (s : State) : Out :=
  if s.user then trapOut s privTrap
  else if !(shootScope sel) then trapOut s (illegal 0x04 s.word)
  else if s.invals.any fun i => i.uid = s.thr.uid && decide (i.scope.toNat ≤ sel.toNat) then .next s.held
  else done s

/-! ### The alloy -/

/-- R392: the size that an n code names. -/
def alloySize (n : BitVec 2) : Nat :=
  match n with
  | 1#2 => 2
  | 2#2 => 4
  | _ => 8

/-- R392-R394: the program counter moves on; the thread issues nothing while it forms. -/
def execAlloy (d : BitVec 5) (n : BitVec 2) (s : State) : Out :=
  if s.inBody then s.bodyTrap
  else if n = 0 then trapOut s (illegal 0x04 s.word)
  else .next (s.adv.formAlloy s.loc s.slotNo (alloySize n) (some d) s.pc)

/-- R396. -/
def execPart (s : State) : Out := if s.inBody then s.bodyTrap else done (s.partAlloy s.loc s.slotNo 1)

/-- R397. -/
def execAstat (d : BitVec 5) (s : State) : Out :=
  let n := s.thr.alloy
  s.result d (BitVec.ofNat 64 (if n = 0 then 1 else n + 16 * (locCore s.loc % n)))

/-! ### Undefined words (R203) -/

/-- R203 step 4: a privileged instruction, by its function code. -/
def privilegedWord (w : BitVec 32) : Bool :=
  let fn := bits w 25 16
  match bits w 31 26 with
  | 0x25 => fn = 2 || fn = 5 || fn = 0x20 || fn = 0x21
  | 0x37 => 1 ≤ fn && fn ≤ 3
  | 0x31 => bits w 25 19 = 3
  | _ => false

/-- R203: the trap of a word that the decoder refuses, in a mode. -/
def wordTrap (user : Bool) (w : BitVec 32) : Option TrapInfo :=
  match decodeError w with
  | none => none
  | some e =>
    some (match e with
      | .zeroWord => trapInfo 0x01 0 0
      | .opcode => illegal 0x00 w
      | .function => illegal 0x01 w
      | e =>
        if user && privilegedWord w then privTrap
        else match e with
          | .reserved => illegal 0x02 w
          | .registerField => illegal 0x03 w
          | .operandSize => illegal 0x04 w
          | _ => illegal (if shootScope (BitVec.ofNat 3 (bits w 10 8)) && bits w 7 4 ≤ 11 then 0x05 else 0x04) w)

/-- R203: a word that is no instruction traps when it comes to issue. -/
def execUndefinedWord (w : BitVec 32) (s : State) : Out :=
  match wordTrap s.user w with
  | some i => trapOut s i
  | none => .next s

end Sys2Proof.Machine
end

