-- ==== Sys2Proof/Machine/Completion.lean ====
section
/-! DEFINITION. Steps of the engines: a command performs and completes (R117, R118), arrives at its barrier (R283), fills and drains
turn their tiles (R59), exchanges (R296), sends, collectives and additions on the way (R327, R336, R349), endpoints (R413). -/

namespace Sys2Proof.Machine

/-! ### Performing and completing -/

/-- What a command does when its turn comes, for the engines that do it in one step; the record of the fault that ends it. -/
def performCmd (c : Cmd) : M (Option FaultRec) :=
  match c.kind with
  | .copy _ _ => performCopy c
  | .fill _ _ => performCopy c
  | .rows _ _ _ => performCopy c
  | .scat _ _ _ => performCopy c
  | .transfer kind x l tape hand => performTransfer c kind x l tape hand
  | .treplay ni e delta acc srnd result => performReplay c ni e delta acc srnd result
  | _ => pure none

/-- A command that `performCmd` performs. -/
def CmdKind.oneStep : CmdKind → Bool
  | .copy _ _ => true
  | .fill _ _ => true
  | .rows _ _ _ => true
  | .scat _ _ _ => true
  | .transfer _ _ _ _ _ => true
  | .treplay _ _ _ _ _ _ => true
  | _ => false

/-- A command of an Ethernet endpoint. -/
def CmdKind.eth : CmdKind → Bool
  | .ethPut _ _ _ _ _ _ _ => true
  | .ethRecv _ _ _ _ _ => true
  | .ethGet _ _ _ _ _ _ _ => true
  | _ => false

/-- A command performs, as far as this step performs it; what it would wait for leaves the state as it is. -/
def State.performStep (s : State) (c : Cmd) : State :=
  if c.kind.oneStep then
    match (performCmd c).run s with
    | .ok f s => s.mapCmd c.id fun c => { c with performed := true, fault := f }
    | .error _ _ => s
  else if c.kind.eth && !c.begun then
    match (ethPerform c).run s with
    | .ok _ s => s
    | .error _ _ => s
  else if c.kind.overlaps && c.begun then
    match (performMx c true c.kind).run s with
    | .ok f s => (s.mapCmd c.id fun c => { c with performed := true, fault := f }).push (.dispatchServe (locClusterKey c.loc) (locCore c.loc / 4))
    | .error _ _ => s
  else s

/-- R117, R283: a command that has performed arrives at its barrier, or completes; swage commands behind it start (R360), and its counter's
triggers fire (R281). -/
def State.complete (s : State) (id : Nat) : State :=
  match s.cmd id with
  | none => s
  | some c =>
    let s := if c.performed then s else s.performStep c
    match s.cmd id with
    | none => s
    | some c =>
      if !c.performed then s
      else if c.barrier.isSome && c.fault.isNone then s.push (.barrierArrival id)
      else ((s.finish id).swageNext c).fireCore c.loc

def execEngineCompletion (cmd : Nat) (s : State) : Out := .next (s.complete cmd)

/-- R283: the arrival of a command that has performed. -/
def barrierArrivalM (id : Nat) : M Unit := do
  match (← get).cmd id with
  | none => pure ()
  | some c =>
    match c.barrier with
    | some (va, gen) =>
      if c.performed && c.fault.isNone then do
        let f ← arriveAt c va gen
        modify fun s => (s.mapCmd id fun c => { c with barrier := none, fault := f }).push (.engineCompletion id)
    | none => pure ()

def execBarrierArrival (cmd : Nat) (s : State) : Out := runEvent (barrierArrivalM cmd) s

/-! ### Tiles -/

/-- R59, R294: a fill performs: the tile is ready, or empty when it faults. -/
def tileFillM (id : Nat) : M Unit := do
  match (← get).cmd id with
  | none => pure ()
  | some c =>
    match c.kind with
    | .tfill t d src stride sparse =>
      if !c.performed then
        let f ← workRows c (fillRow c d src stride sparse) (tileRows d) 0
        modify fun s => (s.setTileState c.loc t (if f.isNone then 2 else 0)).performed id f
    | _ => pure ()

def execTileFillComplete (cmd : Nat) (s : State) : Out := runEvent (tileFillM cmd) s

/-- R122: a command's instruction names the tile with a descriptor: as an operand of a product. -/
def Cmd.names (c : Cmd) (d : Word × Word) : Bool :=
  match c.kind with
  | .mac _ _ _ _ _ _ ta tb _ => ta.map tileStored = some (tileStored d) || tb.map tileStored = some (tileStored d)
  | _ => false

/-- R122: an instruction that named the tile of a drain before it was accepted has not performed. -/
def State.namedBefore (s : State) (c : Cmd) (d : Word × Word) : Bool :=
  s.cmds.any fun x => decide (x.id < c.id) && x.loc = c.loc && !x.performed && x.names d

/-- R59, R294: a drain performs: the tile is ready, or empty under the release option; one that faults leaves it ready. -/
def tileDrainM (id : Nat) : M Unit := do
  match (← get).cmd id with
  | none => pure ()
  | some c =>
    match c.kind with
    | .tdrain t d dst stride release =>
      if !c.performed && !((← get).namedBefore c d) then
        let f ← workRows c (drainRow c d dst stride) (tileRows d) 0
        modify fun s => (s.setTileState c.loc t (if f.isNone && release then 0 else 2)).performed id f
    | _ => pure ()

def execTileDrainComplete (cmd : Nat) (s : State) : Out := runEvent (tileDrainM cmd) s

/-- R296: the exchange of two tiles, once both sides have accepted. -/
def tswapM (id : Nat) : M Unit := do
  let s ← get
  match s.cmd id with
  | none => pure ()
  | some c =>
    match c.kind with
    | .tswap t d partner =>
      match s.swapPartner c.loc t partner with
      | some p =>
        match p.kind with
        | .tswap _ e _ => if c.performed || partner = c.loc then pure () else exchange c p d e
        | _ => pure ()
      | none => pure ()
    | _ => pure ()

def execTswapExchange (cmd : Nat) (s : State) : Out := runEvent (tswapM cmd) s
def execTswapTimeout (cmd : Nat) (s : State) : Out := .next (s.swapTimeout cmd)

/-! ### Streams and the dispatch queues -/

/-- R261. -/
def execStreamChunkArrival (loc slot reg : Nat) (s : State) : Out := runEvent (streamChunk loc slot reg) s

/-- R161; a trigger whose word waited for room in a queue fires (R281). -/
def execDispatchServe (cl unit : Nat) (s : State) : Out :=
  match runEvent (serve cl unit) s with
  | .next s => .next ((List.range 4).foldl (fun s i => s.fireCore (cl * 16 + 4 * unit + i)) s)
  | o => o

/-- R327. -/
def execMxSendArrival (cmd : Nat) (s : State) : Out := .next (s.mxSendArrival cmd)

/-- R360. -/
def execSwageCommandStart (cmd : Nat) (s : State) : Out := runEvent (swageStart cmd) s

/-! ### Collectives and sparse sends -/

/-- R349. -/
def execCollContribution (cmd : Nat) (s : State) : Out := runEvent (collContribute cmd) s

/-- R349: the commands that wait on the tree of a rank, each its member's oldest. -/
def State.collWaiting (s : State) (team : BitVec 32) (t : Nat) (rank : BitVec 20) : List Cmd :=
  (rank :: s.otherMembers team t rank).filterMap fun r => s.collOf team t r

/-- R349: the blocks of a tree disagree: two members do not name each other as parent and child, or the commands that wait on it
differ in operation, count or format. -/
def State.collDisagrees (s : State) (team : BitVec 32) (t : Nat) (rank : BitVec 20) : Bool :=
  let trees := s.treeAt team t rank
  let shapes := (s.collWaiting team t rank).map collShape
  (trees.any fun x => trees.any fun y =>
    x.children.contains y.rank && (y.root || y.parent != x.rank) || !y.root && y.parent = x.rank && !(x.children.contains y.rank)) ||
  shapes.any fun a => shapes.any fun b => a ≠ b

/-- R349: a tree that disagrees ends the commands that wait on it. -/
def execCollTimeout (cmd : Nat) (s : State) : Out :=
  match s.cmd cmd with
  | none => .next s
  | some c =>
    match c.kind with
    | .coll _ t _ _ =>
      let team := teamOf c.gtid
      let rank := rankOf c.gtid
      if !c.performed && s.collDisagrees team t rank then
        .next ((s.collWaiting team t rank).foldl (fun s c => s.failCommand c 0x0E 0x27) s)
      else .next s
    | _ => .next s

/-- R336: the receiving NI performs the additions; while the rank moves the command waits. -/
def execSndzArrival (cmd : Nat) (s : State) : Out :=
  match s.cmd cmd with
  | none => .next s
  | some c =>
    match c.kind with
    | .sndz rank v bf x =>
      if c.performed then .next s
      else match (work c 0 (sndzWork c rank v bf x)).run s with
        | .ok f s => .next (s.performed cmd f)
        | .error _ _ => .next s
    | _ => .next s

/-! ### Ethernet and timeouts -/

/-- R413. -/
def execEthPacketArrival (die : Nat) (msg : EthMessage) (get_ : Bool) (key roff : BitVec 64) (len off : Nat) (data : List (BitVec 8))
    (s : State) : Out :=
  runHeld (.ethPacketArrival die msg get_ key roff len off data) (ethPacket die msg get_ key roff off len data) s

/-- R350. -/
def execEthTimeout (cmd : Nat) (s : State) : Out := .next (s.ethTimeout cmd)

/-- R82, R327: a request, or a sent matrix command, gets no answer within TMO. -/
def execRemoteTimeout (req : Nat) (s : State) : Out :=
  match s.cmd req with
  | some c =>
    match c.kind with
    | .mxSend _ _ _ _ _ => if c.performed then .next s else .next (s.failCommand c 0x0B 1)
    | _ => .next s
  | none => runEvent (noReply req) s

end Sys2Proof.Machine
end

