-- ==== Sys2Proof/Machine/TaskSteps.lean ====
section
/-! DEFINITION. Steps of cores and register blocks that no word of a thread encodes: pre-emption (R174, R177), SLOTCTL (R387), the
overflow registers (R170), forming and parting alloys (R394, R396), invalidation (R39, R42), register writes (R436), hotness and
migration of pages (R91-R97), waiting writes (R56, R67). -/

namespace Sys2Proof.Machine

/-! ### Pre-emption and slots -/

/-- R174. -/
def execPreemptRequest (loc slot : Nat) (s : State) : Out := .next (s.requestPreempt loc slot)

/-- R177: a forced stop that is due. -/
def execForcedStop (loc slot : Nat) (s : State) : Out :=
  match s.forcedStopDue loc slot with
  | some n => .next (s.stopForced loc slot n)
  | none => .next s

/-- R174. -/
def execParkres (loc park : Nat) (s : State) : Out := runHeld (.parkres loc park) (parkRes loc park) s

/-- R387. -/
def execSlotctlResume (loc slot : Nat) (s : State) : Out := .next (s.slotResume loc slot)
def execSlotctlDiscard (loc slot : Nat) (s : State) : Out := .next (s.slotDiscard loc slot)

/-- R170. -/
def execIbxpop (loc : Nat) (s : State) : Out := .next (s.ibxPop loc)
def execIbxEnd (loc : Nat) (s : State) : Out := .next (s.ibxEnd loc)

/-- R384: a waiting `idle` reads its word again, at an instruction boundary of its thread. -/
def execIdleRecheck (loc slot : Nat) (s : State) : Out :=
  let here := { s with cur := Place.slot loc slot, ops := none }
  let t := here.thr
  let w := here.word
  if t.st = .running && t.forming.isNone && t.pc.toNat < (s.core loc).exb.toNat && bits w 31 16 = 0x9403 && bits w 15 14 = 0 && bits w 7 5 = 0 then
    match execIdle (BitVec.ofNat 3 (bits w 13 11)) (BitVec.ofNat 3 (bits w 10 8)) (BitVec.ofNat 5 (bits w 4 0)) here with
    | .next s' => .next { s' with cur := s.cur, ops := s.ops }
    | o => o
  else .next s

/-! ### Alloys -/

/-- R394: the group has fallen free: the alloy stands from the thread's next instruction. -/
def State.alloyForms (s : State) (l : Loc) (k : Nat) : State :=
  match (s.threadAt l k).forming with
  | none => s
  | some f =>
    if s.groupFree l k f.size then
      (s.mapThreadAt l k fun t => { t with forming := none, alloy := f.size }).formResult l k f.dest 0
    else s

def execAlloyFormed (loc slot : Nat) (s : State) : Out := .next (s.alloyForms loc slot)

/-- R394: the group has not fallen free within LIMIT. -/
def State.alloyExpires (s : State) (l : Loc) (k : Nat) : State :=
  match (s.threadAt l k).forming with
  | none => s
  | some f =>
    if f.since + (s.core l).altmo.toNat ≤ s.now then (s.undoForming l k).formResult l k f.dest 1 else s

def execAlloyTimeout (loc slot : Nat) (s : State) : Out := .next (s.alloyExpires loc slot)

/-- R396: a member of a parted alloy is handed back: its messages move to its own inbox. -/
def execAlloyMemberFree (loc : Nat) (s : State) : Out := .next (s.undoRedirect loc)

/-! ### Invalidation -/

/-- R39, R210: the units and walk caches of the scope drop what the invalidation covers; the stores of their threads that have not
performed do so first (log 80), and what was asked of other modules before then is in flight. -/
def State.invalidateUnits (s : State) (i : Inval) : State :=
  let s := s.drainAll fun l => unitInScope i.loc i.scope.toNat (coreUnit l)
  let pages := s.tlbs.flatMap fun e =>
    if unitInScope i.loc i.scope.toNat e.1 then (e.2.filter (invalCovers i)).map fun t => (e.1, t.ctx, t.base, t.size) else []
  { s with
    tlbs := s.tlbs.map fun e =>
      if unitInScope i.loc i.scope.toNat e.1 then (e.1, e.2.filter fun t => !(invalCovers i t)) else e
    walks := s.walks.map fun e =>
      if walkInScope i.loc i.scope.toNat e.1 then (e.1, e.2.filter fun t => !(invalCoversWalk i t)) else e
    kept := s.kept.filter fun k => !(unitInScope i.loc i.scope.toNat (coreUnit k.loc))
    invals := s.invals.map fun x => if x.id = i.id then { x with dropped := true, upto := s.nextId, pages := pages } else x }

def execInvalidate (inv : Nat) (s : State) : Out :=
  match s.invals.find? fun i => i.id = inv with
  | none => .next s
  | some i => .next ((s.invalidateUnits i).push (.invalidateAck inv))

/-- R39, R40: an access that a unit of the scope made before the entries were dropped, through one of them or under a context and in
the range that the invalidation covers, and that has not performed: a request, or a vector memory form in the dispatch queue; a module that cannot be reached counts as having acknowledged. -/
def State.inFlight (s : State) (i : Inval) : Bool :=
  let early := fun (id : Nat) (l : Loc) =>
    decide (id < i.upto) && unitInScope i.loc i.scope.toNat (coreUnit l) && !(s.cutOff (locModule i.loc) (locModule l))
  let covered := fun (l : Loc) (ctx : BitVec 16) (va : Ptr) (len : Nat) =>
    (match i.ctx with | none => true | some c => ctx = c) &&
      (match i.size with | none => true | some n => overlap va.toNat len i.lo n) ||
    i.pages.any fun x => x.1 = coreUnit l && x.2.1 = ctx && overlap va.toNat len x.2.2.1 x.2.2.2
  (s.reqs.any fun r => early r.id r.loc && !r.performed &&
    r.parts.any fun p => !(r.op = .write && p.data.isEmpty) && covered r.loc r.ctx p.va p.len) ||
  s.cmds.any fun c => early c.id c.loc && match c.kind with
    | .vmem _ _ _ _ places => places.any fun x => covered c.loc c.ctx x.va x.len
    | _ => false

/-- R42: the acknowledgements have arrived. -/
def execInvalidateAck (inv : Nat) (s : State) : Out :=
  match s.invals.find? fun i => i.id = inv with
  | none => .next s
  | some i => if i.dropped && !(s.inFlight i) then .next { s with invals := s.invals.filter fun x => x.id ≠ inv } else .next s

/-! ### Registers -/

/-- R436: a register write that no row of its own covers, refused as an access is. -/
def execRegisterWrite (loc : Nat) (user : Bool) (pa value : BitVec 64) (s : State) : Out :=
  match (regWrite loc user 0 pa.toNat 8 value).run s with
  | .ok _ s => .next s
  | .error _ _ => .next s

/-- R56. -/
def execExbWrite (loc : Nat) (value : BitVec 64) (s : State) : Out := .next (s.setExb loc value)

/-- R19: a write by the hallmark core. -/
def execCtxalwWrite (loc : Nat) (value : BitVec 64) (s : State) : Out := .next (s.setCtxalw loc value)

/-- R412, R19: refused when the writing core may not load the context. -/
def execEpcfgWrite (die loc : Nat) (value : BitVec 64) (s : State) : Out :=
  if ctxAllowed (s.core loc).ctxalw (bits value 15 0) then .next (s.writeEpcfg die loc value) else .next s

/-- R67. -/
def execParkcfgApply (cl : Nat) (s : State) : Out := .next (s.applyParkcfg cl)

/-- R432. -/
def execTrcptrWrite (cl : Nat) (s : State) : Out := .next (s.clearTrcptr cl)

/-- R210: a kept copy is dropped 1 ms after it was read. -/
def execKeptCopyDropped (loc : Nat) (s : State) : Out :=
  .next { s with kept := s.kept.filter fun k => !(k.loc = loc && decide (k.since + keptTime ≤ s.now)) }

/-! ### Page hotness and migration -/

/-- R91. -/
def execHotnessDecay (die : Nat) (s : State) : Out := .next (s.hotDecay die)
def execHotcfgClr (die : Nat) (s : State) : Out := .next (s.hotClear die)
def execHotcfgClearDone (die : Nat) (s : State) : Out := .next (s.hotClearDone die)

/-- R94-R97. -/
def execMigStart (die slot : Nat) (s : State) : Out := .next (s.migStart die slot)
def execMigCommit (die slot : Nat) (s : State) : Out := .next (s.migCommit die slot)
def execMigRelease (die slot : Nat) (s : State) : Out := .next (s.migRelease die slot)
def execMigAbort (die slot : Nat) (s : State) : Out := .next (s.migAbort die slot)
def execMigGranuleCopied (die slot : Nat) (s : State) : Out := .next (s.migGranule die slot)
def execMigCopyError (die slot : Nat) (unreachable : Bool) (s : State) : Out := .next (s.migError die slot unreachable)

end Sys2Proof.Machine
end

