-- ==== Sys2Proof/Machine/Dispatcher.lean ====
section
/-! DEFINITION. The dispatchers (R166-R168): launches, distribution, team regions; free slots (R172), team migration (R173), and the
host's message window (R414). -/

namespace Sys2Proof.Machine

/-! ### Launches -/

/-- R154: the dispatcher of a die. -/
def dispatcherLoc (dk : Nat) : Loc := mgmtLoc (dk / 16) (dk % 16) 0 0

/-- The dispatcher's accesses under a context, as supervisor software (log 15). -/
def dispatcherWho (dk : Nat) (ctx : BitVec 16) : Who :=
  let l := dispatcherLoc dk
  ⟨coreUnit l, .c, false, l, ctx, false, []⟩

/-- An access of the dispatcher: none when it faults. -/
def tryRead (dk : Nat) (ctx : BitVec 16) (va n : Nat) : M (Option (List Byte)) := do
  match ← attempt (memRead (dispatcherWho dk ctx) (BitVec.ofNat 80 va) n 0) with
  | .ok b => pure (some b)
  | .error _ => pure none

/-- A write of the dispatcher; one that faults changes nothing. -/
def tryWrite (dk : Nat) (ctx : BitVec 16) (va : Nat) (b : List Byte) : M Unit := do
  let _ ← attempt (memWrite (dispatcherWho dk ctx) (BitVec.ofNat 80 va) b 0)
  pure ()

/-! R166: the fields of a launch descriptor. -/
def ldHidx (b : List Byte) : Nat := leAt b 4 2
def ldPol (b : List Byte) : Nat := leAt b 6 1
def ldTsize (b : List Byte) : Nat := leAt b 8 4
def ldRegsz (b : List Byte) : Nat := leAt b 12 4
def ldFirst (b : List Byte) : Nat := leAt b 36 4
def ldPlt (b : List Byte) : Nat := leAt b 40 8
def ldTeam (b : List Byte) : Nat := leAt b 48 4
def ldRank0 (b : List Byte) : Nat := leAt b 52 4
def ldNomig (b : List Byte) : Bool := (ldPol b).testBit 2
def ldDep (b : List Byte) : Bool := (ldPol b).testBit 3

/-- R166: a launch descriptor within its limits. -/
def launchLegal (b : List Byte) : Bool :=
  ldHidx b ≤ 0xFFD && ldPol b % 4 ≤ 1 && ldPol b < 16 && leAt b 7 1 = 0 && decide (1 ≤ ldTsize b ∧ ldTsize b ≤ 2 ^ 20) &&
  ldRegsz b % 4096 = 0 && ldRegsz b ≤ 0x200000 && ldFirst b < 2 ^ 10 && ldRank0 b + ldTsize b ≤ 2 ^ 20 && zeroBytes b 60 4

/-- R167: the dispatcher writes the status of a launch. -/
def launchStatus (dk : Nat) (l : Launch) (st : Nat) : M Unit := tryWrite dk l.ctx (l.ld.toNat + 56) (toBytes 4 st)

/-- R159, R166: the message that a dispatcher's inbox selects, when it is a launch. -/
def Core.pickLaunch (c : Core) : Option InMsg := c.pick.filter fun m => hidxOf m.header = 0

/-- R167: a launch message is taken: its descriptor is latched, and queued or found malformed. One that cannot be read is
dropped. -/
def launchM (dk : Nat) : M Unit := do
  let at_ := dispatcherLoc dk
  match ((← get).core at_).pickLaunch with
  | none => pure ()
  | some m => do
    modify fun s => s.takeOut at_ m
    let (qd, ld) := (m.payload.getD 0 0, m.payload.getD 1 0)
    match ← tryRead dk m.ctx (ld.toNat / 64 * 64) 64 with
    | none => pure ()
    | some b => do
      let l : Launch := ⟨qd, ld, m.ctx, b⟩
      if launchLegal b then do
        modify fun s => s.mapDie dk fun d => { d with launches := d.launches ++ [l] }
        launchStatus dk l 0x01
        modify fun s => s.push (.launchDistribute dk)
      else launchStatus dk l 0x81

def execLaunch (die : Nat) (s : State) : Out := runEvent (launchM die) s

/-! ### Distribution -/

/-- R167: the logical core of local rank i, as 16·cluster + core. -/
def placeOfRank (b : List Byte) (i : Nat) : Nat :=
  let cl := ldFirst b / 16
  let c := ldFirst b % 16
  if ldPol b % 4 = 0 then (16 * cl + c + i) % 1024 else (cl + i) % 64 * 16 + (c + i / 64) % 16

/-- R166: a queue's descriptor: whether it is enabled, and its priority; one that cannot be read is disabled. It is read anew at
each use, so that a PRIO rewritten without a new GEN is seen (log 95). -/
def queueState (dk : Nat) (qd : Word) (ctx : BitVec 16) : M (Bool × Nat) := do
  match ← tryRead dk ctx (qd.toNat / 64 * 64) 64 with
  | none => pure (false, 0)
  | some b => pure ((leAt b 5 1).testBit 0, leAt b 4 1 % 8)

/-- The 4 KiB pages of a cluster's SP2 that a new region may take: outside the parking slots, the heaps and other regions. -/
def State.pageFree (s : State) (dk cl page : Nat) : Bool :=
  let ck := dk * 64 + cl
  let c := s.cluster ck
  !(overlap (page * 4096) 4096 (parkOff c.parkcfg 0) (parkUsable c.parkcfg * 9216)) &&
  !(overlap (page * 4096) 4096 (heapRange c.ovfcfg).1 (heapRange c.ovfcfg).2) &&
  !((s.die dk).regions.any fun r => r.cluster = cl && r.base4k ≤ page && page < r.base4k + r.pages)

/-- Where a region of `n` pages fits in a cluster. -/
def State.regionBases (s : State) (dk cl n : Nat) : List Nat :=
  (List.range (513 - n)).filter fun p => (List.range n).all fun i => s.pageFree dk cl (p + i)

/-- R167: a region of `n` pages in each of some clusters, none when one has no room; the place is the part's choice (log 18). -/
def State.allocate (s : State) (dk n : Nat) (team : BitVec 32) (ctx : BitVec 16) : List Nat → Option State
  | [] => some s
  | cl :: rest =>
    match s.regionBases dk cl n with
    | [] => none
    | p :: ps =>
      let (i, s) := s.choose (ps.length + 1)
      let r : Region := ⟨cl, (p :: ps).getD i p, n, team, ctx⟩
      (s.mapDie dk fun d => { d with regions := d.regions ++ [r] }).allocate dk n team ctx rest

/-- R167: the clusters that Place names, each once. -/
def launchClusters (b : List Byte) : List Nat := ((List.range (ldTsize b)).map fun i => placeOfRank b i / 16).eraseDups

/-- R167: the next team id of a die. -/
def State.nextTeam (s : State) (dk : Nat) : BitVec 32 × State :=
  let n := (s.die dk).teamSeq + 1
  let n := if n = 0 then 1 else n
  (BitVec.ofNat 32 (dk / 16 * 2 ^ 22 + dk % 16 * 2 ^ 18 + n.toNat), s.mapDie dk fun d => { d with teamSeq := n })

/-- R163: a placement entry. -/
def entryOf (l : Loc) (epoch state reg : Nat) : Word :=
  BitVec.ofNat 64 (srcOf l * 2 ^ 40 + epoch % 2 ^ 12 * 2 ^ 28 + state * 2 ^ 26 + reg % 2 ^ 9 * 2 ^ 17)

/-- The region of a team in a cluster, as the last launch allocated it. -/
def State.regionOf (s : State) (dk cl : Nat) (team : BitVec 32) : Nat :=
  match ((s.die dk).regions.filter fun r => r.cluster = cl && r.team = team).getLast? with
  | some r => r.base4k
  | none => 0

/-- R167: rank i of a launch: its entry is written and its message sent. -/
def launchRank (dk : Nat) (l : Launch) (team : BitVec 32) (i : Nat) : M Unit := do
  let rank := ldRank0 l.block + i
  let place := placeOfRank l.block i
  let core := mkLoc 0 (dk / 16) (dk % 16) (place / 16) (place % 16)
  let reg := (← get).regionOf dk (place / 16) team
  tryWrite dk l.ctx (ldPlt l.block + 8 * rank) (toBytes 8 (entryOf core 0 1 reg).toNat)
  let (_, prio) ← queueState dk l.qd l.ctx
  let from_ := dispatcherLoc dk
  modify fun s => s.send { message core (headerOf (ldHidx l.block) 0 prio (srcOf from_) 1)
    [BitVec.ofNat 64 (leAt l.block 16 8), BitVec.ofNat 64 (ldTsize l.block), 0, 0, 0, 0, 0] (rankGtid team (BitVec.ofNat 20 rank) 0) l.ctx
    with rank := some (team, BitVec.ofNat 20 rank), region := some reg }

/-- R167: whether a head's dependence is met: none when its counter cannot be read. -/
def launchReady (dk : Nat) (l : Launch) : M (Option Bool) := do
  if !(ldDep l.block) then pure (some true)
  else
    match ← tryRead dk l.ctx (leAt l.block 24 8) 4 with
    | none => pure none
    | some b => pure (some (decide (0 ≤ serial (BitVec.ofNat 32 (ofBytes b)) (BitVec.ofNat 32 (leAt l.block 32 4)))))

/-- A launch taken off its queue. -/
def State.dropLaunch (s : State) (dk : Nat) (l : Launch) : State :=
  s.mapDie dk fun d => { d with launches := removeFirst l d.launches }

/-- R163, R166: what the dispatcher knows of a team when a launch of it is distributed: the ranks of earlier launches on one table are
its too; another context's table takes the place of the first (log 84). -/
def State.teamKnown (s : State) (dk : Nat) (team : BitVec 32) (l : Launch) : State :=
  let plt : Word := BitVec.ofNat 64 (ldPlt l.block)
  let before := match s.teams.find? fun t => t.team = team && t.plt = plt && t.ctx = l.ctx with
    | some t => t.ranks
    | none => []
  let known : Team := ⟨team, plt, l.ctx, dispatcherLoc dk, before ++ [(ldRank0 l.block, ldTsize l.block, ldNomig l.block)]⟩
  { s with teams := (s.teams.filter fun (t : Team) => t.team ≠ team) ++ [known] }

/-- R167: the head of a queue is distributed, held, or found malformed; the answer says whether its queue moved. -/
def distributeHead (dk : Nat) (l : Launch) : M Bool := do
  let (enabled, _) ← queueState dk l.qd l.ctx
  let ready ← if enabled then launchReady dk l else pure (some false)
  match ready with
  | none => do
    launchStatus dk l 0x81
    modify fun s => s.dropLaunch dk l
    pure true
  | some false => do
    launchStatus dk l 0x02
    pure false
  | some true => do
    let s ← get
    let (team, s') := if ldTeam l.block = 0 then s.nextTeam dk else (BitVec.ofNat 32 (ldTeam l.block), s)
    match s'.allocate dk (ldRegsz l.block / 4096) team l.ctx (launchClusters l.block) with
    | none => do
      launchStatus dk l 0x02
      pure false
    | some s => do
      set (s.teamKnown dk team l)
      launchStatus dk l 0x03
      forUpTo (launchRank dk l team) (ldTsize l.block) 0
      launchStatus dk l 0x04
      modify fun s => s.dropLaunch dk l
      pure true

/-- The heads of the pending queues, in the order their queues first appear. -/
def queueHeads (l : List Launch) : List Launch :=
  l.foldl (fun acc x => if acc.any fun y => y.qd = x.qd && y.ctx = x.ctx then acc else acc ++ [x]) []

/-- R167: heads of one priority, one after the other; the answer says whether one moved. -/
def distributeAll (dk : Nat) : List Launch → M Bool
  | [] => pure false
  | l :: rest => do
    let a ← distributeHead dk l
    let b ← distributeAll dk rest
    pure (a || b)

/-- The priorities of some heads. -/
def headPrios (dk : Nat) : List Launch → M (List (Nat × Launch))
  | [] => pure []
  | l :: rest => do
    let (_, p) ← queueState dk l.qd l.ctx
    let more ← headPrios dk rest
    pure ((p, l) :: more)

/-- R167: one pass over the queues by descending priority; it goes round again while a queue moves and one is left. -/
def distributeM (dk : Nat) : M Unit := do
  let heads ← headPrios dk (queueHeads ((← get).die dk).launches)
  let order := (List.range 8).reverse.flatMap fun p => (heads.filter fun h => h.1 = p).map (·.2)
  let moved ← distributeAll dk order
  modify fun s => if moved && !((s.die dk).launches.isEmpty) then s.push (.launchDistribute dk) else s

def execLaunchDistribute (die : Nat) (s : State) : Out := runEvent (distributeM die) s

/-- R167: each held head is read again at most once every 256 ck. -/
def execHeldLaunchReread (die : Nat) (s : State) : Out := runEvent (distributeM die) s

/-! ### Free slots and team migration -/

/-- R172: the task slots of a die: those of its enabled cores, and the running ones. -/
def State.dieCores (s : State) (dk : Nat) : Nat :=
  ((List.range 64).map fun cl =>
    ((List.range 16).filter fun k => s.coreOn (dk / 16) (dk % 16) cl k).length).sum

/-- The compute cores of a die that are listed. -/
def State.listedCores (s : State) (dk : Nat) : List (Nat × Core) :=
  s.cores.filter fun e => locKind e.1 = 0 && locDieKey e.1 = dk

/-- R172: free task slots of a die. -/
def State.freeSlots (s : State) (dk : Nat) : Nat :=
  4 * s.dieCores dk - ((s.listedCores dk).map fun e => ((List.range 4).filter fun k => (e.2.thread k).st ≠ .free).length).sum

/-- R172: the count reaches the other dispatchers of the module. -/
def execFreeSlotPublish (die : Nat) (s : State) : Out :=
  let n := s.freeSlots die
  .next ((List.range 12).foldl (fun s d =>
    let k := die / 16 * 16 + d
    if k ≠ die && s.dieOn (die / 16) d then s.mapDie k fun x => { x with heard := x.heard.put (die % 16) n } else s) s)

/-- R172: the die is overloaded. -/
def State.overloaded (s : State) (dk : Nat) : Bool :=
  let d := s.die dk
  let queued := ((s.listedCores dk).map fun e => e.2.queued).sum
  let running := ((s.listedCores dk).filter fun e => (List.range 4).any fun k => (e.2.thread k).st = .running).length
  bit d.tmigcfg 63 && bits d.tmigcfg 15 8 * running < queued

/-- R172: a die that has advertised itself to another. -/
def State.advertises (s : State) (dk target : Nat) : Bool :=
  match (s.die dk).heard.find? (target % 16) with
  | some n => bits (s.die target).tmigcfg 7 0 ≤ n
  | none => false

/-- A task or message of a rank. -/
def ofRank (team : BitVec 32) (rank : BitVec 20) (gtid : Word) : Bool := teamOf gtid = team && rankOf gtid = rank

/-- R173: the parked tasks of a rank, each with its cluster. -/
def State.parkedOfRank (s : State) (team : BitVec 32) (rank : BitVec 20) : List (Nat × Parked) :=
  s.clusters.flatMap fun e => (e.2.parked.filter fun p => ofRank team rank (s.parkedThread e.1 p.slot).gtid).map fun p => (e.1, p)

/-- R173, R167: the last launch that a rank belongs to has NOMIG. -/
def Team.nomig (t : Team) (rank : Nat) : Bool :=
  match (t.ranks.filter fun r => r.1 ≤ rank && rank < r.1 + r.2.1).getLast? with
  | some r => r.2.2
  | none => false

/-- R173: a parked continuation that may move. -/
def State.mayMove (s : State) (p : Parked) : Bool :=
  p.req.isNone && p.opens.isEmpty && (s.posted p.uid).isEmpty && !(s.msgs.any fun m => m.uid = p.uid)

/-- R173: the conditions on a rank, whose entry names a core of the die. -/
def State.rankMoves (s : State) (dk target : Nat) (tm : Team) (rank : BitVec 20) (l : Loc) : Bool :=
  s.overloaded dk && target / 16 = dk / 16 && target ≠ dk && s.advertises dk target && locDieKey l = dk &&
  !(tm.nomig rank.toNat) &&
  !(s.cores.any fun e => e.2.threads.toList.any fun t => t.st ≠ .free && ofRank tm.team rank t.gtid) &&
  (s.parkedOfRank tm.team rank).all fun p => s.mayMove p.2

/-- R173: a core holds the code of another: the same handlers and the same bytes below EXB. -/
def State.sameCode (s : State) (a b : Loc) : Bool :=
  let exb := (s.core a).exb
  (s.core b).exb = exb && (s.core b).htbase = (s.core a).htbase && s.sp1Read a 0 exb.toNat = s.sp1Read b 0 exb.toNat

/-- The cores that some ranks of a team are placed at, by their entries. -/
def holdersOf (dk : Nat) (team : BitVec 32) : List Nat → M (List Loc)
  | [] => pure []
  | r :: rest => do
    let e ← placement (dispatcherLoc dk) team (BitVec.ofNat 20 r)
    let more ← holdersOf dk team rest
    pure (match e with
      | some e => if entryState e = 1 then entryLoc e :: more else more
      | none => more)

/-- R173: the cores of a die that hold ranks of a team, and the code that the team has at a core. -/
def teamCores (dk target : Nat) (tm : Team) (l : Loc) : M (List Loc) := do
  let held ← holdersOf dk tm.team (tm.ranks.flatMap fun r => (List.range r.2.1).map fun i => r.1 + i)
  let s ← get
  pure (held.eraseDups.filter fun c => locDieKey c = target && s.coreThere c && s.sameCode l c)

/-- R173: a parking record, with its failure record, moves to a free slot of another cluster: the slot there. -/
def State.moveRecord (s : State) (ck : Nat) (tgt : Loc) (p : Parked) : Option (Nat × State) :=
  let ck' := locClusterKey tgt
  match (s.cluster ck').freePark with
  | none => none
  | some n =>
    let s := (s.meetRecord ck p.slot).meetRecord ck' n
    let b := s.recordAt ck p.slot
    let t := threadOfRecord b
    let fails := (s.cluster ck).fails.filter fun r => r.torig = t.torig && r.tser = t.tser
    let s := s.sp2WriteBytes ck' (s.parkBase ck' n) b
    let s := s.mapCluster ck fun c =>
      { c with parked := c.parked.filter fun x => x.slot ≠ p.slot
               fails := c.fails.filter fun r => !(r.torig = t.torig && r.tser = t.tser) }
    some (n, s.mapCluster ck' fun c => { c with parked := c.parked ++ [{ p with slot := n, loc := tgt }], fails := c.fails ++ fails })

/-- A parking slot of the domain, by its cluster and number. -/
def slotKey (ck n : Nat) : Nat := 128 * ck + n

/-- The records of a rank moved in order, with the new slot of each; none when one finds no free slot. -/
def State.moveRecords (s : State) (tgt : Loc) : List (Nat × Parked) → Option (SMap Nat × State)
  | [] => some ([], s)
  | (ck, p) :: rest => do
    let (n, s) ← s.moveRecord ck tgt p
    let (m, s) ← s.moveRecords tgt rest
    some (m.put (slotKey ck p.slot) n, s)

/-- R169: the message is a continuation. -/
def isContinuation (m : InMsg) : Bool := hidxOf m.header = 0xFFE && bits m.header 21 20 = 3

/-- R173: the queued messages that move with a rank, each with its core: those of the core that the entry names, and elsewhere the
continuations of its records. -/
def State.messagesOfRank (s : State) (l : Loc) (team : BitVec 32) (rank : BitVec 20) (slots : SMap Nat) : List (Loc × InMsg) :=
  s.cores.flatMap fun e => (e.2.inbox.filter fun m => ofRank team rank m.gtid &&
    (e.1 = l || isContinuation m && (slots.find? (slotKey (locClusterKey e.1) ((m.payload.headD 0).toNat % 128))).isSome)).map fun m => (e.1, m)

/-- R173: a queued message of a rank that moves, as it is sent on; a continuation names its record's new slot. One that was not resolved through
the rank's entry has no region, here as there (R156). -/
def movedMsg (ck : Nat) (m : InMsg) (tgt : Loc) (team : BitVec 32) (rank : BitVec 20) (reg : Nat) (slots : SMap Nat) : Msg :=
  let cont := isContinuation m
  let payload := match cont, m.payload with
    | true, x :: rest => BitVec.ofNat 64 ((slots.find? (slotKey ck (x.toNat % 128))).getD x.toNat) :: rest
    | _, l => l
  { message tgt m.header payload m.gtid m.ctx with
    rank := if cont || m.region.isNone then none else some (team, rank)
    region := if cont then m.region else m.region.map fun _ => reg
    loop := m.loop
    ni := m.ni }

/-- R164, R159: the messages that a dispatcher sends on come before those that have not been queued: their senders sent them earlier. -/
def State.sendFirst (s : State) (l : List Msg) : State :=
  let t := l.foldl State.send s
  { t with msgs := t.msgs.drop s.msgs.length ++ s.msgs }

/-- R173: one rank moves to a die; the core there is the part's choice among those that hold the team and its code (log 18). -/
def teamMigrationM (dk target : Nat) (team : BitVec 32) (rank : BitVec 20) : M Unit := do
  match (← get).teams.find? fun t => t.team = team with
  | none => pure ()
  | some tm => do
    let va := tm.plt.toNat + 8 * rank.toNat
    match ← placement (dispatcherLoc dk) team rank with
    | none => pure ()
    | some e => do
      let l := entryLoc e
      let places ← teamCores dk target tm l
      let s ← get
      if entryState e ≠ 1 || places.isEmpty || !(s.rankMoves dk target tm rank l) then pure ()
      else do
        let (i, s) := s.choose places.length
        let tgt := places.getD i l
        match s.moveRecords tgt (s.parkedOfRank team rank) with
        | none => pure ()
        | some (slots, s') => do
          set s'
          tryWrite dk tm.ctx va (toBytes 8 (entryOf l (entryEpoch e) 2 (entryRegion e)).toNat)
          let reg := s'.regionOf target (locCluster tgt) team
          let mine := s'.messagesOfRank l team rank slots
          modify fun s => (mine.foldl (fun s e => s.mapCore e.1 fun c => { c with inbox := removeFirst e.2 c.inbox }) s).sendFirst
            (mine.map fun e => movedMsg (locClusterKey e.1) e.2 tgt team rank reg slots)
          tryWrite dk tm.ctx va (toBytes 8 (entryOf tgt (entryEpoch e + 1) 1 reg).toNat)
          modify fun s => mine.foldl (fun s e => s.retryHeld e.1) s

def execTeamMigration (die target team rank : Nat) (s : State) : Out :=
  runEvent (teamMigrationM die target (BitVec.ofNat 32 team) (BitVec.ofNat 20 rank)) s

/-! ### The host's message window (R414) -/

/-- R414: a 64-byte aligned write of BAR 0 is a message to a dispatcher; any other is dropped and counted. The envelope's context
and identifier are not stated: they are free values (log 18). -/
def execHostBar0Write (module off : Nat) (data : List (BitVec 8)) (s : State) : Out :=
  if data.length ≠ 64 || off % 64 ≠ 0 || 12 * 2 ^ 16 ≤ off then .next (s.count module 0x10 1)
  else
    let d := off / 2 ^ 16
    let h := leAt data 0 8
    let (c, s) := s.freeWord
    let (g, s) := s.freeWord
    .next (s.send (message (dispatcherLoc (module * 16 + d))
      (headerOf (h % 2 ^ 12) (h / 2 ^ 22) (h / 2 ^ 12) (srcOf (mkLoc 0 module d 0 0)) 2)
      ((List.range 7).map fun i => BitVec.ofNat 64 (leAt data (8 + 8 * i) 8)) g (c.truncate 16)))

end Sys2Proof.Machine
end

