-- ==== Sys2Proof/Machine/Links.lean ====
section
/-! DEFINITION. Router ports (R403-R410): flits and their replay, lanes that fail, retraining, spare rings, circuit-switch
reconfiguration, modules declared unreachable and modules that rejoin. -/

namespace Sys2Proof.Machine

/-! ### Widths (R406, R408) -/

def lanesWidth (n : Nat) : Nat := if n = 8 then 0 else if n = 4 then 1 else if n = 2 then 2 else 3

/-- The lanes in use, or that a retrain in progress leads to. -/
def Link.lanes (x : Link) : Nat := x.retrain.getD (widthLanes x.width)

/-- R406: the widest width for so many healthy lanes; one erased lane is rebuilt. -/
def widestFor (n : Nat) : Nat := if 7 ≤ n then 8 else if 4 ≤ n then 4 else if 2 ≤ n then 2 else 0

/-- R406: the lanes of a link that have failed at neither end. -/
def Link.healthyWith (x y : Link) : Nat := ((List.range 8).filter fun l => !(x.erased l || y.erased l)).length

/-- The port at the other end of a link that has trained; of one that has not, the port itself. -/
def State.farEnd (s : State) (m p : Nat) : Link :=
  match (s.port m p).wired with
  | some (n, q) => s.port n q
  | none => s.port m p

/-- R406: the healthy lanes of a port's link. -/
def State.healthy (s : State) (m p : Nat) : Nat := (s.port m p).healthyWith (s.farEnd m p)

/-- LNKSTAT with a state and a width in lanes. -/
def Link.withState (x : Link) (st lanes : Nat) : Link :=
  { x with stat := setBits (setBits x.stat 63 62 st) 61 60 (lanesWidth lanes) }

def Link.erase (x : Link) (lane : Nat) (b : Bool) : Link :=
  { x with stat := setBits x.stat (52 + lane) (52 + lane) b.toNat }

/-- R415: a counter of a router port. -/
def State.countPort (s : State) (m p k n : Nat) : State := if n = 0 then s else s.count m (0x2000 + 32 * p + 8 * k) n

/-! ### The two ends -/

/-- A change at both ends of a link that has trained. -/
def State.mapEnds (s : State) (m p : Nat) (f : Link → Link) : State :=
  let far := (s.port m p).wired
  let s := s.mapLink m p f
  match far with
  | some (n, q) => if n = m && q = p then s else s.mapLink n q f
  | none => s

/-- R403: when a module has no link up, that moment is kept; a link that comes up ends it. -/
def State.noteUp (s : State) (m : Nat) : State :=
  s.mapModule m fun x => { x with downSince := if x.upPorts.isEmpty then some (x.downSince.getD s.now) else none }

/-! ### Flits (R405) -/

/-- R405, R428: every flit of the replay buffer is sent again, in order; the wait for an acknowledgement starts anew. -/
def State.replayFlits (s : State) (m p : Nat) : State :=
  let l := (s.port m p).replay
  l.foldl (fun s f => s.putFlit m p f) ((s.mapLink m p fun x => { x with acked := s.now }).countPort m p 0 l.length)

/-- R404, R405: acknowledged flits leave the replay buffer. -/
def Link.acknowledge (x : Link) (seq : BitVec 12) (now : Nat) : Link :=
  let left := acknowledged x.replay seq
  { x with replay := left, acked := if left.length = x.replay.length then x.acked else now }

/-- R405, R419: a flit arrives. In order, it is accepted: its ACK releases flits, a NAK has them sent again from the next, and its slots
come back to the sender; one that fails its check is discarded and asked for again, and whether it failed authentication and is
counted is not told (log 18); any other is discarded. -/
def State.flitReceive (s : State) (m p : Nat) (seq ack : BitVec 12) (nak : Bool) (cred : BitVec 16) (good : Bool) : State :=
  let x := s.port m p
  if x.state ≠ 2 then s
  else if good then
    if seq = x.rxSeq then
      let s := s.mapLink m p fun x =>
        { x.acknowledge ack s.now with rxSeq := x.rxSeq + 1, slots := x.slots + cred.toNat, owed := x.owed + 1 }
      (if nak then s.replayFlits m p else s).pump m p
    else s
  else
    let (n, s) := s.choose 2
    let s := if n = 1 then s.count m 0x20 1 else s
    s.push (.nakReceive x.peerModule x.peerPort (x.rxSeq - 1))

/-- R404: the virtual channel and the payload of a flit decide nothing here: what packets carry is done by steps of its own (log 24). -/
def execFlitReceive (module port : Nat) (seq : BitVec 12) (rest : FlitRest) (good : Bool) (s : State) : Out :=
  .next (s.flitReceive module port seq rest.ack rest.nak rest.cred good)

/-- R405: NAK acknowledges up to its sequence number; the sender replays from the next. -/
def State.nakReceive (s : State) (m p : Nat) (seq : BitVec 12) : State :=
  if (s.port m p).state ≠ 2 then s
  else (s.mapLink m p fun x => x.acknowledge seq s.now).replayFlits m p

def execNakReceive (module port : Nat) (seq : BitVec 12) (s : State) : Out := .next (s.nakReceive module port seq)

/-- R405. -/
def execAckTimeout (module port : Nat) (s : State) : Out :=
  .next (if (s.port module port).state = 2 then s.replayFlits module port else s)

/-- R405, R406: no acknowledgement within 2 µs at full width, longer in proportion at a narrower one. -/
def Link.ackDue (x : Link) (now : Nat) : Bool :=
  x.state = 2 && !x.replay.isEmpty && x.lanes ≠ 0 && decide (x.acked + 5000 * 8 / x.lanes ≤ now)

/-! ### Lanes and width (R406, R407) -/

/-- A retrain to a number of lanes begins, at both ends. -/
def State.startRetrain (s : State) (m p n : Nat) : State :=
  s.mapEnds m p fun x => { (x.withState 1 (widthLanes x.width)) with retrain := some n }

/-- The flits that stand at a port, oldest first. -/
def Link.flits (x : Link) : List Flit := x.replay ++ x.waiting

/-- Flits and NAKs on their way to a port are lost. -/
def State.dropFlits (s : State) (m p : Nat) : State :=
  { s with pending := s.pending.filter fun e => match e with
      | .flitReceive n q _ _ _ => !(n = m && q = p)
      | .nakReceive n q _ => !(n = m && q = p)
      | _ => true }

/-- R406: a link goes down, at both ends; what stands at its ends takes another route. -/
def State.linkDown (s : State) (m p : Nat) : State :=
  let x := s.port m p
  let y := s.port x.peerModule x.peerPort
  let s := s.mapEnds m p fun x => { (x.withState 0 0) with retrain := none, ocs := 0, replay := [], waiting := [] }
  let s := (s.dropFlits m p).dropFlits x.peerModule x.peerPort
  let s := ((s.noteUp m).noteUp x.peerModule).reroute m x.flits
  if x.wired.isNone then s else s.reroute x.peerModule y.flits

/-- R406: a lane stops carrying data, at both ends of its link; one that the far end has lost already, or of a link that trains anew after a
dark interval, changes no width. Among more healthy lanes than the link uses, whether it was in use is the part's to say
(log 18). -/
def State.loseLane (s : State) (m p lane : Nat) : State :=
  let x := s.port m p
  let had := s.healthy m p
  let known := (s.farEnd m p).erased lane
  let (n, s) := if x.lanes < had then s.choose 2 else (0, s)
  let s := s.mapEnds m p fun x => x.erase lane true
  if x.state ≠ 2 && x.state ≠ 1 || x.ocs = 2 || known || n = 1 then s
  else
    match x.lanes with
    | 8 => if had = 8 then s else s.startRetrain m p 4
    | 4 => s.startRetrain m p 2
    | 2 => s.linkDown m p
    | _ => s

/-- R406: a lane that had not failed fails. -/
def State.failLane (s : State) (m p lane : Nat) : State :=
  if !(fabricPort p) || 8 ≤ lane || (s.port m p).erased lane then s
  else (s.countPort m p 2 1).loseLane m p lane

def execLaneFailure (module port lane : Nat) (s : State) : Out := .next (s.failLane module port lane)

/-- The elements of a list in the order of a number: each digit, to a falling base, takes one out. -/
def permuted {α : Type} : Nat → List α → Nat → List α
  | 0, l, _ => l
  | turns + 1, l, n =>
    match l[n % l.length]? with
    | none => []
    | some a => a :: permuted turns (l.eraseIdx (n % l.length)) (n / l.length)

/-- R403: the modules that the local ports of a module lead to, by port: two ports to each of the 31 others of its group, in an order
that the spec leaves to the part (log 24). -/
def localPeers (m : Nat) : List Nat :=
  let others := ((List.range 32).map fun i => m / 32 * 32 + i).filter (· ≠ m)
  permuted 62 (others ++ others) (Config.localOrder m)

/-- R403: the other end of a local port: the first port of the one module to the other leads to its first port back. -/
def localPeer (m p : Nat) : Nat × Nat :=
  let n := (localPeers m).getD p 0
  let k := ((localPeers m).take p).count n
  let back := ((localPeers n).zipIdx.filter fun e => e.1 = m).map (·.2)
  (n, back.getD k 0)

/-- R403, R417: where a global port may lead: a global port that is neither up nor training, but after a dark interval of its own, of a module of another group of the domain whose
bench firmware runs. -/
def State.globalPeers (s : State) (m : Nat) : List (Nat × Nat) :=
  ((List.range s.domain).filter fun n => n / 32 ≠ m / 32 && (s.module n).bootFail = 0).flatMap fun n =>
    ((List.range 64).map fun i => (n, 62 + i)).filter fun e =>
      let y := s.port e.1 e.2
      y.state ≠ 2 && (y.state ≠ 1 || y.ocs = 2)

/-- The other end of a port that trains: a local port's is fixed, a global port keeps the one it has had unless a circuit switch has
moved, and which it is then is the domain's (log 24); none where no module is left. -/
def State.otherEnd (s : State) (m p : Nat) (moved : Bool) : Option (Nat × Nat) × State :=
  let x := s.port m p
  if !(globalPort p) then (some (localPeer m p), s)
  else if x.wired.isSome && !moved then (x.wired, s)
  else
    let l := s.globalPeers m
    if l.isEmpty then (none, s)
    else
      let (i, s) := s.choose l.length
      (l[i]?, s)

/-- One end of a link that comes up, to a peer, at a width, under a fresh key: sequence numbers begin anew, nothing is unacknowledged, and the
slots of its receiver are the part's (log 24). -/
def State.endUp (s : State) (m p n q lanes : Nat) : State :=
  let (k, s) := s.choose 1024
  s.mapLink m p fun x =>
    let y := x.withState 2 lanes
    { y with
      retrain := none
      key := x.key + 1
      wired := some (n, q)
      slots := k + 1
      owed := 0
      rxSeq := 0
      txSeq := 0
      waiting := x.flits
      replay := []
      acked := s.now
      ocs := if x.ocs = 2 then 3 else x.ocs
      stat := setBits (setBits y.stat 47 40 q) 39 30 n }

/-- The port that a port has led to no longer leads back to it, where a circuit switch moves it. -/
def State.unwire (s : State) (m p : Nat) : State :=
  let x := s.port m p
  if (s.port x.peerModule x.peerPort).wired = some (m, p) then s.mapLink x.peerModule x.peerPort fun y => { y with wired := none } else s

/-- R406, R410, R417: a link comes up at the widest width for the lanes healthy at both ends, at both ends; without bench firmware at the other
end none does. -/
def State.linkUp (s : State) (m p : Nat) (moved : Bool) : State :=
  match s.otherEnd m p moved with
  | (none, s) => s
  | (some (n, q), s) =>
    let lanes := widestFor ((s.port m p).healthyWith (s.port n q))
    if lanes = 0 || (s.module n).bootFail ≠ 0 then s
    else (((((((s.unwire m p).unwire n q).endUp m p n q lanes).endUp n q m p lanes).noteUp m).noteUp n).pump m p).pump n q

/-- A retrain is counted at a port (R408, R415). -/
def State.countRetrain (s : State) (m p : Nat) : State :=
  (s.mapLink m p fun x => { x with stat := setBits x.stat 15 0 (min 0xFFFF (bits x.stat 15 0 + 1)) }).countPort m p 1 1

/-- R407, R419: one end of a retrained link: at the new width, under a fresh key, what was not acknowledged is sent again. -/
def State.retrained (s : State) (m p n : Nat) : State :=
  ((s.mapLink m p fun x => { (x.withState 2 n) with retrain := none, key := x.key + 1 }).countRetrain m p).replayFlits m p |>.pump m p

/-- R407, R417, R419: a link has trained: at a retrain's width, at both ends; or, which the bench firmware brings about, from down at
its widest. Without bench firmware none trains, and a dark link trains by R410's steps. -/
def State.trained (s : State) (m p : Nat) : State :=
  let x := s.port m p
  if !(fabricPort p) || (s.module m).bootFail ≠ 0 || x.state = 2 || 2 ≤ x.ocs then s
  else
    match x.retrain with
    | some n =>
      let s := s.retrained m p n
      if x.wired.isNone || (s.port x.peerModule x.peerPort).retrain.isNone then s else s.retrained x.peerModule x.peerPort n
    | none => s.linkUp m p false

def execRetrainComplete (module port : Nat) (s : State) : Out := .next (s.trained module port)

/-! ### Rings (R409) -/

/-- R409: a saturated heater costs its lane; the spare ring, if free, tunes to its wavelength. -/
def State.saturate (s : State) (m p lane : Nat) : State :=
  if !(globalPort p) || 8 ≤ lane || (s.port m p).erased lane then s
  else if (s.port m p).spareUsed then s.failLane m p lane
  else (s.loseLane m p lane).mapLink m p fun x => { x with tuning := some lane }

def execHeaterRetune (module port lane : Nat) (saturated : Bool) (s : State) : Out :=
  .next (if saturated then s.saturate module port lane else s)

/-- R409: the spare ring has tuned: the lane rejoins, at both ends. -/
def State.spareTuned (s : State) (m p : Nat) : State :=
  match (s.port m p).tuning with
  | none => s
  | some lane =>
    ((s.mapEnds m p fun x => x.erase lane false).mapLink m p fun x =>
      { x with
        tuning := none
        stat := setBits (setBits x.stat 51 51 1) 50 48 lane }).countPort m p 3 1

def execSpareTuned (module port : Nat) (s : State) : Out := .next (s.spareTuned module port)

/-! ### Circuit switches (R410) -/

/-- R410: a reconfiguration of a circuit switch on the route of a global link is announced; senders quiesce. -/
def execOcsAnnounce (module port : Nat) (s : State) : Out :=
  .next (if globalPort port && (s.port module port).state = 2 && (s.port module port).ocs = 0 then
    s.mapLink module port fun x => { x with ocs := 1 } else s)

/-- R410, step 2: the routers of both ends quiesce or are dark already, and every flit and marker of both is acknowledged: the link is empty. -/
def State.quiesced (s : State) (m p : Nat) : Bool :=
  let x := s.port m p
  let y := s.port x.peerModule x.peerPort
  x.ocs = 1 && x.replay.isEmpty && y.ocs ≠ 0 && y.replay.isEmpty

/-- R410, step 2: the link goes dark; traffic waits at the sender. -/
def execOcsQuiesced (module port : Nat) (s : State) : Out :=
  .next (if s.quiesced module port then
    s.mapLink module port fun x => { x with ocs := 2, darkAt := s.now, stat := setBits x.stat 63 62 3 } else s)

/-- R410, step 3: the rings have retuned and the link trains (R408), which a further step ends: at the widest healthy width, to the peer that the
switch gives it. -/
def State.relocked (s : State) (m p : Nat) : State :=
  let x := s.port m p
  if x.ocs ≠ 2 then s
  else if x.state ≠ 1 then
    (s.mapLink m p fun x => { (x.withState 1 (widthLanes x.width)) with retrain := none }).push (.ocsRelock m p)
  else if widestFor (x.healthyWith x) = 0 then (s.linkDown m p).mapLink m p fun x => { x with ocs := 3 }
  else s.linkUp m p true

def execOcsRelock (module port : Nat) (s : State) : Out := .next (s.relocked module port)

/-- R410, step 4: the routing table is replaced in one step; the announcement ends, and what waited at the port is sent by the new table,
requests of the module's NIs among it. -/
def State.tableSwapped (s : State) (m p : Nat) : State :=
  let held := (s.port m p).waiting
  let s := (s.mapLink m p fun x => { x with ocs := 0, waiting := [] }).mapModule m fun x => { x with routes := [] }
  let s := s.reroute m held
  (s.reqs.filter fun r => !r.sent && locModule r.loc = m).foldl (fun s r => s.push (.remoteRequest r.id)) s

def execOcsTableSwap (module port : Nat) (s : State) : Out :=
  .next (if (s.port module port).ocs = 3 then s.tableSwapped module port else s)

/-- R410: a dark interval that is too long ends the announcement; the link stays dark until it trains, and a module left without a
route has been without one since it went dark (R403). -/
def State.darkTooLong (s : State) (m p : Nat) : State :=
  let x := s.port m p
  let since := fun (y : Module) => { y with downSince := if y.upPorts.isEmpty then some (y.downSince.getD x.darkAt) else none }
  ((s.mapLink m p fun x => { x with ocs := 0 }).mapModule m since).mapModule x.peerModule since

def execOcsDarkTimeout (module port : Nat) (s : State) : Out :=
  .next (if (s.port module port).ocs = 2 then s.darkTooLong module port else s)

/-- R410: dark beyond 100 ms. -/
def Link.darkDue (x : Link) (now : Nat) : Bool := x.ocs = 2 && decide (x.darkAt + 250000000 ≤ now)

/-! ### Modules (R40, R403) -/

/-- R82: a request of another module with transactions at a module that is lost: whether they perform is the part's to decide
(log 18), and they end without reply. -/
def loseReply (m id : Nat) : M Unit := do
  match (← get).req id with
  | none => pure ()
  | some r =>
    if r.sent && !r.replied && locModule r.loc ≠ m && r.parts.any (fun p => paModule p.pa = m) then do
      if !r.performed then
        let n ← modifyGet fun s => s.choose 2
        if n = 1 then performAtHome id
      modify fun s =>
        let s := s.mapReq id fun r =>
          { r with parts := r.parts.map fun p => if paModule p.pa = m && p.outcome ≠ some 0 then p.fail 1 else p }
        match s.req id with
        | none => s
        | some r =>
          if r.parts.all (·.done) then
            (s.mapReq id fun r => { r with performed := true, refusal := none }).push
              (if r.op = .write then .storeAck id else .remoteReply id)
          else s
    else pure ()

/-- R327: a sent matrix command to the module, one from it excepted. -/
def Cmd.lostSend (m : Nat) (c : Cmd) : Bool :=
  match c.kind with
  | .mxSend target _ _ _ _ => !c.performed && c.begun && locModule target = m && locModule c.loc ≠ m
  | _ => false

/-- R349: a waiting collective with a member in the module, one of its own members excepted. -/
def State.lostColl (s : State) (m : Nat) (c : Cmd) : Bool :=
  match c.kind with
  | .coll _ t _ _ =>
    let tree := s.treeAt (teamOf c.gtid) t (rankOf c.gtid)
    !c.performed && locModule c.loc ≠ m && s.clusters.any fun e => e.1 / 2 ^ 10 = m && e.2.trees.any fun x => tree.contains x
  | _ => false

/-- R403: no route to a module has been up for 1 ms: a link of it that is up is a route from the module at its other end. -/
def State.unrouted (s : State) (m : Nat) : Bool :=
  (s.module m).upPorts.isEmpty && match (s.module m).downSince with
    | some t => decide (t + 2500000 ≤ s.now)
    | none => false

/-- R403: the module is to be declared unreachable. -/
def State.declareDue (s : State) (m : Nat) : Bool := s.unrouted m && !(s.unreachable.contains m)

/-- R403: a module of the domain that is to be declared unreachable; none in the first 1 ms. -/
def State.declaration (s : State) : Option Event :=
  if s.now < 2500000 then none else ((List.range s.domain).find? s.declareDue).map .declaredUnreachable

/-- R403, R82, R88, R94, R349: the routing tables mark a module; what is outstanding there ends without reply, and migrations to it
end. -/
def declareUnreachable (m : Nat) : M Unit := do
  let s ← get
  if s.unreachable.contains m || !(s.unrouted m) then pure ()
  else do
    s.reqs.forM fun r => loseReply m r.id
    modify fun s =>
      let s : State := { s with
        unreachable := m :: s.unreachable
        modules := s.modules.map fun e => (e.1, { e.2 with strays := e.2.strays.filter fun f => e.1 ≠ m && f.dest ≠ m }) }
      let s := (s.msgs.filter fun x => (locModule x.target = m) != (x.ni / 2 ^ 10 = m)).foldl (fun s x => s.undelivered x 1) s
      let s := (s.cmds.filter fun c => c.lostSend m || s.lostColl m c).foldl (fun s c => s.failCommand c 0x0B 1) s
      (s.dies.map (·.1)).foldl (fun s dk => s.migLost dk) s

def execDeclaredUnreachable (module : Nat) (s : State) : Out := runEvent (declareUnreachable module) s

/-- R40: a module that rejoins drops what its TLBs and walk caches hold before it carries traffic. -/
def State.rejoin (s : State) (m : Nat) : State :=
  { s with
    unreachable := s.unreachable.filter (· ≠ m)
    tlbs := s.tlbs.map fun e => if locModule (e.1 / 8) = m then (e.1, []) else e
    walks := s.walks.map fun e => if e.1 / 64 = m then (e.1, []) else e }

def execModuleRejoin (module : Nat) (s : State) : Out := .next (s.rejoin module)

end Sys2Proof.Machine
end

