-- ==== Sys2Proof/Machine/Trust.lean ====
section
/-! DEFINITION. The hallmark core and degraded operation: the mailbox (R420-R422), module reset and boot (R417, R48), scrubbing and
parity (R423), failed units and retired channels (R425, R426). -/

namespace Sys2Proof.Machine

/-! ### The mailbox (R420) -/

/-- The 8-byte word of the mailbox request that is served at a byte offset (log 17). -/
def Module.arg (x : Module) (off : Nat) : Word := x.mbTaken.getD (off / 8) 0

/-- A request ends: with 1, or with 0x80 and a reason. -/
def State.answer (s : State) (m stat : Nat) : State := s.mapModule m fun x => { x with mbstat := BitVec.ofNat 64 stat }

/-- R420, R417: the mailbox's request is one of a command, and is still to be served: a later request, or a reset of the module, ends the steps of
an earlier one. -/
def Module.asks (x : Module) (cmd : Nat) : Bool := x.bootFail ≠ 1 && x.mbstat = 2 && bits (x.arg 0) 7 0 = cmd

/-- R22, R42: the shootdown of a context in the whole domain: no unit or walk cache holds an entry of it. -/
def State.shootdown (s : State) (ctx : BitVec 16) : State :=
  { s with
    tlbs := s.tlbs.map fun e => (e.1, e.2.filter fun t => t.ctx ≠ ctx)
    walks := s.walks.map fun e => (e.1, e.2.filter fun t => t.ctx ≠ ctx)
    kept := s.kept.filter fun k => k.ctx ≠ ctx }

/-- R22, R40, R42: a request made under a context, or a vector memory form in a dispatch queue, has not performed, at a module that this one can
reach. Stores of threads that have not
performed (log 80) do so at the shootdown. -/
def State.ctxInFlight (s : State) (m : Nat) (ctx : BitVec 16) : Bool :=
  (s.reqs.any fun r => r.ctx = ctx && !r.performed && !(s.cutOff m (locModule r.loc))) ||
  s.cmds.any fun c => c.ctx = ctx && !(s.cutOff m (locModule c.loc)) && match c.kind with
    | .vmem _ _ _ _ (_ :: _) => true
    | _ => false

/-- A word of a context's entry written by the hallmark core, under its own slot (R418), where a request to it is performed (R96). -/
def State.writeContext (s : State) (m : Nat) (ctx : BitVec 16) (i : Nat) (w : Word) : State :=
  s.hallmarkPut 255 ((s.module m).ctxtbl.toNat + 16 * ctx.toNat + 8 * i) (toBytes 8 w.toNat)

/-- The key slots of a module that no context has. -/
def Module.freeKeys (x : Module) : List Nat :=
  ((List.range 255).drop 1).filter fun k => match x.keys.find? k with
    | some e => e.ctx.isNone
    | none => true

/-- R420, R22: ASSIGN: after the shootdown, and once what was in flight under the context has performed, the entry is written; which free
slot it takes is the part's choice (log 18). -/
def State.assign (s : State) (m : Nat) : State :=
  let x := s.module m
  let ctx := BitVec.ofNat 16 (x.arg 8).toNat
  let free := x.freeKeys
  if !(x.asks 1) then s
  else if free.isEmpty then s.answer m 0x81
  else
    let s := (s.shootdown ctx).drainAll fun l => !(s.cutOff m (locModule l))
    if s.ctxInFlight m ctx then s
    else
      let (i, s) := s.choose free.length
      let k := free.getD i 1
      let s := s.mapModule m fun x =>
        { x with
          keys := x.keys.put k ⟨some ctx, ((x.keys.find? k).map (·.gen)).getD 0 + 1⟩
          chains := x.chains.filter fun e => e.1 ≠ ctx.toNat }
      let s := s.writeContext m ctx 1 (BitVec.ofNat 64 (bits (x.arg 24) 0 0 * 2 ^ 8 + k))
      (s.writeContext m ctx 0 (BitVec.ofNat 64 (bits (x.arg 16) 63 16 * 2 ^ 16 + 1))).answer m 1

def execAssign (module : Nat) (s : State) : Out := .next (s.assign module)

/-- R167, R347: what a context holds in a module ends with it: its team regions and teams, and its tape entries. -/
def State.endContext (s : State) (m : Nat) (ctx : BitVec 16) : State :=
  { s with
    dies := s.dies.map fun e => if e.1 / 16 = m then (e.1, { e.2 with regions := e.2.regions.filter fun r => r.ctx ≠ ctx }) else e
    clusters := s.clusters.map fun e =>
      if e.1 / 2 ^ 10 = m then (e.1, { e.2 with tape := e.2.tape.filter fun t => t.ctx ≠ ctx }) else e
    teams := s.teams.filter fun t => !(t.ctx = ctx && locModule t.loc = m) }

/-- R420, R22: RETIRE: the entry is no longer valid, the translations go, and once what was in flight has performed the key is
destroyed and what the context held is freed. -/
def State.retire (s : State) (m : Nat) : State :=
  let x := s.module m
  let ctx := BitVec.ofNat 16 (x.arg 8).toNat
  if !(x.asks 2) then s
  else
    let s := match s.contextEntry m ctx with
      | some (a, _) => s.writeContext m ctx 0 (setBits a 0 0 0)
      | none => s
    let s := (s.shootdown ctx).drainAll fun l => !(s.cutOff m (locModule l))
    if s.ctxInFlight m ctx then s
    else
      ((s.endContext m ctx).mapModule m fun x =>
        { x with
          keys := x.keys.map fun e => if e.2.ctx = some ctx then (e.1, ⟨none, e.2.gen + 1⟩) else e
          spilled := x.spilled.filter fun e => e.2.ctx ≠ ctx
          chains := x.chains.filter fun e => e.1 ≠ ctx.toNat }).answer m 1

def execRetire (module : Nat) (s : State) : Out := .next (s.retire module)

/-! ### Clearing stores (R48) -/

/-- The cores of a cluster. -/
def clusterLocs (ck : Nat) : List Loc := (List.range 16).map fun i => ck * 16 + i

/-- R48: memory without the listed bytes of some scratchpads, which then read zero. -/
def State.clearPads (s : State) (gone : Nat → Bool) : State :=
  { s with mem := s.mem.filter fun c => !(paKind c.1 = 1 && gone c.1) }

/-- The cluster of a scratchpad address, none for SP3. -/
def padCluster (pa : Nat) : Option Nat :=
  if paOff pa / 2 ^ 46 = 3 then none else some (paDieKey pa * 64 + paOff pa / 2 ^ 40 % 64)

/-- R48: what a context switch clears of a core. -/
def Core.cleared (c : Core) : Core :=
  { c with accs := [], tiles := Vector.replicate 32 (0, 0), exb := 0, hand := [] }

/-- R48, R178, R346, R348: the stores, tape headers and trees of a cluster are cleared. -/
def State.clearCluster (s : State) (ck : Nat) : State :=
  let s := s.clearPads fun pa => padCluster pa = some ck
  let s := { s with cores := s.cores.map fun (e : Nat × Core) => if locKind e.1 = 0 && locClusterKey e.1 = ck then (e.1, e.2.cleared) else e }
  s.mapCluster ck fun c => { c with tape := [], trees := [], parked := [] }

/-! ### Spares (R426) -/

/-- The logical cores of a cluster that have failed and are not replaced. -/
def State.failedCores (s : State) (ck : Nat) : List Nat :=
  (List.range 16).filter fun k => !(bit (s.cluster ck).coremap k)

/-- R424, R426: REPLACE is set, and stays, once one of its conditions holds. -/
def healthReplace (w : Word) : Word :=
  if bits w 7 4 ≠ 0 || bits w 51 40 ≠ 0xFFF || 20 < bits w 39 32 then setBits w 63 63 1 else w

/-- A change of a module's HEALTH. -/
def State.mapHealth (s : State) (m : Nat) (f : Word → Word) : State :=
  s.mapModule m fun x => { x with health := healthReplace (f x.health) }

/-- R426: the spare core of a cluster takes the index of a failed core. -/
def State.spareCore (s : State) (ck k : Nat) : State :=
  let s := (s.clearPads fun pa => paOff pa / 2 ^ 46 = 1 && padCluster pa = some ck && paOff pa / 2 ^ 36 % 16 = k).setCore (ck * 16 + k)
    (Core.reset (ck * 16 + k))
  (s.mapCluster ck fun c => { c with coremap := setBits c.coremap k k 1, spare := some k }).mapHealth (ck / 2 ^ 10)
    fun w => setBits w 31 16 (bits w 31 16 + 1)

/-- R426: the spare cluster of a quadrant takes the index of a failed cluster. -/
def State.spareCluster (s : State) (ck : Nat) : State :=
  let m := ck / 2 ^ 10
  let lost := if (s.cluster ck).spare.isSome then 1 else 0
  let s := s.clearCluster ck
  let s := { s with cores := s.cores.filter fun e => !(locKind e.1 = 0 && locClusterKey e.1 = ck) }
  let s := s.setCluster ck Cluster.reset
  let s := s.mapDie (ck / 64) fun d =>
    { d with clmap := setBits d.clmap (ck % 64) (ck % 64) 1, spares := ck % 64 :: d.spares }
  s.mapHealth m fun w => setBits (setBits w 31 16 (bits w 31 16 - lost)) 15 8 (bits w 15 8 + 1)

/-- R426: the spare cluster of a quadrant is in use. -/
def Die.spareUsed (d : Die) (q : Nat) : Bool := d.spares.any fun c => c / 16 = q

/-- R426: the hallmark firmware maps spares in for a cluster that no context holds: the spare core for one failed core, else the
spare cluster of the quadrant, else what there is. -/
def State.mapSpares (s : State) (ck : Nat) : State :=
  let d := s.die (ck / 64)
  let free := !(d.spareUsed (ck % 64 / 16))
  if !(bit d.clmap (ck % 64)) then (if free then s.spareCluster ck else s)
  else
    match s.failedCores ck with
    | [] => s
    | k :: more =>
      let spare := (s.cluster ck).spare.isNone
      if spare && more.isEmpty then s.spareCore ck k
      else if free then s.spareCluster ck
      else if spare then s.spareCore ck k
      else s

/-- R424: a cluster with a failure that no spare can replace. -/
def State.unreplaced (s : State) (ck : Nat) : Bool :=
  let d := s.die (ck / 64)
  d.spareUsed (ck % 64 / 16) &&
  (!(bit d.clmap (ck % 64)) || (s.cluster ck).spare.isSome && !((s.failedCores ck).isEmpty))

/-- R424: QEXH counted anew. -/
def State.countExhausted (s : State) (m : Nat) : State :=
  let quads := (List.range 48).filter fun q =>
    (List.range 16).any fun i => s.unreplaced ((m * 16 + q / 4) * 64 + q % 4 * 16 + i)
  s.mapHealth m fun w => setBits w 7 4 (min 15 quads.length)

/-! ### SWITCH (R420, R178) -/

/-- R426: a context of some kind holds a cluster: by a task in a slot, a parked task, a tape header or a team region. -/
def State.contextHolds (s : State) (ok : BitVec 16 → Bool) (ck : Nat) : Bool :=
  (clusterLocs ck).any (fun l => match s.cores.find? l with
    | some c => c.threads.toList.any fun t => t.st ≠ .free && ok t.ctxid
    | none => false) ||
  (s.cluster ck).parked.any (fun p => ok (s.parkedThread ck p.slot).ctxid) ||
  (s.cluster ck).tape.any (fun e => ok e.ctx) ||
  (s.die (ck / 64)).regions.any fun r => r.cluster = ck % 64 && ok r.ctx

/-- R426: one context holds a cluster. -/
def State.holdsCluster (s : State) (ctx : BitVec 16) (ck : Nat) : Bool := s.contextHolds (· = ctx) ck

/-- R426: no context holds a cluster, once one is switched out. -/
def State.unheld (s : State) (out : BitVec 16) (ck : Nat) : Bool := !(s.contextHolds (· ≠ out) ck)

/-- The clusters of a module, in order. -/
def moduleClusters (m : Nat) : List Nat := (List.range 768).map fun i => (m * 16 + i / 64) * 64 + i % 64

/-- R342: an entry with the fields that a header's bytes hold. -/
def TapeEntry.ofHeader (e : TapeEntry) (b : List Byte) : TapeEntry :=
  { e with
    kind := leAt b 0 1
    fmt := leAt b 1 1
    glb := leAt b 2 1 % 2 = 1
    hq := leAt b 2 1 / 2 % 2 = 1
    count := leAt b 4 4
    rwm1 := leAt b 8 2
    npart := leAt b 10 2
    team := BitVec.ofNat 32 (leAt b 12 4)
    l := BitVec.ofNat 80 (leAt b 16 10)
    gen := BitVec.ofNat 16 (leAt b 26 2)
    owner := BitVec.ofNat 20 (leAt b 28 4)
    x := BitVec.ofNat 64 (leAt b 32 8)
    list := leAt b 40 4
    ranks := (List.range (min (leAt b 10 2) 8)).map fun i => leAt b 44 20 / 2 ^ (20 * i) % 2 ^ 20 }

/-- The NI's own accesses to a tape region. -/
def TapeEntry.who (e : TapeEntry) (ck : Nat) : Who := niWho (ck * 16) e.ctx false []

/-- R346: where a header lies in the tape region. -/
def TapeEntry.headerPtr (e : TapeEntry) : Ptr := e.tapeb.zeroExtend 80 + BitVec.ofNat 80 (64 * e.slot)

/-- R346: a header is written to its slot of the tape region; one that cannot be read from its store is not (R423). -/
def spillHeader (ck : Nat) (e : TapeEntry) : M Unit := do
  let _ ← attempt (do
    tapeError ck e.slot
    memWrite (e.who ck) e.headerPtr e.header 0)
  modify fun s => s.mapModule (ck / 2 ^ 10) fun x => { x with spilled := x.spilled ++ [(ck, e)] }

/-- R346: a header is read back into its slot. -/
def reloadHeader (ck : Nat) (e : TapeEntry) : M Unit := do
  let e' ← match ← attempt (memRead (e.who ck) e.headerPtr 64 0) with
    | .ok b => pure (e.ofHeader b)
    | .error _ => pure e
  modify fun s => s.mapCluster ck fun c => { c with tape := c.tape ++ [e'] }

/-- R178: the SP3 slices that the context had on a die, which the spec does not record: the part's choice (log 18). -/
def State.clearSlices (s : State) (dk : Nat) : State :=
  iterate (fun i (s : State) =>
    let (n, s) := s.choose 2
    if n = 1 then s.clearPads fun pa => paDieKey pa = dk && paOff pa / 2 ^ 46 = 3 && paOff pa / 2 ^ 24 % 16 = i else s) 16 0 s

/-- R19: the context ranges of a module's cores are written anew; of which cores, and to which ranges, is the hallmark firmware's
(log 92). -/
def State.rewriteCtxalw (s : State) (m : Nat) : State :=
  ((s.cores.map (·.1)).filter fun l => locModule l = m).foldl (fun s l =>
    let (n, s) := s.choose 2
    let (v, s) := s.freeWord
    if n = 1 then s.setCtxalw l v else s) s

/-- R210, R348: what every context switch drops in a module: kept copies and recorded trees (log 93). -/
def State.switchDrops (s : State) (m : Nat) : State :=
  { s with
    kept := s.kept.filter fun k => locModule k.loc ≠ m
    clusters := s.clusters.map fun e => if e.1 / 2 ^ 10 = m then (e.1, { e.2 with trees := [] }) else e }

/-- R178, step 4, R48, R346, R426: SWITCH out. Spares are mapped in for the clusters that no context then holds. -/
def switchOut (m : Nat) (ctx : BitVec 16) : M Unit := do
  let s ← get
  let held := (moduleClusters m).filter (s.holdsCluster ctx)
  let unheld := (moduleClusters m).filter (s.unheld ctx)
  held.forM fun ck => ((s.cluster ck).tape.filter fun e => e.ctx = ctx).forM (spillHeader ck)
  modify fun s =>
    let s := held.foldl (fun s ck => s.clearCluster ck) s
    let s := (held.map (· / 64)).eraseDups.foldl (fun s dk => s.clearSlices dk) s
    (unheld.foldl (fun s ck => s.mapSpares ck) s).countExhausted m

/-- R346: SWITCH in. -/
def switchIn (m : Nat) (ctx : BitVec 16) : M Unit := do
  let s ← get
  let mine := (s.module m).spilled.filter fun e => e.2.ctx = ctx
  mine.forM fun e => reloadHeader e.1 e.2
  modify fun s => s.mapModule m fun x => { x with spilled := x.spilled.filter fun e => e.2.ctx ≠ ctx }

/-- R420: SWITCH. -/
def switchM (m : Nat) : M Unit := do
  let x := (← get).module m
  let ctx := BitVec.ofNat 16 (x.arg 8).toNat
  if !(x.asks 3) then pure ()
  else do
    if bit (x.arg 16) 0 then switchIn m ctx else switchOut m ctx
    modify fun s => ((s.switchDrops m).rewriteCtxalw m).answer m 1

def execSwitch (module : Nat) (s : State) : Out := runEvent (switchM module) s

/-! ### Reports (R421, R422) -/

/-- Bytes that only the hallmark core can form: a measurement, a key, a hash or a signature (log 17). -/
def secretBytes (what n : Nat) : List Byte := (List.range n).map fun i => Config.trustByte what i

/-- A number for what is signed or measured anew. -/
def State.freshSecret (s : State) : Nat × State := (2 * s.fresh + 1, { s with fresh := s.fresh + 1 })

/-- What a boot measured and derived: 0 the module's chain, 1 the attestation public key, 2 its identity signature's hash, 3 the identity
public key, which the fused seed fixes (boot 0), 4 the certificate. -/
def bootSecret (m boots i : Nat) : Nat := 2 * (8 * (m * 2 ^ 32 + boots) + i)

/-- R417: the measurement chain of a context: the module's while no image has been loaded into it, else that of its last one. -/
def Module.chain (x : Module) (m : Nat) (ctx : BitVec 16) : List Byte :=
  secretBytes ((x.chains.find? ctx.toNat).getD (bootSecret m x.boots 0)) 32

/-- R417: a context's chain extends over the images loaded into it; whether one has been since it was last read is for the firmware to
know (log 17). -/
def State.extendChain (s : State) (m : Nat) (ctx : BitVec 16) : State :=
  let (n, s) := s.choose 2
  if n = 1 then
    let (k, s) := s.freshSecret
    s.mapModule m fun x => { x with chains := x.chains.put ctx.toNat k }
  else s

/-- Bytes of the length of a signature. -/
def signatureBytes : Nat := 17088

/-- R422: the body of a quote. -/
def quoteBody (m : Nat) (x : Module) (ctx : BitVec 16) (chain : List Byte) : List Byte :=
  [16, 24, 32, 40].flatMap (fun o => toBytes 8 (x.arg o).toNat) ++ secretBytes (bootSecret m x.boots 0) 32 ++ chain ++
  toBytes 2 ctx.toNat ++ toBytes 8 x.health.toNat ++ secretBytes (bootSecret m x.boots 1) 32 ++
  secretBytes (bootSecret m x.boots 2) 32 ++ List.replicate 86 0

/-- R421: the body of a health report. -/
def State.healthBody (s : State) (m : Nat) : List Byte :=
  let x := s.module m
  let on := fun d (v : Nat) => if bit x.health (40 + d) then v else 0
  [16, 24, 32, 40].flatMap (fun o => toBytes 8 (x.arg o).toNat) ++ secretBytes (bootSecret m x.boots 0) 32 ++
  toBytes 2 0xFFFF ++ List.replicate 6 0 ++ toBytes 8 x.health.toNat ++ toBytes 8 s.now ++
  (List.range 12).flatMap (fun d => toBytes 8 (on d (s.die (m * 16 + d)).clmap.toNat)) ++
  (moduleClusters m).flatMap (fun ck => toBytes 2 (on (ck / 64 % 16) (bits (s.cluster ck).coremap 15 0))) ++
  (List.range 12).flatMap (fun d => toBytes 8 (on d (s.die (m * 16 + d)).hbmsize.toNat)) ++ List.replicate 232 0

/-- A report written to a buffer (log 17), where a request to it is performed, under key slot 0, as R418 gives the buffer none (log 99);
one whose buffer cannot take it is not written. -/
def State.writeReport (s : State) (pa : Nat) (b : List Byte) : State :=
  if (s.homeCheck false pa b.length).isSome || s.homeLost pa b.length then s.eccFailAt pa b.length else s.hallmarkPut 0 pa b

/-- R421, R422: a report with its signature under the attestation key. -/
def State.writeSigned (s : State) (pa : Nat) (body : List Byte) : State :=
  let (k, s) := s.freshSecret
  s.writeReport pa (body ++ secretBytes k signatureBytes)

/-- R420, R422: QUOTE. With a zero nonce it returns the identity public key and the certificate, whose layout the spec leaves open:
the response and the buffer then hold free bytes (log 17), the same at every such QUOTE of one boot, the certificate's signature among
them. -/
def State.quote (s : State) (m : Nat) : State :=
  let x := s.module m
  let pa := (x.arg 48).toNat
  if !(x.asks 4) then s
  else if [16, 24, 32, 40].all fun o => x.arg o = 0 then
    let s := s.mapModule m fun x =>
      { x with mbResp := Vector.ofFn fun i => BitVec.ofNat 64 (leAt (secretBytes (bootSecret m 0 3) 64) (8 * i.val) 8) }
    (s.writeReport pa (secretBytes (bootSecret m x.boots 4) (256 + signatureBytes))).answer m 1
  else
    let ctx := BitVec.ofNat 16 (x.arg 8).toNat
    let s := s.extendChain m ctx
    (s.writeSigned pa (quoteBody m x ctx ((s.module m).chain m ctx))).answer m 1

def execQuote (module : Nat) (s : State) : Out := .next (s.quote module)

/-- R420, R421: HEALTH. -/
def execHealth (module : Nat) (s : State) : Out :=
  .next (if !((s.module module).asks 5) then s
    else (s.writeSigned ((s.module module).arg 8).toNat (s.healthBody module)).answer module 1)

/-! ### Reset (R417, R48, R426) -/

/-- R72, R73, R426: a die once the interleave is formed anew without the channels retired. -/
def Die.reformed (d : Die) : Die :=
  { Die.reset with
    clmap := d.clmap
    spares := d.spares
    gone := d.gone ++ d.retired
    formed := d.formed + 1
    hbmsize := d.hbmsize - BitVec.ofNat 64 (2000000000 * d.retired.length) }

/-- R426, R424: HBMRET, from the channels retired now and at earlier resets. -/
def State.hbmRetired (s : State) (m : Nat) : Nat :=
  let n := ((List.range 12).map fun d =>
    let x := s.die (m * 16 + d)
    x.retired.length + (128000000000 - x.hbmsize.toNat) / 2000000000).sum
  min 255 (n * 1000 / 768)

/-- R417: a module's own registers after a reset, before it boots. -/
def Module.rebooted (x : Module) (m : Nat) : Module :=
  { Module.reset m with
    health := setBits (setBits (setBits x.health 51 40
      (((List.range 12).filter fun d => bit x.health (40 + d) && !(x.failedDies.contains d)).map fun d => 2 ^ d).sum) 63 63 0) 7 4 0
    ctxtbl := x.ctxtbl
    keys := x.keys.map fun e => (e.1, ⟨none, e.2.gen + 1⟩)
    links := x.links.map fun e => (e.1, { Link.reset with key := e.2.key, wired := e.2.wired })
    telemetry := []
    downSince := x.downSince
    boots := x.boots + 1 }

/-- R423: the module that a soft error stands in. -/
def SoftPlace.module : SoftPlace → Nat
  | .tlb u _ => locModule (u / 8)
  | .walk q _ => q / 64
  | .tile l _ => locModule l
  | .acc l _ => locModule l
  | .tape ck _ => ck / 2 ^ 10

/-- R48, R75, R417: what a reset of a module clears; HBM keeps its contents, with its ECC made anew. -/
def State.clearModule (s : State) (m : Nat) : State :=
  let s := s.clearPads fun pa => paModule pa = m
  let s := ((s.module m).links.filter fun e => e.2.state ≠ 0).foldl (fun s e => s.linkDown m e.1) s
  { s with
    errs := s.errs.filter fun e => paModule e.1 ≠ m
    softs := s.softs.filter fun e => e.1.module ≠ m
    cores := s.cores.filter fun e => locModule e.1 ≠ m
    clusters := (s.clusters.filter fun e => e.1 / 2 ^ 10 ≠ m || e.2.coremap ≠ 0xFFFF || e.2.spare.isSome).map fun e =>
      if e.1 / 2 ^ 10 = m then (e.1, { Cluster.reset with coremap := e.2.coremap, spare := e.2.spare }) else e
    dies := s.dies.map fun e => if e.1 / 16 = m then (e.1, e.2.reformed) else e
    modules := s.modules.put m ((s.module m).rebooted m)
    tlbs := s.tlbs.map fun e => if locModule (e.1 / 8) = m then (e.1, []) else e
    walks := s.walks.map fun e => if e.1 / 64 = m then (e.1, []) else e
    cmds := s.cmds.filter fun c => locModule c.loc ≠ m
    reqs := s.reqs.filter fun r => locModule r.loc ≠ m
    msgs := s.msgs.filter fun x => locModule x.target ≠ m && x.ni / 2 ^ 10 ≠ m
    invals := s.invals.filter fun i => locModule i.loc ≠ m
    kept := s.kept.filter fun k => locModule k.loc ≠ m
    teams := s.teams.filter fun t => locModule t.loc ≠ m }

/-- R417: the module boots: whether the two images pass their signature checks is the part's to say (log 18). -/
def State.boot (s : State) (m : Nat) : State :=
  let (n, s) := s.choose 3
  let stat := match n with
    | 0 => 1
    | 1 => 0xE1
    | _ => 0xE2
  (s.mapModule m fun x => { x with bootFail := n, mbstat := BitVec.ofNat 64 stat }).count m 0x28 stat

/-- R417, R48, R426: reset of a module: stores cleared, spares mapped in, then boot. -/
def State.resetModule (s : State) (m : Nat) : State :=
  let s := s.clearModule m
  let s := ((moduleClusters m).foldl (fun s ck => s.mapSpares ck) s).countExhausted m
  (s.mapHealth m fun w => setBits w 39 32 (s.hbmRetired m)).boot m

def execModuleReset (module : Nat) (s : State) : Out := .next (s.resetModule module)

/-! ### Soft errors (R423) -/

/-- A scrub of a die's units of one kind: what can be corrected is, and is counted. -/
def State.scrub (s : State) (dk kind entry : Nat) : State :=
  let hit := fun (e : Nat × Bool) => !e.2 && paDieKey e.1 = dk && paKind e.1 = kind
  let n := (s.errs.filter hit).length
  if n = 0 then s else { s with errs := s.errs.filter fun e => !(hit e) }.countDie dk entry n

/-- R423: the die whose accumulators or tape stores a soft error stands in, none for the stores that no scrub visits. -/
def SoftPlace.scrubbed : SoftPlace → Option Nat
  | .acc l _ => some (locDieKey l)
  | .tape ck _ => some (ck / 2 ^ 6)
  | _ => none

/-- R423: what a scrub of a die's accumulators and tape stores corrects. -/
def State.scrubSofts (s : State) (dk : Nat) : State :=
  (s.softs.filter fun e => !e.2 && e.1.scrubbed = some dk).foldl (fun s e => s.softMet dk 0 e.1) s

def execSramScrub (die : Nat) (s : State) : Out := .next ((s.scrub die 1 0).scrubSofts die)
def execHbmPatrolScrub (die : Nat) (s : State) : Out := .next (s.scrub die 0 4)

/-- R423, R55: a register of a thread fails its parity: the instruction is re-issued from the shadow copy, or the slot stops; the
address that is reported is a free value (log 18). -/
def State.parityError (s : State) (l : Loc) (k : Nat) (hard : Bool) : State :=
  if (s.threadAt l k).st ≠ .running then s
  else if !hard then s.countDie (locDieKey l) 2 1
  else
    let s := s.countDie (locDieKey l) 3 1
    let (v, s) := s.freeWord
    let s := s.takeTrap l k (trapInfo 0x09 0x11 (v.zeroExtend 80))
    if (s.threadAt l k).st = .running then s.stopSlot l k 0x09 else s

def execRegisterParityError (loc slot : Nat) (hard : Bool) (s : State) : Out := .next (s.parityError loc slot hard)

/-! ### Failed units (R425, R426) -/

/-- R426, R388: the threads of a core end with their fault messages; an alloy that the core belongs to ends with it. -/
def State.endThreads (s : State) (l : Loc) : State :=
  let s := iterate (fun k (s : State) =>
    if (s.threadAt l k).st = .free then s
    else ((s.faultMessage l k (bits (s.threadAt l k).ecause 7 0)).partAlloy l k 3).undoForming l k) 5 0 s
  (s.core l).redirect.foldl (fun s r =>
    if r.leaving then s
    else
      let t := s.threadAt r.leader r.slot
      if t.st = .free || t.alloy = 0 then s
      else (s.faultMessage r.leader r.slot (bits t.ecause 7 0)).endTask r.leader r.slot) s

/-- R426: a core stops, and its state is lost. -/
def State.loseCore (s : State) (l : Loc) : State :=
  let s := s.endThreads l
  let s := s.setCore l (Core.reset l)
  { s with
    cmds := s.cmds.filter fun c => c.loc ≠ l
    reqs := s.reqs.filter fun r => r.loc ≠ l || r.op = .write
    invals := s.invals.filter fun i => i.loc ≠ l
    kept := s.kept.filter fun k => k.loc ≠ l }

/-- R426: every core of a cluster is lost, and with them its own state. -/
def State.loseCluster (s : State) (ck : Nat) : State :=
  let s := (clusterLocs ck).foldl (fun s l => s.loseCore l) s
  s.mapCluster ck fun c => { Cluster.reset with coremap := c.coremap, spare := c.spare }

/-- R425, R426: a core (0), cluster (1) or die (2) is found failed. -/
def State.unitFailure (s : State) (l : Loc) (kind : Nat) : State :=
  let ck := locClusterKey l
  match kind with
  | 0 =>
    if locKind l ≠ 0 then s.loseCore l
    else (s.loseCore l).mapCluster ck fun c => { c with coremap := setBits c.coremap (locCore l) (locCore l) 0 }
  | 1 => (s.loseCluster ck).mapDie (ck / 64) fun d => { d with clmap := setBits d.clmap (ck % 64) (ck % 64) 0 }
  | 2 =>
    let dk := locDieKey l
    let s := (List.range 64).foldl (fun s c => s.loseCluster (dk * 64 + c)) s
    let s := (List.range 8).foldl (fun s i => s.loseCore (mgmtLoc (dk / 16) (dk % 16) (i / 2) (i % 2))) s
    s.mapModule (dk / 16) fun x => { x with failedDies := if x.failedDies.contains (dk % 16) then x.failedDies else dk % 16 :: x.failedDies }
  | _ => s

def execUnitFailure (loc kind : Nat) (s : State) : Out := .next (s.unitFailure loc kind)

/-- R426, R424: a channel of a die's HBM is retired. -/
def State.retireChannel (s : State) (dk chan : Nat) : State :=
  if 64 ≤ chan || (s.die dk).retired.contains chan || (s.die dk).gone.contains chan then s
  else
    let s := s.mapDie dk fun d => { d with retired := chan :: d.retired }
    s.mapHealth (dk / 16) fun w => setBits w 39 32 (s.hbmRetired (dk / 16))

def execHbmChannelRetired (die chan : Nat) (s : State) : Out := .next (s.retireChannel die chan)

end Sys2Proof.Machine
end

