-- ==== Sys2Proof/Machine/Accounting.lean ====
section
/-! DEFINITION. Link accounting (R428-R431) and the samples of the trace unit (R433). -/

namespace Sys2Proof.Machine

/-- R430: the number of links of a record: 84 mesh tiles with four ports each, and the router's ports. -/
def accountedLinks : Nat := 480

/-- R430: the tile of a die's mesh that a record's tile number stands for: a spare tile that is mapped in is reported under the cluster that it
takes, and the tile it replaces under the spare's number. -/
def Die.meshTile (d : Die) (m : Nat) : Nat :=
  if d.spares.contains m then 80 + m / 16
  else if 80 ≤ m then (d.spares.find? fun c => c / 16 = m - 80).getD m
  else m

/-- R430: a link that a record of a die has counts of: a port of its mesh that has one (log 26), or a router port that the die hosts. -/
def State.linkHere (s : State) (dk l : Nat) : Bool :=
  if l < 336 then Config.meshLink dk (4 * (s.die dk).meshTile (l / 4) + l % 4) else (l - 336) % 12 = dk % 16

/-- R430, R431: the ck that a record covers, since the counts were last read: at most one flit is sent in each. -/
def State.acctTime (s : State) (dk : Nat) : Nat := s.now - (s.die dk).acctSince

/-- R428: the entry of a channel. -/
def countEntry (flits stall : Nat) : Nat := flits % 2 ^ 32 + stall % 2 ^ 32 * 2 ^ 32

/-- R428: the entries of `n` channels of a link whose traffic the model does not trace, in the mesh or inside the package: free, with at most one
flit of the link in a ck of the time that the record covers, and none on a channel in a ck in which it stalls (log 24). -/
def freeCounts (i time : Nat) : Nat → Nat → List Nat
  | 0, _ => []
  | n + 1, left =>
    let flits := (Config.freeWord (i + 2 * n)).toNat % (left + 1)
    let stall := (Config.freeWord (i + 2 * n + 1)).toNat % (time - flits + 1)
    countEntry flits stall :: freeCounts i time n (left - flits)

/-- R428, R430: the eight entries of a link in a record of a die's counts. -/
def State.linkCounts (s : State) (dk l : Nat) : List Nat :=
  let d := s.die dk
  if !(s.linkHere dk l) then List.replicate 8 0
  else if 336 ≤ l && fabricPort (l - 336) then
    (List.range 8).map fun v => let c := (d.counts.find? (8 * l + v)).getD (0, 0); countEntry c.1 c.2
  else freeCounts (s.fresh + 16 * l) (s.acctTime dk) 8 (s.acctTime dk)

/-- R430: a record of a die's counts from byte 4 on. -/
def State.acctRecord (s : State) (dk : Nat) : List Byte :=
  let d := s.die dk
  List.replicate 4 0 ++ toBytes 8 s.now ++ toBytes 2 (bits d.acctcfg 41 32) ++ toBytes 1 (dk % 16) ++ toBytes 1 (min 255 d.acctSkip) ++
  List.replicate 44 0 ++ (List.range accountedLinks).flatMap fun l => (s.linkCounts dk l).flatMap fun n => toBytes 8 n

/-- R429: where the record of a sequence number lies, none when the ring has no records or does not lie in the die's own HBM. -/
def State.acctPlace (s : State) (dk seq : Nat) : Option Nat :=
  let d := s.die dk
  let n := bits d.acctcfg 15 0
  let base := d.acctbase.toNat
  let pa := base + 2 ^ 15 * (seq % n)
  if n = 0 || paKind base ≠ 0 || paDieKey base ≠ dk || base % 2 ^ 15 ≠ 0 || d.hbmsize.toNat < paOff base + 2 ^ 15 * (seq % n + 1) then none
  else some pa

/-- R430: SEQ is written last, where the record began. -/
def State.acctFinish (s : State) (dk : Nat) : State :=
  let d := s.die dk
  let s := match d.acctAt with
    | some pa => s.homeWrite none 0 pa (toBytes 4 (d.acctSeq - 1).toNat)
    | none => s
  s.mapDie dk fun d => { d with acctWriting := false, acctAt := none }

/-- How long a record takes to write is the part's choice (log 18): it ends in this step or lasts into the next boundary. -/
def State.acctMayFinish (s : State) (dk : Nat) : State :=
  let (n, s) := s.choose 2
  if n = 0 then s.acctFinish dk else s

/-- R428, R431: a boundary: all counts of the die are read and zeroed, and become a record where the ring has a place for it; or it is skipped
while a record is being written. The unit that writes it lies in no quadrant that R92 or R429 names: its requests count in TOTAL alone (log 104: DESIGN
CHOICE). -/
def State.acctBoundary (s : State) (dk : Nat) : State :=
  if !(bit (s.die dk).acctcfg 63) then s
  else if (s.die dk).acctWriting then
    (s.mapDie dk fun d => { d with acctSkip := min 255 (d.acctSkip + 1) }).acctMayFinish dk
  else
    let record := s.acctRecord dk
    match s.acctPlace dk (s.die dk).acctSeq.toNat with
    | some pa =>
      let s := { s with fresh := s.fresh + 16 * accountedLinks }.homeWrite none 0 pa (List.replicate 4 0xFF ++ record)
      (s.mapDie dk fun d =>
        { d with counts := [], acctSince := s.now, acctSeq := d.acctSeq + 1, acctSkip := 0, acctWriting := true, acctAt := some pa }).acctMayFinish dk
    | none => s.mapDie dk fun d => { d with counts := [], acctSince := s.now }

def execAcctBoundary (die : Nat) (s : State) : Out := .next (s.acctBoundary die)

/-- R433: a sample of every running slot of a cluster whose task passes the filter. -/
def State.traceSample (s : State) (ck : Nat) : State :=
  if bits (s.cluster ck).trccfg 61 57 = 0 then s
  else
    (clusterLocs ck).foldl (fun s l => iterate (fun k (s : State) =>
      if (s.threadAt l k).st = .running then s.trace l k 1 0 0 else s) 5 0 s) s

def execTraceSample (cl : Nat) (s : State) : Out := .next (s.traceSample cl)

end Sys2Proof.Machine
end

