-- ==== Sys2Proof/Machine/ScalarFloat.lean ====
section
/-! DEFINITION. Scalar floating point (R232-R239). -/

namespace Sys2Proof.Machine

/-- R234: the formats of the code FT. -/
def scalarFmt (t : BitVec 3) : Float.Fmt :=
  match t with
  | 0#3 => ⟨.ieee, 32, 8, 23, 127⟩
  | 1#3 => ⟨.ieee, 64, 11, 52, 1023⟩
  | 2#3 => ⟨.ieee, 16, 8, 7, 127⟩
  | 3#3 => ⟨.ieee, 16, 5, 10, 15⟩
  | 4#3 => ⟨.int, 64, 0, 0, 0⟩
  | 5#3 => ⟨.nat, 64, 0, 0, 0⟩
  | 6#3 => ⟨.int, 32, 0, 0, 0⟩
  | _ => ⟨.nat, 32, 0, 0, 0⟩

/-- R234: the integer codes. -/
def scalarInt (t : BitVec 3) : Bool := 4 ≤ t.toNat

/-- R234, R235: the mode that the RM field names. -/
def State.scalarMode (s : State) (r : BitVec 3) : Nat := if r = 7 then s.frm else r.toNat

/-- R234: RM = 101 and 110 are refused. -/
def legalRm (r : BitVec 3) : Bool := r ≠ 5 && r ≠ 6

/-- R232: a result of a format as its register holds it. -/
def scalarWord (t : BitVec 3) (c : Nat) : Word := if t = 6 then signExtend 32 (BitVec.ofNat 64 c) else BitVec.ofNat 64 c

/-- R232: the value of a register read in a format. -/
def State.scalarVal (s : State) (t : BitVec 3) (a : BitVec 5) : Float.Val :=
  Float.unpack (scalarFmt t) false (s.g a).toNat

/-- R235: an operation that rounds once: `f` gives the exact value and the flags found in forming it. -/
def scalarOp (d : BitVec 5) (r t : BitVec 3) (f : State → Float.Val × BitVec 6) : M Unit := do
  check (t.toNat ≤ 1 && legalRm r) 0x04
  let s ← get
  let (x, pre) := f s
  let c ← scalarRound (scalarFmt t) (s.scalarMode r) s.fsat x pre
  modify fun s => s.setG d (scalarWord t c)

def execFadd (d a b : BitVec 5) (r t : BitVec 3) (s : State) : Out :=
  runAdv (scalarOp d r t fun s => Float.add (s.scalarMode r) (s.scalarVal t a) (s.scalarVal t b)) s
def execFsub (d a b : BitVec 5) (r t : BitVec 3) (s : State) : Out :=
  runAdv (scalarOp d r t fun s => Float.add (s.scalarMode r) (s.scalarVal t a) (s.scalarVal t b).negate) s
def execFmul (d a b : BitVec 5) (r t : BitVec 3) (s : State) : Out :=
  runAdv (scalarOp d r t fun s => Float.mul (s.scalarVal t a) (s.scalarVal t b)) s
def execFdiv (d a b : BitVec 5) (r t : BitVec 3) (s : State) : Out :=
  runAdv (scalarOp d r t fun s => Float.div (s.scalarVal t a) (s.scalarVal t b)) s
def execFsqrt (d a : BitVec 5) (r t : BitVec 3) (s : State) : Out :=
  runAdv (scalarOp d r t fun s => Float.sqrt (s.scalarVal t a)) s
def execFmac (d a b : BitVec 5) (r t : BitVec 3) (s : State) : Out :=
  runAdv (scalarOp d r t fun s =>
    Float.fma (s.scalarMode r) (s.scalarVal t d) (s.scalarVal t a) (s.scalarVal t b)) s

/-- R235, R189: minimum or maximum; nothing is rounded. -/
def scalarMinMax (wantMax : Bool) (d a b : BitVec 5) (t : BitVec 3) : M Unit := do
  check (t.toNat ≤ 1) 0x04
  let s ← get
  let (x, f) := Float.minMax wantMax (s.scalarVal t a) (s.scalarVal t b)
  raiseF f
  modify fun s => s.setG d (scalarWord t (Float.packExact (scalarFmt t) false x))

def execFmin (d a b : BitVec 5) (t : BitVec 3) (s : State) : Out := runAdv (scalarMinMax false d a b t) s
def execFmax (d a b : BitVec 5) (t : BitVec 3) (s : State) : Out := runAdv (scalarMinMax true d a b t) s

/-- R236. -/
def scalarCompare (d a b : BitVec 5) (c t : BitVec 3) : M Unit := do
  check (t.toNat ≤ 1 && c.toNat ≤ 4) 0x04
  let s ← get
  let (x, f) := Float.compare c.toNat (s.scalarVal t a) (s.scalarVal t b)
  raiseF f
  modify fun s => s.setG d (ofBool x)

def execFcmp (d a b : BitVec 5) (c t : BitVec 3) (s : State) : Out := runAdv (scalarCompare d a b c t) s

/-- R237: `sel` is the source code and `t` the destination's. -/
def scalarConvert (d a : BitVec 5) (sel r t : BitVec 3) : M Unit := do
  check (legalRm r) 0x04
  check (!(scalarInt sel && scalarInt t) && sel ≠ t) 0x05
  let s ← get
  let (c, f, gen) := Float.convert (scalarFmt sel) (scalarFmt t) false (s.scalarMode r) s.fsat (s.gen s.loc) (s.g a).toNat
  set (s.setGen s.loc gen)
  raiseF f
  modify fun s => s.setG d (scalarWord t c)

def execFcvt (d a : BitVec 5) (sel r t : BitVec 3) (s : State) : Out := runAdv (scalarConvert d a sel r t) s

/-- R238. -/
def execFclass (d a : BitVec 5) (t : BitVec 3) (s : State) : Out :=
  if t.toNat ≤ 3 then
    s.result d (BitVec.ofNat 64 (2 ^ Float.classOf (scalarFmt t) ((s.g a).toNat % 2 ^ (scalarFmt t).bits)))
  else trapOut s (illegal 0x04 s.word)

end Sys2Proof.Machine
end

