-- ==== Sys2Proof/Machine/Xfence.lean ====
section
/-! DEFINITION. `xfence` (R275): which commands have an event still to perform with its home in an instance (R115, R116). -/

namespace Sys2Proof.Machine

/-- R274: a path by its code. -/
def pathOf (c : BitVec 3) : Option Path :=
  match c with
  | 0#3 => some .c
  | 1#3 => some .m
  | 2#3 => some .x
  | 3#3 => some .n
  | 4#3 => some .s
  | _ => none

/-- R294, R296: the events of an exchange: each side reads its own rows and writes the other's. -/
def swapEvents (c : Cmd) (t : Nat) (d : Word × Word) (partner : Loc) : M Unit := do
  let _ ← tileRead c.copyWho c.loc d (tileBase d) 1
  let e := (← get).tile partner t
  let _ ← tileRead c.copyWho partner e (tileBase e) 1
  pure ()

/-- R261: the chunks of a stream that are still to be read or written. -/
def streamEvents (c : Cmd) : M Unit := do
  let s ← get
  match s.streamOf c with
  | none => pure ()
  | some x => forUpTo (fun n =>
      if x.write then memWrite (x.who c.loc) (x.chunkAt n) (List.replicate 256 0) x.xs.toNat
      else do
        let _ ← memRead (x.who c.loc) (x.chunkAt n) 256 x.xs.toNat
        pure ()) x.left x.first

/-- R116: the events of a command on its path, as it would perform them now; what an endpoint or a collective places lies in the command's own
buffers. -/
def cmdEvents (c : Cmd) : M Unit := do
  let n := niCount c.ni * Float.fmtBytes (niFmt c.ni)
  let _ ← match c.kind with
    | .tfill _ d src stride sparse => workRows c (fillRow c d src stride sparse) (tileRows d) 0
    | .tdrain _ d dst stride _ => workRows c (drainRow c d dst stride) (tileRows d) 0
    | .tswap t d partner => work c 0 (swapEvents c t d partner)
    | .mac _ _ _ _ _ _ _ _ _ => performMx c true c.kind
    | .mxLd _ _ => performMx c true c.kind
    | .mxSt _ _ => performMx c true c.kind
    | .mxSend _ _ w opa opb => match sentKind w opa opb with
      | some k => performMx c false k
      | none => pure none
    | .stream _ => work c 0 (streamEvents c)
    | .sndz rank v bf x => work c 0 (sndzWork c rank v bf x)
    | .coll _ _ dst src => work c 0 (do
        let _ ← memRead c.niWho src n 0
        memWrite c.niWho dst (List.replicate n 0) 0)
    | .ethPut e _ a len _ _ _ => work c 0 (do
        let _ ← memRead (c.ethWho e) a len 0)
    | .ethRecv e a len _ _ => work c 0 (memWrite (c.ethWho e) a (List.replicate len 0) 0)
    | .ethGet e _ a len _ _ _ => work c 0 (memWrite (c.ethWho e) a (List.replicate len 0) 0)
    | k => if k.swage then stvPerform c else performCmd c

/-- R116: a command has an event still to perform with its home in the instance of a scope for a core, its barrier arrival among them; at
thread scope every home counts. A trial of what it would do now says so, and leaves nothing; one that must wait, holds. -/
def State.eventIn (s : State) (l : Loc) (scope : Nat) (c : Cmd) : Bool :=
  s.arrivalIn l scope c || s.working c && (scope = 0 ||
    match (cmdEvents c).run { s with watch := some (l, scope) } with
    | .error .ended _ => true
    | .error .stall _ => true
    | _ => false)

/-- R116: a vector memory form in the dispatch queue moves bytes whose home lies in the instance of a scope for a core; at thread scope, any. -/
def CmdKind.placeIn (k : CmdKind) (s : State) (l : Loc) (scope : Nat) : Bool :=
  match k with
  | .vmem _ _ _ _ places => places.any fun x => scope = 0 || s.paInScope l scope x.pa
  | _ => false

/-- R115, R116: what an `xfence` waits for: the accesses of vector memory forms that stand in the dispatch queue and the messages sent to inboxes in its instance, at thread scope to all with the posted
stores; of the commands on P accepted before it those with an event to perform there. -/
def State.fenced (s : State) (p : Path) (sel : BitVec 3) : List Nat :=
  let t := s.thr
  if p = .c then
    (if sel = 0 then (s.posted t.uid).map (·.id) else []) ++
      ((s.unsent t.uid).filter fun m => locInScope s.loc sel.toNat m.target).map (·.id) ++
      (s.cmds.filter fun c => c.uid = t.uid && c.kind.placeIn s s.loc sel.toNat).map (·.id)
  else ((t.opens.filter fun o => o.path = p && !o.done).map (·.cmd)).filter fun i =>
    s.cmds.any fun c => c.id = i && s.eventIn s.loc sel.toNat c

/-- R275, R115: the thread goes on issuing; what is on Q waits. -/
def xfenceM (sel p q : BitVec 3) : M Unit := do
  match pathOf p, pathOf q with
  | some pp, some qq => do
    check (legalScope sel) 0x04
    if pp = .c && wideScope sel then awaitPosted
    let s ← get
    let e : XEdge := ⟨pp, qq, sel, s.fenced pp sel⟩
    let old := s.thr.xedges.filter s.edgeHolds
    set (s.mapThr fun t => { t with xedges := if e.cmds.isEmpty then old else old ++ [e] })
  | _, _ => badOperand 0x04

def execXfence (sel p q : BitVec 3) (s : State) : Out := runAdv (xfenceM sel p q) s

end Sys2Proof.Machine
end

