-- ==== Sys2Proof/Machine/Dispatch.lean ====
section
/-! DEFINITION. What each instruction does: one arm for each constructor of `Instr`, each one call of its meaning. -/

namespace Sys2Proof.Machine

/-- The meaning of an instruction or step at a state. -/
def exec (i : Instr) (s : State) : Host.Outcome State Fault Refusal :=
  match i with
  | .movi d sel n imm => Sys2Proof.Machine.execMovi d sel n imm s
  | .movk d n imm => Sys2Proof.Machine.execMovk d n imm s
  | .fadd d a b r t => Sys2Proof.Machine.execFadd d a b r t s
  | .fsub d a b r t => Sys2Proof.Machine.execFsub d a b r t s
  | .fmul d a b r t => Sys2Proof.Machine.execFmul d a b r t s
  | .fdiv d a b r t => Sys2Proof.Machine.execFdiv d a b r t s
  | .fsqrt d a r t => Sys2Proof.Machine.execFsqrt d a r t s
  | .fmac d a b r t => Sys2Proof.Machine.execFmac d a b r t s
  | .fmin d a b t => Sys2Proof.Machine.execFmin d a b t s
  | .fmax d a b t => Sys2Proof.Machine.execFmax d a b t s
  | .fcmp d a b c t => Sys2Proof.Machine.execFcmp d a b c t s
  | .fcvt d a sel r t => Sys2Proof.Machine.execFcvt d a sel r t s
  | .fclass d a t => Sys2Proof.Machine.execFclass d a t s
  | .beq a b o => Sys2Proof.Machine.execBeq a b o s
  | .bne a b o => Sys2Proof.Machine.execBne a b o s
  | .blt a b o => Sys2Proof.Machine.execBlt a b o s
  | .bge a b o => Sys2Proof.Machine.execBge a b o s
  | .bltn a b o => Sys2Proof.Machine.execBltn a b o s
  | .bgen a b o => Sys2Proof.Machine.execBgen a b o s
  | .j o => Sys2Proof.Machine.execJ o s
  | .call o => Sys2Proof.Machine.execCall o s
  | .jr a => Sys2Proof.Machine.execJr a s
  | .callr a => Sys2Proof.Machine.execCallr a s
  | .ret => Sys2Proof.Machine.execRet s
  | .ldN8 d p m x imm => Sys2Proof.Machine.execLdN8 d p m x imm s
  | .ldI8 d p m x imm => Sys2Proof.Machine.execLdI8 d p m x imm s
  | .ldN16 d p m x imm => Sys2Proof.Machine.execLdN16 d p m x imm s
  | .ldI16 d p m x imm => Sys2Proof.Machine.execLdI16 d p m x imm s
  | .ldN32 d p m x imm => Sys2Proof.Machine.execLdN32 d p m x imm s
  | .ldI32 d p m x imm => Sys2Proof.Machine.execLdI32 d p m x imm s
  | .ldI64 d p m x imm => Sys2Proof.Machine.execLdI64 d p m x imm s
  | .ldp d p m x imm => Sys2Proof.Machine.execLdp d p m x imm s
  | .st8 d p m x imm => Sys2Proof.Machine.execSt8 d p m x imm s
  | .st16 d p m x imm => Sys2Proof.Machine.execSt16 d p m x imm s
  | .st32 d p m x imm => Sys2Proof.Machine.execSt32 d p m x imm s
  | .st64 d p m x imm => Sys2Proof.Machine.execSt64 d p m x imm s
  | .stp d p m x imm => Sys2Proof.Machine.execStp d p m x imm s
  | .vld d p m x imm => Sys2Proof.Machine.execVld d p m x imm s
  | .vst d p m x imm => Sys2Proof.Machine.execVst d p m x imm s
  | .lda d a sel z x => Sys2Proof.Machine.execLda d a sel z x s
  | .stl a b sel z x => Sys2Proof.Machine.execStl a b sel z x s
  | .amoAdd d a b z x => Sys2Proof.Machine.execAmoAdd d a b z x s
  | .amoAnd d a b z x => Sys2Proof.Machine.execAmoAnd d a b z x s
  | .amoOr d a b z x => Sys2Proof.Machine.execAmoOr d a b z x s
  | .amoXor d a b z x => Sys2Proof.Machine.execAmoXor d a b z x s
  | .amoMin d a b z x => Sys2Proof.Machine.execAmoMin d a b z x s
  | .amoMax d a b z x => Sys2Proof.Machine.execAmoMax d a b z x s
  | .amoMinn d a b z x => Sys2Proof.Machine.execAmoMinn d a b z x s
  | .amoMaxn d a b z x => Sys2Proof.Machine.execAmoMaxn d a b z x s
  | .amoSwap d a b z x => Sys2Proof.Machine.execAmoSwap d a b z x s
  | .cas d a b z x => Sys2Proof.Machine.execCas d a b z x s
  | .cas2 d a b x => Sys2Proof.Machine.execCas2 d a b x s
  | .famoAdd d a b z x => Sys2Proof.Machine.execFamoAdd d a b z x s
  | .fence sel p q => Sys2Proof.Machine.execFence sel p q s
  | .xfence sel p q => Sys2Proof.Machine.execXfence sel p q s
  | .wait l sel c t m => Sys2Proof.Machine.execWait l sel c t m s
  | .waitkImm nhi k nlo => Sys2Proof.Machine.execWaitkImm nhi k nlo s
  | .waitkReg a k => Sys2Proof.Machine.execWaitkReg a k s
  | .waitbImm nhi k nlo => Sys2Proof.Machine.execWaitbImm nhi k nlo s
  | .waitbReg a k => Sys2Proof.Machine.execWaitbReg a k s
  | .kset a k => Sys2Proof.Machine.execKset a k s
  | .kget a k => Sys2Proof.Machine.execKget a k s
  | .trig a b k => Sys2Proof.Machine.execTrig a b k s
  | .untrig b k => Sys2Proof.Machine.execUntrig b k s
  | .bmov d a b => Sys2Proof.Machine.execBmov d a b s
  | .bset d a b => Sys2Proof.Machine.execBset d a b s
  | .rpt a k => Sys2Proof.Machine.execRpt a k s
  | .cpCopy a b k => Sys2Proof.Machine.execCpCopy a b k s
  | .cpFill a b k => Sys2Proof.Machine.execCpFill a b k s
  | .cpRows a b k imm => Sys2Proof.Machine.execCpRows a b k imm s
  | .cpScat a b k imm => Sys2Proof.Machine.execCpScat a b k imm s
  | .tcfg a b c => Sys2Proof.Machine.execTcfg a b c s
  | .tdef a b c => Sys2Proof.Machine.execTdef a b c s
  | .tfill a b k o c => Sys2Proof.Machine.execTfill a b k o c s
  | .tdrain a b k o c => Sys2Proof.Machine.execTdrain a b k o c s
  | .trel a => Sys2Proof.Machine.execTrel a s
  | .tstat a b => Sys2Proof.Machine.execTstat a b s
  | .tswap a b k => Sys2Proof.Machine.execTswap a b k s
  | .join a b sel => Sys2Proof.Machine.execJoin a b sel s
  | .leave b => Sys2Proof.Machine.execLeave b s
  | .gbar b => Sys2Proof.Machine.execGbar b s
  | .spawn a b => Sys2Proof.Machine.execSpawn a b s
  | .tid a sel => Sys2Proof.Machine.execTid a sel s
  | .done => Sys2Proof.Machine.execDone s
  | .mxMac u v t a b k sel c => Sys2Proof.Machine.execMxMac u v t a b k sel c s
  | .mxMacb u v t a b k sel c => Sys2Proof.Machine.execMxMacb u v t a b k sel c s
  | .mxZero k c => Sys2Proof.Machine.execMxZero k c s
  | .mxLd a k c => Sys2Proof.Machine.execMxLd a k c s
  | .mxSt a k c => Sys2Proof.Machine.execMxSt a k c s
  | .mxHand k c => Sys2Proof.Machine.execMxHand k c s
  | .mxRd v g c => Sys2Proof.Machine.execMxRd v g c s
  | .mxProg d => Sys2Proof.Machine.execMxProg d s
  | .mxProgClr d b => Sys2Proof.Machine.execMxProgClr d b s
  | .mxSend a b k => Sys2Proof.Machine.execMxSend a b k s
  | .etw sel a n p => Sys2Proof.Machine.execEtw sel a n p s
  | .etr sel a n p => Sys2Proof.Machine.execEtr sel a n p s
  | .vaddF d a b q f => Sys2Proof.Machine.execVaddF d a b q f s
  | .vsubF d a b q f => Sys2Proof.Machine.execVsubF d a b q f s
  | .vmulF d a b q f => Sys2Proof.Machine.execVmulF d a b q f s
  | .vfma d a b q f => Sys2Proof.Machine.execVfma d a b q f s
  | .vminF d a b q f => Sys2Proof.Machine.execVminF d a b q f s
  | .vmaxF d a b q f => Sys2Proof.Machine.execVmaxF d a b q f s
  | .vdiv d a b q f => Sys2Proof.Machine.execVdiv d a b q f s
  | .vsqrt d a q f => Sys2Proof.Machine.execVsqrt d a q f s
  | .vaddI d a b q f => Sys2Proof.Machine.execVaddI d a b q f s
  | .vsubI d a b q f => Sys2Proof.Machine.execVsubI d a b q f s
  | .vmulI d a b q f => Sys2Proof.Machine.execVmulI d a b q f s
  | .vminI d a b q f => Sys2Proof.Machine.execVminI d a b q f s
  | .vmaxI d a b q f => Sys2Proof.Machine.execVmaxI d a b q f s
  | .vabsI d a q f => Sys2Proof.Machine.execVabsI d a q f s
  | .vnegI d a q f => Sys2Proof.Machine.execVnegI d a q f s
  | .vand d a b q f => Sys2Proof.Machine.execVand d a b q f s
  | .vor d a b q f => Sys2Proof.Machine.execVor d a b q f s
  | .vxor d a b q f => Sys2Proof.Machine.execVxor d a b q f s
  | .vshl d a b q f => Sys2Proof.Machine.execVshl d a b q f s
  | .vshr d a b q f => Sys2Proof.Machine.execVshr d a b q f s
  | .vsra d a b q f => Sys2Proof.Machine.execVsra d a b q f s
  | .vexp2 d a q f => Sys2Proof.Machine.execVexp2 d a q f s
  | .vlog2 d a q f => Sys2Proof.Machine.execVlog2 d a q f s
  | .vrcp d a q f => Sys2Proof.Machine.execVrcp d a q f s
  | .vrsqrt d a q f => Sys2Proof.Machine.execVrsqrt d a q f s
  | .vtanh d a q f => Sys2Proof.Machine.execVtanh d a q f s
  | .vabsF d a q f => Sys2Proof.Machine.execVabsF d a q f s
  | .vnegF d a q f => Sys2Proof.Machine.execVnegF d a q f s
  | .vcvt d a sel p f => Sys2Proof.Machine.execVcvt d a sel p f s
  | .vwiden d a sel p f => Sys2Proof.Machine.execVwiden d a sel p f s
  | .vnarrow d a sel p f => Sys2Proof.Machine.execVnarrow d a sel p f s
  | .vcmp d a b q c f => Sys2Proof.Machine.execVcmp d a b q c f s
  | .vbound d a b e => Sys2Proof.Machine.execVbound d a b e s
  | .qand d a b => Sys2Proof.Machine.execQand d a b s
  | .qor d a b => Sys2Proof.Machine.execQor d a b s
  | .qxor d a b => Sys2Proof.Machine.execQxor d a b s
  | .qnot d a => Sys2Proof.Machine.execQnot d a s
  | .qcnt d a e => Sys2Proof.Machine.execQcnt d a e s
  | .qfirst d a e => Sys2Proof.Machine.execQfirst d a e s
  | .vmov d a q => Sys2Proof.Machine.execVmov d a q s
  | .vdup d a q e => Sys2Proof.Machine.execVdup d a q e s
  | .vget d a b e => Sys2Proof.Machine.execVget d a b e s
  | .vset d a b e => Sys2Proof.Machine.execVset d a b e s
  | .vsel d a b sel => Sys2Proof.Machine.execVsel d a b sel s
  | .vperm d a b q e => Sys2Proof.Machine.execVperm d a b q e s
  | .vzipLo d a b q e => Sys2Proof.Machine.execVzipLo d a b q e s
  | .vzipHi d a b q e => Sys2Proof.Machine.execVzipHi d a b q e s
  | .vunzipEven d a b q e => Sys2Proof.Machine.execVunzipEven d a b q e s
  | .vunzipOdd d a b q e => Sys2Proof.Machine.execVunzipOdd d a b q e s
  | .vslideUp d a b q e => Sys2Proof.Machine.execVslideUp d a b q e s
  | .vslideDn d a b q e => Sys2Proof.Machine.execVslideDn d a b q e s
  | .vtrnEven d a b q e => Sys2Proof.Machine.execVtrnEven d a b q e s
  | .vtrnOdd d a b q e => Sys2Proof.Machine.execVtrnOdd d a b q e s
  | .vsum d a f q => Sys2Proof.Machine.execVsum d a f q s
  | .vmaxr d a f q => Sys2Proof.Machine.execVmaxr d a f q s
  | .vminr d a f q => Sys2Proof.Machine.execVminr d a f q s
  | .vscan d a f q => Sys2Proof.Machine.execVscan d a f q s
  | .vwidth d e => Sys2Proof.Machine.execVwidth d e s
  | .vldx d a b q z x => Sys2Proof.Machine.execVldx d a b q z x s
  | .vstx d a b q z x => Sys2Proof.Machine.execVstx d a b q z x s
  | .vldw d a b q z x => Sys2Proof.Machine.execVldw d a b q z x s
  | .vstw d a b q z x => Sys2Proof.Machine.execVstw d a b q z x s
  | .vldt d a b q z x => Sys2Proof.Machine.execVldt d a b q z x s
  | .vldtTile d a b q z => Sys2Proof.Machine.execVldtTile d a b q z s
  | .vbind d a k z => Sys2Proof.Machine.execVbind d a k z s
  | .vfree d => Sys2Proof.Machine.execVfree d s
  | .snd a b c p => Sys2Proof.Machine.execSnd a b c p s
  | .sndv a b c h => Sys2Proof.Machine.execSndv a b c h s
  | .sndz a v k f x => Sys2Proof.Machine.execSndz a v k f x s
  | .lbk a => Sys2Proof.Machine.execLbk a s
  | .nmc x sel k r h => Sys2Proof.Machine.execNmc x sel k r h s
  | .ngt x sel k r h => Sys2Proof.Machine.execNgt x sel k r h s
  | .nsc x sel k r h => Sys2Proof.Machine.execNsc x sel k r h s
  | .na2a x sel k r h => Sys2Proof.Machine.execNa2a x sel k r h s
  | .coll d sel k o t => Sys2Proof.Machine.execColl d sel k o t s
  | .ccfg b t => Sys2Proof.Machine.execCcfg b t s
  | .treplay h b => Sys2Proof.Machine.execTreplay h b s
  | .tfree h => Sys2Proof.Machine.execTfree h s
  | .tinfo d h w => Sys2Proof.Machine.execTinfo d h w s
  | .xpostTx b k => Sys2Proof.Machine.execXpostTx b k s
  | .xpostRx b k => Sys2Proof.Machine.execXpostRx b k s
  | .xfetch b k => Sys2Proof.Machine.execXfetch b k s
  | .xpath d e => Sys2Proof.Machine.execXpath d e s
  | .stvMap a k => Sys2Proof.Machine.execStvMap a k s
  | .stvInit a k => Sys2Proof.Machine.execStvInit a k s
  | .stvGate a k => Sys2Proof.Machine.execStvGate a k s
  | .stvSwap a b k => Sys2Proof.Machine.execStvSwap a b k s
  | .stvProb a b k c => Sys2Proof.Machine.execStvProb a b k c s
  | .stvFix a b k c => Sys2Proof.Machine.execStvFix a b k c s
  | .stvNorm a k => Sys2Proof.Machine.execStvNorm a k s
  | .stvAmp a b k => Sys2Proof.Machine.execStvAmp a b k s
  | .crr d c => Sys2Proof.Machine.execCrr d c s
  | .crw a c => Sys2Proof.Machine.execCrw a c s
  | .crs d a c => Sys2Proof.Machine.execCrs d a c s
  | .crc d a c => Sys2Proof.Machine.execCrc d a c s
  | .trap n => Sys2Proof.Machine.execTrap n s
  | .brk n => Sys2Proof.Machine.execBrk n s
  | .eret => Sys2Proof.Machine.execEret s
  | .idle a sel b => Sys2Proof.Machine.execIdle a sel b s
  | .safe n => Sys2Proof.Machine.execSafe n s
  | .halt => Sys2Proof.Machine.execHalt s
  | .tlbi c sel z a => Sys2Proof.Machine.execTlbi c sel z a s
  | .tlbiCtx c sel => Sys2Proof.Machine.execTlbiCtx c sel s
  | .tlbsync sel => Sys2Proof.Machine.execTlbsync sel s
  | .alloy d n => Sys2Proof.Machine.execAlloy d n s
  | .part => Sys2Proof.Machine.execPart s
  | .astat d => Sys2Proof.Machine.execAstat d s
  | .trc a t => Sys2Proof.Machine.execTrc a t s
  | .pcmEn e => Sys2Proof.Machine.execPcmEn e s
  | .pcmDis e => Sys2Proof.Machine.execPcmDis e s
  | .pcmRet => Sys2Proof.Machine.execPcmRet s
  | .add d a b => Sys2Proof.Machine.execAdd d a b s
  | .sub d a b => Sys2Proof.Machine.execSub d a b s
  | .and d a b => Sys2Proof.Machine.execAnd d a b s
  | .or d a b => Sys2Proof.Machine.execOr d a b s
  | .xor d a b => Sys2Proof.Machine.execXor d a b s
  | .andn d a b => Sys2Proof.Machine.execAndn d a b s
  | .orn d a b => Sys2Proof.Machine.execOrn d a b s
  | .sll d a b => Sys2Proof.Machine.execSll d a b s
  | .srl d a b => Sys2Proof.Machine.execSrl d a b s
  | .sra d a b => Sys2Proof.Machine.execSra d a b s
  | .rol d a b => Sys2Proof.Machine.execRol d a b s
  | .ror d a b => Sys2Proof.Machine.execRor d a b s
  | .slt d a b => Sys2Proof.Machine.execSlt d a b s
  | .sltn d a b => Sys2Proof.Machine.execSltn d a b s
  | .min d a b => Sys2Proof.Machine.execMin d a b s
  | .max d a b => Sys2Proof.Machine.execMax d a b s
  | .minn d a b => Sys2Proof.Machine.execMinn d a b s
  | .maxn d a b => Sys2Proof.Machine.execMaxn d a b s
  | .clz d a => Sys2Proof.Machine.execClz d a s
  | .ctz d a => Sys2Proof.Machine.execCtz d a s
  | .pop d a => Sys2Proof.Machine.execPop d a s
  | .sext8 d a => Sys2Proof.Machine.execSext8 d a s
  | .sext16 d a => Sys2Proof.Machine.execSext16 d a s
  | .sext32 d a => Sys2Proof.Machine.execSext32 d a s
  | .zext8 d a => Sys2Proof.Machine.execZext8 d a s
  | .zext16 d a => Sys2Proof.Machine.execZext16 d a s
  | .zext32 d a => Sys2Proof.Machine.execZext32 d a s
  | .bswap d a => Sys2Proof.Machine.execBswap d a s
  | .addi d a imm => Sys2Proof.Machine.execAddi d a imm s
  | .andi d a imm => Sys2Proof.Machine.execAndi d a imm s
  | .ori d a imm => Sys2Proof.Machine.execOri d a imm s
  | .xori d a imm => Sys2Proof.Machine.execXori d a imm s
  | .slli d a h => Sys2Proof.Machine.execSlli d a h s
  | .srli d a h => Sys2Proof.Machine.execSrli d a h s
  | .srai d a h => Sys2Proof.Machine.execSrai d a h s
  | .slti d a imm => Sys2Proof.Machine.execSlti d a imm s
  | .sltni d a imm => Sys2Proof.Machine.execSltni d a imm s
  | .mul d a b => Sys2Proof.Machine.execMul d a b s
  | .mulh d a b => Sys2Proof.Machine.execMulh d a b s
  | .mulhn d a b => Sys2Proof.Machine.execMulhn d a b s
  | .div d a b => Sys2Proof.Machine.execDiv d a b s
  | .divn d a b => Sys2Proof.Machine.execDivn d a b s
  | .rem d a b => Sys2Proof.Machine.execRem d a b s
  | .remn d a b => Sys2Proof.Machine.execRemn d a b s
  | .padd d a b => Sys2Proof.Machine.execPadd d a b s
  | .pset d a b => Sys2Proof.Machine.execPset d a b s
  | .pget d a => Sys2Proof.Machine.execPget d a s
  | .pgeth d a => Sys2Proof.Machine.execPgeth d a s
  | .pdiff d a b => Sys2Proof.Machine.execPdiff d a b s
  | .undefinedWord w => Sys2Proof.Machine.execUndefinedWord w s
  | .invalidate inv => Sys2Proof.Machine.execInvalidate inv s
  | .invalidateAck inv => Sys2Proof.Machine.execInvalidateAck inv s
  | .homePerform req => Sys2Proof.Machine.execHomePerform req s
  | .remoteRequest req => Sys2Proof.Machine.execRemoteRequest req s
  | .remoteReply req => Sys2Proof.Machine.execRemoteReply req s
  | .remoteTimeout req => Sys2Proof.Machine.execRemoteTimeout req s
  | .storeAck req => Sys2Proof.Machine.execStoreAck req s
  | .messageArrival msg => Sys2Proof.Machine.execMessageArrival msg s
  | .messageAck msg => Sys2Proof.Machine.execMessageAck msg s
  | .messageRetry msg => Sys2Proof.Machine.execMessageRetry msg s
  | .messageSelect loc => Sys2Proof.Machine.execMessageSelect loc s
  | .messageAging loc => Sys2Proof.Machine.execMessageAging loc s
  | .hotnessDecay die => Sys2Proof.Machine.execHotnessDecay die s
  | .hotcfgClr die => Sys2Proof.Machine.execHotcfgClr die s
  | .hotcfgClearDone die => Sys2Proof.Machine.execHotcfgClearDone die s
  | .migStart die slot => Sys2Proof.Machine.execMigStart die slot s
  | .migCommit die slot => Sys2Proof.Machine.execMigCommit die slot s
  | .migRelease die slot => Sys2Proof.Machine.execMigRelease die slot s
  | .migAbort die slot => Sys2Proof.Machine.execMigAbort die slot s
  | .migGranuleCopied die slot => Sys2Proof.Machine.execMigGranuleCopied die slot s
  | .migCopyError die slot unreachable => Sys2Proof.Machine.execMigCopyError die slot unreachable s
  | .parkcfgApply cl => Sys2Proof.Machine.execParkcfgApply cl s
  | .exbWrite loc value => Sys2Proof.Machine.execExbWrite loc value s
  | .ctxalwWrite loc value => Sys2Proof.Machine.execCtxalwWrite loc value s
  | .epcfgWrite die loc value => Sys2Proof.Machine.execEpcfgWrite die loc value s
  | .engineCompletion cmd => Sys2Proof.Machine.execEngineCompletion cmd s
  | .barrierArrival cmd => Sys2Proof.Machine.execBarrierArrival cmd s
  | .tileFillComplete cmd => Sys2Proof.Machine.execTileFillComplete cmd s
  | .tileDrainComplete cmd => Sys2Proof.Machine.execTileDrainComplete cmd s
  | .tswapExchange cmd => Sys2Proof.Machine.execTswapExchange cmd s
  | .tswapTimeout cmd => Sys2Proof.Machine.execTswapTimeout cmd s
  | .preemptRequest loc slot => Sys2Proof.Machine.execPreemptRequest loc slot s
  | .forcedStop loc slot => Sys2Proof.Machine.execForcedStop loc slot s
  | .parkres loc park => Sys2Proof.Machine.execParkres loc park s
  | .slotctlResume loc slot => Sys2Proof.Machine.execSlotctlResume loc slot s
  | .slotctlDiscard loc slot => Sys2Proof.Machine.execSlotctlDiscard loc slot s
  | .ibxpop loc => Sys2Proof.Machine.execIbxpop loc s
  | .ibxEnd loc => Sys2Proof.Machine.execIbxEnd loc s
  | .launch die => Sys2Proof.Machine.execLaunch die s
  | .launchDistribute die => Sys2Proof.Machine.execLaunchDistribute die s
  | .heldLaunchReread die => Sys2Proof.Machine.execHeldLaunchReread die s
  | .freeSlotPublish die => Sys2Proof.Machine.execFreeSlotPublish die s
  | .teamMigration die target team rank => Sys2Proof.Machine.execTeamMigration die target team rank s
  | .alloyFormed loc slot => Sys2Proof.Machine.execAlloyFormed loc slot s
  | .alloyTimeout loc slot => Sys2Proof.Machine.execAlloyTimeout loc slot s
  | .alloyMemberFree loc => Sys2Proof.Machine.execAlloyMemberFree loc s
  | .streamChunkArrival loc slot reg => Sys2Proof.Machine.execStreamChunkArrival loc slot reg s
  | .dispatchServe cl unit => Sys2Proof.Machine.execDispatchServe cl unit s
  | .mxSendArrival cmd => Sys2Proof.Machine.execMxSendArrival cmd s
  | .swageCommandStart cmd => Sys2Proof.Machine.execSwageCommandStart cmd s
  | .collContribution cmd => Sys2Proof.Machine.execCollContribution cmd s
  | .collTimeout cmd => Sys2Proof.Machine.execCollTimeout cmd s
  | .sndzArrival cmd => Sys2Proof.Machine.execSndzArrival cmd s
  | .ethPacketArrival die msg get key roff len off data => Sys2Proof.Machine.execEthPacketArrival die msg get key roff len off data s
  | .ethTimeout cmd => Sys2Proof.Machine.execEthTimeout cmd s
  | .hostBar0Write module off data => Sys2Proof.Machine.execHostBar0Write module off data s
  | .flitReceive module port seq rest good => Sys2Proof.Machine.execFlitReceive module port seq rest good s
  | .nakReceive module port seq => Sys2Proof.Machine.execNakReceive module port seq s
  | .ackTimeout module port => Sys2Proof.Machine.execAckTimeout module port s
  | .laneFailure module port lane => Sys2Proof.Machine.execLaneFailure module port lane s
  | .retrainComplete module port => Sys2Proof.Machine.execRetrainComplete module port s
  | .declaredUnreachable module => Sys2Proof.Machine.execDeclaredUnreachable module s
  | .moduleRejoin module => Sys2Proof.Machine.execModuleRejoin module s
  | .heaterRetune module port lane saturated => Sys2Proof.Machine.execHeaterRetune module port lane saturated s
  | .spareTuned module port => Sys2Proof.Machine.execSpareTuned module port s
  | .ocsAnnounce module port => Sys2Proof.Machine.execOcsAnnounce module port s
  | .ocsQuiesced module port => Sys2Proof.Machine.execOcsQuiesced module port s
  | .ocsRelock module port => Sys2Proof.Machine.execOcsRelock module port s
  | .ocsTableSwap module port => Sys2Proof.Machine.execOcsTableSwap module port s
  | .ocsDarkTimeout module port => Sys2Proof.Machine.execOcsDarkTimeout module port s
  | .assign module => Sys2Proof.Machine.execAssign module s
  | .retire module => Sys2Proof.Machine.execRetire module s
  | .switch module => Sys2Proof.Machine.execSwitch module s
  | .quote module => Sys2Proof.Machine.execQuote module s
  | .health module => Sys2Proof.Machine.execHealth module s
  | .moduleReset module => Sys2Proof.Machine.execModuleReset module s
  | .sramScrub die => Sys2Proof.Machine.execSramScrub die s
  | .hbmPatrolScrub die => Sys2Proof.Machine.execHbmPatrolScrub die s
  | .registerParityError loc slot hard => Sys2Proof.Machine.execRegisterParityError loc slot hard s
  | .unitFailure loc kind => Sys2Proof.Machine.execUnitFailure loc kind s
  | .acctBoundary die => Sys2Proof.Machine.execAcctBoundary die s
  | .traceSample cl => Sys2Proof.Machine.execTraceSample cl s
  | .trcptrWrite cl => Sys2Proof.Machine.execTrcptrWrite cl s
  | .idleRecheck loc slot => Sys2Proof.Machine.execIdleRecheck loc slot s
  | .registerWrite loc user pa value => Sys2Proof.Machine.execRegisterWrite loc user pa value s
  | .keptCopyDropped loc => Sys2Proof.Machine.execKeptCopyDropped loc s
  | .hbmChannelRetired die chan => Sys2Proof.Machine.execHbmChannelRetired die chan s

end Sys2Proof.Machine
end

