-- ==== Sys2Proof/Machine/Fetch.lean ====
section
/-! DEFINITION. What moves next (log 1): the turns laid down, the steps that have come about, the steps that the state makes due,
and the slots that issue in turn (R157); how a thread fetches and what is checked before it issues (R54, R203, R435); and the steps
that fall due by time. -/

namespace Sys2Proof.Machine

/-- What a step of the machine does: a row of the opcode table runs as a step of another agent, a thread issues an instruction, one of
the unit enters its queue, or the state is reached without one (a trap before issue, a turn of a thread that cannot issue, time that
passes). -/
inductive Action where
  | run (i : Instr) (s : State)
  | issue (i : Instr) (s : State)
  | queue (i : Instr) (s : State)
  | done (s : State)
deriving DecidableEq, Repr

/-! ### Issue -/

/-- A thread that issues: it runs, forms no alloy, and its core is there and out of reset (R157, R394, R417, R425). -/
def State.canIssue (s : State) (l : Loc) (k : Nat) : Bool :=
  let t := s.threadAt l k
  t.st = .running && t.forming.isNone && k < 5 && locKind l = 0 && s.coreThere l && (s.module (locModule l)).bootFail ≠ 1

/-- The state in which a thread takes its turn. -/
def State.turnOf (s : State) (l : Loc) (k : Nat) : State :=
  { s with cur := .slot l k, ops := none }.mapCore l fun c => { c with lastSlot := k }

/-- R435: the exemption from the PC-match table is for one issue. -/
def State.spendExempt (s : State) : State := s.mapThr fun t => { t with exempt := false }

/-- R245, R435: what stops a thread before it issues waits while the unit still holds instructions of it, and is found again. -/
def State.stopTurn (s t : State) : Action := .done (if (s.queuedUnits s.thr.uid).isEmpty then t else s)

/-- R54, R177, R262, R381, R395, R435, R423, R203: a thread's turn: a forced stop that is due is taken before it issues; a PC at or beyond EXB of the core it fetches from traps OVERLAY, a match of the
PC-match table acts, a word that cannot be read traps ACCESS (log 94), else the word at the PC issues, or waits for the unit (R245). An
instruction that has issued and stalls goes on without any of these (R56). -/
noncomputable def State.issue (s : State) (l : Loc) (k : Nat) : Action :=
  if !(s.canIssue l k) then .done s
  else if (s.forcedStopDue l k).isSome then .run (Event.forcedStop l k).instr s
  else
    let s := s.turnOf l k
    let pc := s.pc
    let at_ := s.fetchLoc l k pc.toNat
    let pa := sp1Pa at_ pc.toNat
    if (s.thr.issuedAt pc).isSome then .issue (instrOfWord s.word) s.spendExempt
    else if (s.core at_).exb.toNat ≤ pc.toNat then s.stopTurn (s.spendExempt.takeTrap l k (trapInfo 0x08 0 (pc.zeroExtend 80)))
    else match s.pcMatch l k with
      | some (i, e) => s.stopTurn (s.actOnMatch l k i e)
      | none =>
        if s.eccBad pa 4 then s.stopTurn ((s.eccFail pa 4).spendExempt.takeTrap l k (trapInfo 0x09 0x10 (pc.zeroExtend 80)))
        else
          let i := instrOfWord s.word
          let s := (s.eccCorrect pa 4).spendExempt
          if s.awaitsUnit i then .done s.unissued
          else if s.queues i then .queue i s
          else .issue i s

/-! ### Stores that have not performed (R354, R110; log 80) -/

/-- R269: the stores that a thread may have outstanding. -/
def storesOutstanding : Nat := 32

/-- A store of the moving thread ran with its writes held back, wrote memory of its own module, and did not end in a trap or a stall: it has
completed for the thread, and its writes stand behind the earlier ones. -/
def State.late (s t : State) : Option State :=
  match t.thr.defer with
  | some (w :: more) =>
    if t.thr.st = .running && t.thr.uid = s.thr.uid && t.pc ≠ s.pc && t.thr.status = s.thr.status then
      some (t.mapThr fun x => { x with buffer := x.buffer ++ [w :: more], defer := none })
    else none
  | _ => none

/-- A plain store of the moving thread issues: whether it performs at once is the part's choice, while fewer than 32 are outstanding
(R269; log 80). One that does comes after those that have not. -/
def State.store (s : State) (run : State → Out) : Out :=
  let (n, s) := s.choose 2
  let now := run (s.drain s.loc s.slotNo)
  if n = 1 && s.thr.buffer.length < storesOutstanding then
    match run (s.mapThr fun t => { t with defer := some [] }) with
    | .next t => match s.late t with
      | some t => .next t
      | none => now
    | _ => now
  else now

/-- R130: a `gbar` orders its thread's stores on path C alone: whether they have performed at their homes by then, is the part's to say. -/
def State.orderStores (s : State) (i : Instr) : State :=
  match i with
  | .gbar _ =>
    if s.thr.buffer.isEmpty then s
    else
      let (n, s) := s.choose 2
      if n = 1 then s.release s.loc s.slotNo else s.drain s.loc s.slotNo
  | i => if s.passes i then s else s.drain s.loc s.slotNo

/-- R130: an instruction that issues while stores that a `gbar` has ordered have not performed: of path C it makes no access, or a plain load, for
which stores to the same bytes perform first, or the arrival and the latch of a block that any thread's do. -/
def leavesReleased : Instr → Bool
  | .amoAdd _ _ _ _ _ => false
  | .amoAnd _ _ _ _ _ => false
  | .amoOr _ _ _ _ _ => false
  | .amoXor _ _ _ _ _ => false
  | .amoMin _ _ _ _ _ => false
  | .amoMax _ _ _ _ _ => false
  | .amoMinn _ _ _ _ _ => false
  | .amoMaxn _ _ _ _ _ => false
  | .amoSwap _ _ _ _ _ => false
  | .cas _ _ _ _ _ => false
  | .famoAdd _ _ _ _ _ => false
  | .cas2 _ _ _ _ => false
  | i => passesStores i

/-- An instruction of the moving thread issues: its earlier stores perform first, but for one that need not wait for them, and so do those that a
`gbar` has ordered. -/
def State.afterStores (s : State) (i : Instr) (run : State → Out) : Out :=
  let s := if leavesReleased i && !(bit (s.thr.cp.get 3) 31) then s else s.performReleased
  if plainStore i then s.store run else run (s.orderStores i)

/-- The moving thread has stopped, trapped, changed mode or alloy, or its task has ended or parked. -/
def State.leaves (s t : State) : Bool :=
  let a := s.thr
  let b := t.threadAt s.loc s.slotNo
  b.st ≠ .running || b.uid ≠ a.uid || b.alloy ≠ a.alloy || b.forming.isSome || bits b.status 3 2 ≠ bits a.status 3 2

/-- What an instruction leaves: one at which its thread would leave waits while the unit still holds instructions of it (R204, R245; log
90). -/
def State.settle (s : State) : Out → Out
  | .next t => if !(s.queuedUnits s.thr.uid).isEmpty && s.leaves t then .next s.unissued else .next t
  | o => o

/-! ### Which thread issues -/

/-- R157: the slot of a core that issues next: the first running one after the slot that issued last. -/
def State.nextSlot (s : State) (l : Loc) : Option Nat :=
  (List.range 5).findSome? fun i =>
    let k := ((s.core l).lastSlot + 1 + i) % 5
    if s.canIssue l k then some k else none

/-- The listed cores in the order of their turns: the turn passes from one to the next every 2 ck. -/
def State.coresInTurn (s : State) : List Loc :=
  let n := s.now / 2 % max 1 s.cores.length
  (s.cores.drop n ++ s.cores.take n).map (·.1)

/-- Log 1: the thread that issues next, and the state after the choice: in every other ck that of the core whose turn it is, or of the next that
has one; in the others the core is free. -/
def State.nextIssue (s : State) : Option (Loc × Nat × State) :=
  match s.coresInTurn.filterMap fun l => (s.nextSlot l).map fun k => (l, k) with
  | [] => none
  | first :: rest =>
    if s.now % 2 = 0 then some (first.1, first.2, s)
    else
      let (n, s) := s.choose (rest.length + 1)
      let e := (first :: rest).getD n first
      some (e.1, e.2, s)

/-! ### Steps that the state makes due -/

/-- R82: TMO has passed since a moment. -/
def State.expired (s : State) (l : Loc) (since : Nat) : Bool :=
  decide (since + bits (s.cluster (locClusterKey l)).remcfg 31 16 * 2500 ≤ s.now)

/-- R349: the first contribution to the tree of a collective. -/
def State.firstColl (s : State) (c : Cmd) (t : Nat) : Nat :=
  (s.collWaiting (teamOf c.gtid) t (rankOf c.gtid)).foldl (fun n x => min n x.since) c.since

/-- R82, R296, R327, R349, R350: the timeout of a command. -/
def State.cmdTimeout (s : State) (c : Cmd) : Option Event :=
  if c.performed then none
  else match c.kind with
    | .tswap _ _ _ => if s.expired c.loc c.since then some (.tswapTimeout c.id) else none
    | .mxSend _ _ _ _ _ => if s.expired c.loc c.since then some (.remoteTimeout c.id) else none
    | .ethPut _ _ _ _ _ _ _ => if s.expired c.loc c.since then some (.ethTimeout c.id) else none
    | .ethGet _ _ _ _ _ _ _ => if s.expired c.loc c.since then some (.ethTimeout c.id) else none
    | .coll _ t _ _ =>
      if s.expired c.loc (s.firstColl c t) && s.collDisagrees (teamOf c.gtid) t (rankOf c.gtid) then some (.collTimeout c.id) else none
    | _ => none

/-- R82: the timeout of a request that has not performed. A `gbar` whose arrival its home has taken has performed, and does not time out while
the home holds its reply (log 102: DESIGN CHOICE). -/
def State.reqTimeout (s : State) (r : Req) : Option Event :=
  if r.sent && !r.performed && s.expired r.loc r.since then some (.remoteTimeout r.id) else none

/-- What a slot makes due: a forced stop (R177). -/
def State.slotDue (s : State) (l : Loc) (k : Nat) : Option Event :=
  if (s.forcedStopDue l k).isSome then some (.forcedStop l k) else none

/-- R394: what becomes in this ck of the alloy that a slot forms: its group is free, or has not fallen free within LIMIT. -/
def State.formationDue (s : State) (l : Loc) (k : Nat) : Option Event :=
  match (s.threadAt l k).forming with
  | some f =>
    if s.groupFree l k f.size then some (.alloyFormed l k)
    else if f.since + (s.core l).altmo.toNat ≤ s.now then some (.alloyTimeout l k) else none
  | none => none

/-- R394: the alloys that form or expire in this ck do so before anything else moves. -/
def State.formations (s : State) : State :=
  let l := s.cores.flatMap fun e => ((List.range 5).filterMap fun k => s.formationDue e.1 k).map .event
  { s with turns := s.turns ++ l.filter fun t => !(s.turns.contains t) }

/-- R410: the launch that a dispatcher has selected waits for a read of its descriptor. -/
def State.launchWaits (s : State) (dk : Nat) : Bool :=
  match (launchM dk).run s with
  | .error .stall _ => true
  | _ => false

/-- What a listed core makes due: a message for a free slot (R159), before it ages (log 86), a launch at a dispatcher (R167), aging (R160), or what a slot
does. -/
def State.coreDue (s : State) (l : Loc) (c : Core) : Option Event :=
  if (s.module (locModule l)).bootFail = 1 then none
  else if locKind l = 1 then
    match c.pick with
    | none => none
    | some m =>
      if !(isLaunch l m) then some (.messageSelect l)
      else if !(s.launchWaits (locDieKey l)) then some (.launch (locDieKey l))
      else if c.inbox.any fun m => m.age < ageSteps s.now m then some (.messageAging l) else none
  else if (s.selectSlot l).isSome then some (.messageSelect l)
  else if c.inbox.any fun m => m.age < ageSteps s.now m then some (.messageAging l)
  else (List.range 5).findSome? fun k => s.slotDue l k

/-- R67: a write of PARKCFG that waits for its slots. -/
def Cluster.parkDue (c : Cluster) : Bool := c.parkPend.isSome && c.parked.isEmpty

/-- R405, R410: what a module's links make due. -/
def State.moduleDue (s : State) (m : Nat) (x : Module) : Option Event :=
  x.links.findSome? fun e =>
    if e.2.darkDue s.now then some (.ocsDarkTimeout m e.1)
    else if e.2.ackDue s.now then some (.ackTimeout m e.1) else none

/-- Log 1: the first step that the state makes due. -/
def State.due (s : State) : Option Event :=
  (s.cores.findSome? fun e => s.coreDue e.1 e.2).or <|
  (s.clusters.findSome? fun e => if e.2.parkDue then some (.parkcfgApply e.1) else none).or <|
  s.declaration.or <|
  (s.modules.findSome? fun e => s.moduleDue e.1 e.2).or <|
  (s.cmds.findSome? s.cmdTimeout).or <|
  (s.reqs.findSome? s.reqTimeout).or <|
  s.kept.findSome? fun k => if k.since + keptTime ≤ s.now then some (.keptCopyDropped k.loc) else none

/-! ### Steps that fall due by time -/

/-- Module time stands at a multiple of a period. -/
def State.every (s : State) (n : Nat) : Bool := n ≠ 0 && s.now % n = 0

def stepsIf (b : Bool) (l : List Event) : List Event := if b then l else []

/-- The step that a command which waits is tried at again. -/
def Cmd.retry (c : Cmd) : List Event :=
  if c.performed then stepsIf (c.barrier.isSome && c.fault.isNone) [.barrierArrival c.id]
  else match c.kind with
    | .copy _ _ => [.engineCompletion c.id]
    | .fill _ _ => [.engineCompletion c.id]
    | .rows _ _ _ => [.engineCompletion c.id]
    | .scat _ _ _ => [.engineCompletion c.id]
    | .tfill _ _ _ _ _ => [.tileFillComplete c.id]
    | .tdrain _ _ _ _ _ => [.tileDrainComplete c.id]
    | .tswap _ _ _ => [.tswapExchange c.id]
    | .mxSend _ _ _ _ _ => [.mxSendArrival c.id]
    | .sndz _ _ _ _ => [.sndzArrival c.id]
    | .transfer _ _ _ _ _ => [.engineCompletion c.id]
    | .coll _ _ _ _ => [.collContribution c.id]
    | .treplay _ _ _ _ _ _ => [.engineCompletion c.id]
    | .ethPut _ _ _ _ _ _ _ => [.engineCompletion c.id]
    | .ethRecv _ _ _ _ _ => [.engineCompletion c.id]
    | .ethGet _ _ _ _ _ _ _ => [.engineCompletion c.id]
    | .stvMap => [.swageCommandStart c.id]
    | .stvInit _ => [.swageCommandStart c.id]
    | .stvGate _ _ _ => [.swageCommandStart c.id]
    | .stvSwap _ _ => [.swageCommandStart c.id]
    | .stvProb _ _ _ => [.swageCommandStart c.id]
    | .stvFix _ _ _ => [.swageCommandStart c.id]
    | .stvNorm _ => [.swageCommandStart c.id]
    | .stvAmp _ _ => [.swageCommandStart c.id]
    | _ => []

/-- R22, R420: a request of the mailbox that waits for accesses in flight. -/
def Module.retry (m : Nat) (x : Module) : List Event :=
  if x.mbstat ≠ 2 then []
  else match bits (x.mbTaken.getD 0 0) 7 0 with
    | 1 => [.assign m]
    | 2 => [.retire m]
    | 3 => [.switch m]
    | _ => []

/-- What waits for others is tried again every 256 ck (log 1): commands, dispatch queues, streams, acknowledgements, requests not sent,
inboxes that leave a redirection, the mailbox. A step that is still to come is not laid down again (R128). -/
def State.retries (s : State) : List Event :=
  let all := s.cmds.flatMap Cmd.retry ++
  s.clusters.flatMap (fun e => (List.range 4).flatMap fun u => stepsIf (s.nextQueue e.1 u).isSome [.dispatchServe e.1 u]) ++
  s.cores.flatMap (fun e => (List.range 5).flatMap fun k => (e.2.thread k).streams.map fun x => .streamChunkArrival e.1 k x.reg) ++
  (s.invals.filter (·.dropped)).map (fun i => .invalidateAck i.id) ++
  (s.reqs.filter fun r => !r.sent && !(s.msgs.any fun m => m.req = some r.id)).map (fun r => .remoteRequest r.id) ++
  ((s.reqs.filter fun r => r.sent && !r.performed && !(s.msgs.any fun m => m.req = some r.id)).map fun r => .homePerform r.id) ++
  (s.dies.flatMap fun e => (List.range 8).flatMap fun n => stepsIf (migPhase (e.2.slotOf n) = 1) [.migGranuleCopied e.1 n]) ++
  (s.cores.filter fun e => e.2.redirect.any (·.leaving)).map (fun e => .alloyMemberFree e.1) ++
  s.modules.flatMap (fun e => Module.retry e.1 e.2) ++
  (s.dies.filter fun e => !(e.2.launches.isEmpty)).map fun e => .heldLaunchReread e.1
  all.eraseDups.filter fun e => !(s.pending.contains e)

/-- The ranks with a task parked on a die or a message at one of its cores. -/
def State.dieRanks (s : State) (dk : Nat) : List (BitVec 32 × BitVec 20) :=
  let messages := (s.listedCores dk).flatMap fun e => e.2.inbox.map (·.gtid)
  let parked := (s.clusters.filter fun e => e.1 / 64 = dk).flatMap fun e => e.2.parked.map fun p => (s.parkedThread e.1 p.slot).gtid
  ((messages ++ parked).filter fun g => teamOf g ≠ 0).map fun g => (teamOf g, rankOf g)

/-- R172, R173: what a dispatcher does every 10 µs: it publishes its count and, overloaded, moves a rank to another die; which, is
the part's choice (log 18). -/
def State.dispatcherSteps (s : State) (dk : Nat) : List Event × State :=
  let ranks := s.dieRanks dk
  if s.overloaded dk && !ranks.isEmpty then
    let (i, s) := s.choose ranks.length
    let (d, s) := s.choose 12
    let r := ranks.getD i (0, 0)
    ([.freeSlotPublish dk, .teamMigration dk (dk / 16 * 16 + d) r.1.toNat r.2.toNat], s)
  else ([.freeSlotPublish dk], s)

/-- What a die's clock brings about: decay of its hotness table (R91). -/
def State.dieSteps (s : State) (dk : Nat) (d : Die) : List Event :=
  stepsIf (bits d.hotcfg 47 44 ≠ 0 && s.every (2500000 * 2 ^ (bits d.hotcfg 47 44 - 1))) [.hotnessDecay dk]

/-- R423: scrubs of the dies where errors stand. -/
def State.scrubSteps (s : State) : List Event :=
  let dies := (s.errs.map fun e => paDieKey e.1).eraseDups
  let soft := (s.softs.filterMap fun e => e.1.scrubbed).eraseDups
  stepsIf (s.every 25000000) ((dies ++ soft).eraseDups.map .sramScrub) ++ stepsIf (s.every 216000000000000) (dies.map .hbmPatrolScrub)

/-- R82, R410: a link of the domain is in an announced reconfiguration. -/
def State.reconfiguring (s : State) : Bool := s.modules.any fun e => e.2.links.any fun x => x.2.ocs ≠ 0

/-- R82, R410: TMO stands still for what waits for a reply over a paused route. -/
def State.pauseTmo (s : State) : State :=
  if !s.reconfiguring then s
  else
    let away := fun (c : Cmd) => match c.kind with
      | .mxSend target _ _ _ _ => s.routeFrozen (locModule c.loc) (locModule target)
      | .coll _ t _ _ => s.clusters.any fun e => s.routeFrozen (locModule c.loc) (e.1 / 2 ^ 10) &&
          e.2.trees.any fun x => (s.treeAt (teamOf c.gtid) t (rankOf c.gtid)).contains x
      | _ => false
    { s with
      reqs := s.reqs.map fun r => if r.sent && !r.performed && s.requestHeld r then { r with since := r.since + 1 } else r
      cmds := s.cmds.map fun c => if !c.performed && away c then { c with since := c.since + 1 } else c }

/-- R428: at a boundary of the assay interval every die reads its counts in the same ck. -/
def State.boundaries (s : State) : State :=
  (s.dies.filter fun e => bit e.2.acctcfg 63 && s.every (bits e.2.acctcfg 41 32 * 2500)).foldl (fun s e => s.acctBoundary e.1) s

/-- Stores that have waited perform (log 80), acknowledgements come back on the links (R405), and triggers whose words stalled are tried
again (R281). -/
def State.settleAll (s : State) : State :=
  let s := s.syncLinks.drainAll fun _ => true
  s.cores.foldl (fun s e => s.fireCore e.1) s

/-- R414, R420: the host makes its next write in BAR 2. -/
def State.hostTurn (s : State) : State :=
  match s.host with
  | [] => s
  | (m, o, w) :: rest => { s with host := rest }.writeMailbox m o w

/-- Log 1: time passes by one ck, and what falls due by it is laid down. No trial of a command outlives the step it is made in (R116). -/
def State.tick (s : State) : State :=
  let s := { s.hostTurn with now := s.now + 1 }.pauseTmo.countStalls.boundaries
  let s := if s.every 256 then s.settleAll else s
  let more := s.dies.flatMap (fun e => s.dieSteps e.1 e.2) ++
    s.clusters.flatMap (fun e => stepsIf (bits e.2.trccfg 61 57 ≠ 0 && s.every (2 ^ bits e.2.trccfg 61 57)) [.traceSample e.1]) ++
    stepsIf (s.every 256) s.retries ++
    stepsIf (s.every 2500) (((s.msgs.filter (·.held)).map fun m => .messageRetry m.id).filter fun e => !(s.pending.contains e)) ++ s.scrubSteps
  let s := { s with pending := s.pending ++ more }
  let s := if s.every 25000 then
    s.dies.foldl (fun s e => let (l, s) := s.dispatcherSteps e.1; { s with pending := s.pending ++ l }) s
  else s
  { s with watch := none }.formations

/-- R128: how many steps may be put back behind others. -/
def putBackLimit : Nat := 64

/-! ### The next action -/

/-- R123: the work of a command that others may overtake. -/
def Event.movable : Event → Bool
  | .engineCompletion _ => true
  | .tileFillComplete _ => true
  | .tileDrainComplete _ => true
  | .sndzArrival _ => true
  | .streamChunkArrival _ _ _ => true
  | _ => false

/-- Log 1: the first of the steps that have come about, or a thread that may issue, or, where an engine's work is first, the steps behind it:
which comes first is free in the first half of every 256 ck, while few steps wait. In the second half it is the step, so that each is made within a bounded time
(R128). -/
noncomputable def State.pendingOr (s : State) (e : Event) (rest : List Event) : Action :=
  let run := fun (s : State) => Action.run e.instr { s with pending := rest }
  if 128 ≤ s.now % 256 then run s
  else
    let (n, s) := s.choose 3
    if n = 0 then run s
    else if n = 1 && e.movable && !rest.isEmpty && rest.length < putBackLimit then .done { s with pending := rest ++ [e] }
    else match s.nextIssue with
      | none => run s
      | some (l, k, s) => s.issue l k

/-- Log 1: what a step does without a step of another agent. -/
noncomputable def State.issueOr (s : State) : Action :=
  match s.nextIssue with
  | some (l, k, s) => s.issue l k
  | none => .done s

/-- Log 1: what a step does. What the state makes due comes after what has come about, but first in every 64th ck (R128). -/
noncomputable def nextAction (s : State) : Action :=
  match s.turns with
  | .issue l k :: rest => { s with turns := rest }.issue l k
  | .event e :: rest => .run e.instr { s with turns := rest }
  | [] =>
    match s.pending, s.due with
    | e :: rest, some d => if s.now % 64 = 0 then .run d.instr s else s.pendingOr e rest
    | e :: rest, none => s.pendingOr e rest
    | [], some d => .run d.instr s
    | [], none => s.issueOr

/-- Time passes after what a step does. -/
def ticked : Out → Out
  | .next s => .next s.tick
  | o => o

end Sys2Proof.Machine
end

