-- ==== Sys2Proof/Machine/Step.lean ====
section
/-! DEFINITION. One step of the machine, and the state in which a given word is the next instruction. -/

namespace Sys2Proof.Machine

/-- One step (log 1): the next action runs, then time passes. -/
noncomputable def step (s : State) : Host.Outcome State Fault Refusal :=
  match nextAction s with
  | .done s => .next s.tick
  | .run i s => ticked (exec i s)
  | .queue i s => ticked (s.queueUnit i)
  | .issue i s => ticked (s.settle (s.throughQueue i fun s => s.afterStores i (exec i)))

/-- A program placed from outside (R216, R217, R56; log 16): the word stands at the PC of slot 0 of the chosen core, below EXB,
the slot runs, and its turn is next. -/
def State.withFetchWord (s : State) (nbits w : Nat) : State :=
  let l := s.focus
  let t := s.threadAt l 0
  let pc := t.pc.toNat
  let s := s.setThreadAt l 0
    { t with st := .running, forming := none, exempt := true, uid := if t.st = .free then s.nextId else t.uid }
  let s := s.mapCore l fun c => { c with exb := if c.exb.toNat ≤ pc then BitVec.ofNat 64 ((pc / 64 + 1) * 64) else c.exb }
  let s := s.writeBytes clearKey (sp1Pa (s.fetchLoc l 0 pc) pc) (wordBytes (BitVec.ofNat 32 (w % 2 ^ nbits)))
  { s with turns := .issue l 0 :: s.turns, nextId := s.nextId + 1 }

end Sys2Proof.Machine
end

