-- ==== Sys2Proof/Safety.lean ====
section
/-! DEFINITION. What a well-kept state of the machine is, and the words that the claims use: a thread that issues, an access that
completes at once, a command as it is accepted, what an instruction leaves as it was. -/

namespace Sys2Proof.Machine

/-! ### Invariants -/

/-- R201: a PC names a word of SP1, and so do the one that a shadow handler returns to (R389) and the one that a stop takes a
thread to whose alloy forms (R393). -/
def Thread.pcAligned (t : Thread) : Bool :=
  t.pc.toNat % 4 = 0 && t.shdPc.toNat % 4 = 0 && t.forming.all fun f => f.pc.toNat % 4 = 0

/-- R52: EXB holds a boundary from 0 to 0x1_0000 in steps of 64. -/
def Core.exbLegal (c : Core) : Bool := c.exb.toNat % 64 = 0 && decide (c.exb.toNat ≤ 0x10000)

/-- R379: EVEC and OVLV name words of SP1. -/
def Core.vectorsAligned (c : Core) : Bool := c.evec.toNat % 4 = 0 && c.ovlv.toNat % 4 = 0

/-- Keys strictly rising. -/
def SMap.rising {α : Type} : Nat → SMap α → Bool
  | _, [] => true
  | lo, (k, _) :: rest => decide (lo ≤ k) && SMap.rising (k + 1) rest

/-- A state that the step keeps as it is laid out: memory in its canonical form, no trial of a command under way (R116), units listed
in order, code boundaries legal. -/
def State.Inv (s : State) : Bool :=
  Memory.wf s.mem && s.watch.isNone && SMap.rising 0 s.cores && SMap.rising 0 s.clusters && SMap.rising 0 s.dies && SMap.rising 0 s.modules &&
  s.cores.all fun e => e.2.exbLegal && e.2.vectorsAligned && e.2.threads.toList.all Thread.pcAligned

/-- An instruction or step has a next state. -/
def completes (i : Instr) (s : State) : Prop := ∃ t, exec i s = .next t

/-! ### The thread that issues -/

/-- The moving thread issues the instruction itself, from a slot of a core; no trigger fires (R281). -/
def State.issuing (s : State) : Prop := ∃ l k, s.cur = .slot l k ∧ k < 5 ∧ s.ops = none

/-- The moving thread comes fresh to an instruction: it has made no request for it and sent no piece of it (R68, R86), its stores are not
held back (log 80), and no `xfence` holds anything of its back (R115). -/
def State.settled (s : State) : Prop :=
  s.issuing ∧ s.thr.waits = [] ∧ s.thr.sent = 0 ∧ s.thr.sentHere = 0 ∧ s.thr.issued = none ∧ s.thr.defer = none ∧ s.thr.xedges = []

/-- R261: no register is bound to a stream. -/
def State.unbound (s : State) : Prop := s.thr.streams = []

/-- R104: plain accesses of `n` bytes at an address do not trap for their alignment. -/
def State.aligned (s : State) (va : Ptr) (n : Nat) : Prop := va.toNat % n = 0 ∨ bit s.thr.ctxcfg 0 = false

/-- R116: no message of the thread that a scope waits for is still on its way to an inbox. -/
def State.sendsDone (s : State) (scope : BitVec 3) : Prop :=
  scope ≠ 0 → ∀ m ∈ s.unsent s.thr.uid, locInScope s.loc scope.toNat m.target = false

/-- R88: the posted stores and sends of the thread are acknowledged, and none of them has failed. -/
def State.storesDone (s : State) : Prop :=
  s.posted s.thr.uid = [] ∧ ∀ f ∈ s.cl.fails, f.torig ≠ s.thr.torig ∨ f.tser ≠ s.thr.tser

/-- R271, R113, R88: nothing that an ordered store of a scope waits for is outstanding. -/
def State.ordered (s : State) (scope : BitVec 3) : Prop := (4 ≤ scope.toNat → s.storesDone) ∧ s.sendsDone scope

/-- R206, R7, R52, R186, R391: what a control register that held `old` holds after a write of `v`: reserved bits zero, flags clear
where a 1 is written, read-only registers as they were. -/
def ctrlTakes (n : Nat) (old v : Word) : Word :=
  if n = 0x00 then (v &&& 0xFFFFFF07) ||| (old &&& 8)
  else if n = 0x01 then v &&& 0xFFFF00000000FFFC
  else if n = 0x02 then v &&& 0xFF07FFFF
  else if n = 0x03 ∨ n = 0x0C ∨ n = 0x11 ∨ n = 0x12 then v
  else if n = 0x04 ∨ n = 0x05 then v &&& 0xFFFC
  else if n = 0x06 then BitVec.ofNat 64 (min 0x10000 (v.toNat / 64 % 2 ^ 11 * 64))
  else if n = 0x07 then v &&& 0xF000
  else if n = 0x08 then v &&& 0xFFFF
  else if n = 0x09 then v &&& 1
  else if n = 0x0F ∨ n = 0x29 then v &&& 0xFFFFFFFF
  else if n = 0x10 then (if 5 ≤ bits v 18 16 then v &&& 0x181F1F else v &&& 0x1F1F1F)
  else if n = 0x13 ∨ n = 0x21 then v &&& 0xFFFF
  else if n = 0x18 then v &&& ((if 5 ≤ bits v 2 0 then 0x18 else 0x1F) ||| (if 5 ≤ bits v 10 8 then 0x800 else 0xF00))
  else if n = 0x19 ∨ n = 0x1A ∨ n = 0x23 then old &&& ~~~v
  else if n = 0x20 then v &&& 0xFFFFFFFFFFFF0000
  else if n = 0x22 then (if bits v 1 0 = 3 then 0 else v &&& 3)
  else if n = 0x28 then (if bits v 19 16 = 2 ∨ bits v 19 16 = 4 ∨ bits v 19 16 = 8 then v &&& 0x8F0FFF0F else v &&& 0x8F00FF0F)
  else if 0x40 ≤ n ∧ n ≤ 0x47 then v &&& 0xFFFFFFFFFFFC0000
  else if 0x80 ≤ n ∧ n ≤ 0x8F then v &&& 0xFFFFFF003FFFFFFC
  else old

/-- R194: the pairwise tree over lanes: node `i` of level `h` combines nodes 2i and 2i + 1 of the level below, an absent child passes the
other on, an inactive lane is absent. -/
def pairwise (comb : Nat → Nat → Nat) (act : Nat → Bool) (x : Nat → Nat) : Nat → Nat → Option Nat
  | 0, i => if act i then some (x i) else none
  | h + 1, i =>
    match pairwise comb act x h (2 * i), pairwise comb act x h (2 * i + 1) with
    | some y, some z => some (comb y z)
    | some y, none => some y
    | none, z => z

/-- R185: a power of two as an exact number. -/
def twoPow (e : Int) : Rat := if 0 ≤ e then ((2 ^ e.toNat : Nat) : Rat) else 1 / ((2 ^ (-e).toNat : Nat) : Rat)

/-- R185: the number `±m·2^e`. -/
def number (neg : Bool) (m : Nat) (e : Int) : Rat := (if neg then -1 else 1) * (m : Rat) * twoPow e

/-- R180-R182: the magnitude that an exponent and a fraction hold, as the codes of a format go on without bound: below the first normal code the
fraction alone counts. -/
def codeMagnitude (f : Sys2Proof.Float.Fmt) (k : Nat) : Rat :=
  if k < 2 ^ f.frac then number false k (1 - (f.bias : Int) - f.frac)
  else number false (2 ^ f.frac + k % 2 ^ f.frac) (((k / 2 ^ f.frac : Nat) : Int) - f.bias - f.frac)

/-- R186: whether a mode takes the further of the neighbours a and b of a magnitude v: the nearer one under RNE, on a tie the even code, b when
a is odd. -/
def takesFurther (mode rho : Nat) (neg odd : Bool) (a v b : Rat) : Prop :=
  if mode = 0 then b - v < v - a ∨ (b - v = v - a ∧ odd = true)
  else if mode = 1 then False
  else if mode = 2 then neg = false ∧ v ≠ a
  else if mode = 3 then neg = true ∧ v ≠ a
  else ((rho + 1 : Nat) : Rat) ≤ 256 * ((v - a) / (b - a))

/-- R179, R181, R182: the largest finite magnitude's code, and the NaN, of a floating-point format (R189). -/
def largestCode (f : Sys2Proof.Float.Fmt) (inf8 : Bool) : Nat :=
  if f.kind = .ieee then (2 ^ f.expBits - 1) * 2 ^ f.frac - 1
  else if f.kind = .signed8 then (if inf8 then 0x7E else 0x7F) else if inf8 then 0xFD else 0xFE
def quietNan (f : Sys2Proof.Float.Fmt) : Nat :=
  if f.kind = .ieee then (2 ^ f.expBits - 1) * 2 ^ f.frac + 2 ^ (f.frac - 1) else if f.kind = .signed8 then 0x80 else 0xFF

/-- R179, R181: a magnitude's code with a sign; signed binary8 has no negative zero. -/
def signedCode (f : Sys2Proof.Float.Fmt) (neg : Bool) (c : Nat) : Nat :=
  if neg = true ∧ f.kind = .ieee then c + 2 ^ (f.bits - 1)
  else if neg = true ∧ f.kind = .signed8 ∧ c ≠ 0 then c + 128 else c

/-- R179: the integer formats. -/
def wholeFormat (f : Sys2Proof.Float.Fmt) : Prop := f.kind = .nat ∨ f.kind = .int

/-- R200: a pointer register takes the value that its mode gives it. -/
def State.moved (s : State) (p : BitVec 3) : Option Ptr → State
  | none => s
  | some x => s.setP p x

/-- What an instruction leaves as it was: the general, pointer, vector and predicate registers but the listed ones, the completion
counters, the control registers but the listed ones, engine registers, tiles, accumulators, and every byte of memory under every
key. -/
structure State.Leaves (s t : State) (g : List (BitVec 5)) (p : List Nat) (v : List (BitVec 5)) (q c : List Nat) : Prop where
  general : ∀ r, r ∉ g → t.g r = s.g r
  pointer : ∀ r : BitVec 3, r.toNat ∉ p → t.p r = s.p r
  vector : ∀ r, r ∉ v → t.v r = s.v r
  predicate : ∀ r : BitVec 3, r.toNat ∉ q → t.q r = s.q r
  counter : ∀ r, t.k r = s.k r
  control : ∀ n, n ∉ c → t.ctrl n = s.ctrl n
  engine : ∀ sel n, t.thr.engineReg sel n = s.thr.engineReg sel n
  tiles : t.cr.tiles = s.cr.tiles
  accumulators : t.cr.accs = s.cr.accs
  memory : ∀ key pa, t.readByte key pa = s.readByte key pa

/-- R287: the registers that a step behind an instruction may change: the counting register of an active `rpt`. -/
def State.counting (s : State) : List (BitVec 5) := if s.inBody then [BitVec.ofNat 5 (bits s.thr.status 31 27)] else []

/-- R287: STATUS, while a `rpt` is active. -/
def State.repeating (s : State) : List Nat := if s.inBody then [0] else []

/-! ### Accesses that complete at once -/

/-- The places that an access of `n` bytes by a unit under a swizzle code goes to, for one that completes at once: a window address
(R10) that the permission registers allow (R12), in a scratchpad of the issuer's own module, within its destination, with no check
at the home that refuses it (R16, R53, R71, R423), no soft error anywhere, and none of the table of contexts in it (R416); it is no trial
of a command (R116). -/
def State.quietAt (s : State) (w : Who) (k : AccessKind) (va : Ptr) (xs n : Nat) : Option (List (Nat × Nat × Nat)) :=
  if isWindow va && !(isMessageWindow va) && decide (0 < n) && s.errs.isEmpty && s.watch.isNone then
    match s.window w k va with
    | .error _ => none
    | .ok t =>
      let parts := chunks xs va t.pa n
      if decide (n ≤ t.limit) && paKind t.pa = 1 && paModule t.pa = locModule w.loc && (s.refusalOf w parts).isNone &&
          parts.all (fun x => !(s.inContextTable x.1 x.2.2)) then some parts
      else none
  else none

/-- None of some places holds a byte of a store that has not performed: of the moving thread, or one that a `gbar` has ordered (log 80). -/
def State.seen (s : State) (parts : List (Nat × Nat × Nat)) : Bool :=
  s.thr.buffer.all (fun w => w.all fun b => !(b.touches parts)) && s.released.all fun b => !(b.2.touches parts)

/-- An access of the moving thread on path C to some places waits for none of its own: what it reads, no store is still to write, and no
vector memory form that it has in the queue moves its bytes (log 90). -/
def State.unhindered (s : State) (k : AccessKind) (parts : List (Nat × Nat × Nat)) : Bool :=
  (k = .store || s.seen parts) && !(s.clash s.thr.uid (k ≠ .load) parts)

/-- The same for the moving thread on path C. -/
def State.quietParts (s : State) (k : AccessKind) (va : Ptr) (xs n : Nat) : Option (List (Nat × Nat × Nat)) :=
  (s.quietAt s.coreWho k va xs n).filter (s.unhindered k)

/-- The bytes at some places of scratchpads. -/
def State.bytesAt (s : State) (parts : List (Nat × Nat × Nat)) : List Byte :=
  parts.flatMap fun x => s.readBytes clearKey x.1 x.2.2

/-- The bytes that a load of `n` bytes which completes at once reads. -/
def State.quietRead (s : State) (va : Ptr) (xs n : Nat) : Option (List Byte) := (s.quietParts .load va xs n).map s.bytesAt

/-- An access of `n` bytes of paged space by the moving thread that completes at once: translated (R32), within one destination (R89), in a
scratchpad or the HBM of the issuer's own module, with no check at the home that refuses it (R16, R53, R71, R73, R423), no soft error and no
moving frame there (R95), no hotness counted (R92), and none of the table of contexts in it (R416). The state behind its translation, the
slot of its key (R75), and its places. -/
def State.pagedAt (s : State) (k : AccessKind) (va : Ptr) (xs n : Nat) : Option (State × Nat × List (Nat × Nat × Nat)) :=
  if isWindow va then none
  else
    match (translate s.coreWho k va).run s with
    | .error _ _ => none
    | .ok t u =>
      let parts := chunks xs va t.pa n
      if decide (0 < n) && decide (n ≤ t.limit) && decide (paKind t.pa ≤ 1) && paModule t.pa = locModule s.loc && u.errs.isEmpty &&
          u.watch.isNone && (u.refusalOf s.coreWho parts).isNone && parts.all (fun x => !(u.inContextTable x.1 x.2.2)) &&
          parts.all (fun x => (granules x.1 x.2.2).all fun g => (u.migOf g.1).isNone) &&
          (paKind t.pa = 1 || !(bit (u.die (paDieKey t.pa)).hotcfg 63)) && u.unhindered k parts then
        some (u, t.slot, parts)
      else none

/-- An access of the moving thread that completes at once, of window space or of paged space: the state behind its translation, the key of its bytes
(R75), and its places. -/
def State.accessAt (s : State) (k : AccessKind) (va : Ptr) (xs n : Nat) : Option (State × (Nat × Nat) × List (Nat × Nat × Nat)) :=
  match s.quietParts k va xs n with
  | some parts => some (s, clearKey, parts)
  | none => (s.pagedAt k va xs n).map fun r => (r.1, r.1.keyOf (locModule s.loc) r.2.1, r.2.2)

/-- The bytes at some places under a key. -/
def State.bytesUnder (s : State) (key : Nat × Nat) (parts : List (Nat × Nat × Nat)) : List Byte :=
  parts.flatMap fun x => s.readBytes key x.1 x.2.2

/-- The byte that a store of some bytes to some places leaves at an address, none when it does not reach it. -/
def storedAt (parts : List (Nat × Nat × Nat)) (data : List Byte) (pa : Nat) : Option Byte :=
  parts.findSome? fun x => if x.1 ≤ pa ∧ pa < x.1 + x.2.2 then data[x.2.1 + (pa - x.1)]? else none

/-- The places of some bytes of a tile at an offset, when a unit reads and writes them at once: in scratchpads, with no check at the home that
refuses them (R71, R423), no soft error anywhere, and none of the table of contexts among them (R416). -/
def State.quietTile (s : State) (w : Who) (l : Loc) (d : Word × Word) (off n : Nat) : Option (List (Nat × Nat × Nat)) :=
  let parts := (tileParts l d off n).parts
  if decide (0 < n) && s.errs.isEmpty && s.watch.isNone && (s.refusalOf w parts).isNone &&
      parts.all (fun x => paKind x.1 = 1 && !(s.inContextTable x.1 x.2.2)) then some parts
  else none

/-- R358: the places of an amplitude, when the engine of the die that holds it reaches it at once, in the issuer's own module. -/
def State.ampAt (s : State) (c : Cmd) (m : StvMap) (k : AccessKind) (x : Nat) : Option (List (Nat × Nat × Nat)) :=
  match s.dieOf (s.stvWho c) k (m.addr x) with
  | some dk =>
    if dk / 16 = locModule c.loc && locModule (s.stvWho c).loc = locModule c.loc && s.member (dk / 16) then
      s.quietAt (c.stvOn dk) k (m.addr x) 0 (stvBytes m.fmt)
    else none
  | none => none

/-- Two lists of places have no byte in common. -/
def placesApart (a b : List (Nat × Nat × Nat)) : Prop := ∀ x ∈ a, ∀ y ∈ b, x.1 + x.2.2 ≤ y.1 ∨ y.1 + y.2.2 ≤ x.1

/-- The items below `n` that are live write apart from each other, and from what the others read. -/
def itemsApart (n : Nat) (live : Nat → Prop) (dest from_ : Nat → List (Nat × Nat × Nat)) : Prop :=
  ∀ i < n, ∀ j < n, live i → live j → i ≠ j → placesApart (dest i) (dest j) ∧ placesApart (dest i) (from_ j)

/-- Memory after a store: the bytes stored at their places, every other byte under every key as it was. -/
def State.Stored (s t : State) (parts : List (Nat × Nat × Nat)) (data : List Byte) : Prop :=
  ∀ key pa, t.readByte key pa = (storedAt parts data pa).getD (s.readByte key pa)

/-- Memory after the stores of the live items below `n`, each of its bytes to its places: every other byte under every key as it was. -/
def State.StoredItems (s t : State) (n : Nat) (live : Nat → Prop) (dest : Nat → List (Nat × Nat × Nat)) (data : Nat → List Byte) : Prop :=
  (∀ i < n, live i → ∀ key pa b, storedAt (dest i) (data i) pa = some b → t.readByte key pa = b) ∧
  ∀ key pa, (∀ i < n, live i → storedAt (dest i) (data i) pa = none) → t.readByte key pa = s.readByte key pa

/-- Memory after a store under a key (R75): the bytes stored at their places, every other byte as it was under that key; under another key every
byte of the other 64-byte units as it was. -/
def State.StoredUnder (s t : State) (key : Nat × Nat) (parts : List (Nat × Nat × Nat)) (data : List Byte) : Prop :=
  (∀ pa, t.readByte key pa = (storedAt parts data pa).getD (s.readByte key pa)) ∧
  ∀ other pa, (∀ x ∈ parts, pa / 64 < x.1 / 64 ∨ (x.1 + x.2.2 - 1) / 64 < pa / 64) → t.readByte other pa = s.readByte other pa

/-- Registers as they were but for one pointer register, and the program counter behind the instruction; memory apart. -/
structure State.OnlyPointer (s t : State) (p : BitVec 3) (x : Option Ptr) : Prop where
  general : ∀ r, r ∉ s.counting → t.g r = s.g r
  updated : t.p p = x.getD (s.p p)
  pointer : ∀ r : BitVec 3, r ≠ p → t.p r = s.p r
  vector : ∀ r, t.v r = s.v r
  predicate : ∀ r : BitVec 3, t.q r = s.q r
  counter : ∀ r, t.k r = s.k r
  control : ∀ n, n ∉ s.repeating → t.ctrl n = s.ctrl n
  behind : t.pc = s.adv.pc

/-! ### Commands -/

/-- R117, R118, R137: a command of a kind accepted on a counter: the counter's I advances by one and its C does not, the command
stands last among those in flight with what it sampled, the thread goes on behind the instruction, and its other registers and
every byte of memory are as they were. -/
structure State.Accepted (s t : State) (k : BitVec 3) (kind : CmdKind) (g : List (BitVec 5)) : Prop where
  number : t.k k = ⟨(s.k k).i + 1, (s.k k).c⟩
  others : ∀ j, j ≠ k → t.k j = s.k j
  command : ∃ c, t.cmds = s.cmds ++ [c] ∧ c.kind = kind ∧ c.ctr = k ∧ c.num = (s.k k).i + 1 ∧ c.loc = s.loc ∧ c.ctx = s.thr.ctxid ∧
    c.user = s.user ∧ c.gtid = s.thr.gtid ∧ c.cp = s.thr.cp ∧ c.mx = t.thr.mx ∧ c.ni = s.thr.ni ∧ c.stv = t.thr.stv ∧ c.mxfmt = s.cr.mxfmt ∧
    c.performed = false
  behind : t.pc = s.adv.pc
  general : ∀ r, r ∉ g → r ∉ s.counting → t.g r = s.g r
  pointer : ∀ r : BitVec 3, t.p r = s.p r
  memory : ∀ key pa, t.readByte key pa = s.readByte key pa

/-- R281: no trigger is armed. -/
def State.disarmed (s : State) : Prop :=
  (∀ e ∈ s.cores, ∀ t ∈ e.2.threads.toList, t.trigs = []) ∧ ∀ e ∈ s.clusters, ∀ p ∈ e.2.parked, p.trigs = []

/-- A command has performed with the fault that a record describes, and its completion comes next (R117, R265). -/
def State.failedWith (t : State) (id cause outcome : Nat) : Prop :=
  .engineCompletion id ∈ t.pending ∧ ∃ c, t.cmd id = some c ∧ c.performed = true ∧
    ∃ f, c.fault = some f ∧ f.cause = BitVec.ofNat 8 cause ∧ f.outc = BitVec.ofNat 8 outcome

/-- R276: a further command of a class finds room. -/
def State.room (s : State) (cls : CmdClass) (path : Path) : Prop :=
  (s.thr.opens.filter fun o => o.cls = cls && o.path = path && !o.done).length < 31

/-- R283: a command names no barrier object, or one that is aligned and whose generation can be read at once. -/
def State.barrierReady (s : State) : Prop :=
  bit (s.thr.cp.get 3) 31 = false ∨
  ((s.thr.cp.get 4).toNat % 64 = 0 ∧ (s.quietRead (BitVec.ofNat 80 ((s.thr.cp.get 4).toNat % 2 ^ 64)) 0 4).isSome = true)

/-- R209: the bytes of the control block that an address names, when they can be read at once. -/
def State.block (s : State) (va : Ptr) : Option (List Byte) := s.quietRead (BitVec.ofNat 80 (va.toNat / 64 * 64)) 0 64

/-- R59: a tile of the thread's core that is defined and ready. -/
def State.tileReady (s : State) (t : Nat) : Prop := tileV (s.tile s.loc t) = true ∧ tileState (s.tile s.loc t) = 2

/-- R293: a tile that a definition may change: no command of another core names it, and it is not filling or draining. -/
def State.tileFree (s : State) (t : Nat) : Prop :=
  s.pins s.loc t = 0 ∧ ¬ (tileV (s.tile s.loc t) = true ∧ (tileState (s.tile s.loc t) = 1 ∨ tileState (s.tile s.loc t) = 3))

/-- R316, R318: a tile operand of a product: ready, of the format, and at least as large as the product reads. -/
def State.operandReady (s : State) (t fmt rows cols : Nat) : Prop :=
  s.tileReady t ∧ tileFmt (s.tile s.loc t) = fmt ∧ rows ≤ tileRows (s.tile s.loc t) ∧ cols ≤ tileCols (s.tile s.loc t)

/-- R163: a rank's placement entry, which an NI reads at a place that no write of a scratchpad changes and without another effect. -/
def State.placedAt (s : State) (l : Loc) (team : BitVec 32) (rank : BitVec 20) (e : Word) : Prop :=
  ∀ u : State, u = { s with mem := u.mem, cores := u.cores } →
    (∀ key pa, paKind pa ≠ 1 → u.readByte key pa = s.readByte key pa) → (placement l team rank).run u = .ok (some e) u

/-- R332: the place of `n` bytes at an offset of the remote buffer X of a rank, or under GLB at an address, when the NI of a command reads or writes
them at once: the rank's placement can be read, and it is at rest in the issuer's own module. -/
def State.farAt (s : State) (c : Cmd) (w : Who) (l : Loc) (k : AccessKind) (glb : Bool) (local_ : Ptr) (x : Word) (rank off n : Nat)
    (parts : List (Nat × Nat × Nat)) : Prop :=
  if glb then s.quietAt w k (BitVec.ofNat 80 (bits local_ 79 64 * 2 ^ 64 + x.toNat) + BitVec.ofNat 80 off) 0 n = some parts
  else ∃ e at_, s.placedAt l (teamOf c.gtid) (BitVec.ofNat 20 rank) e ∧ entryState e = 1 ∧ locModule (entryLoc e) = locModule l ∧
    locModule w.loc = locModule l ∧ s.errs = [] ∧ s.watch = none ∧ at_ = entryRegion e * 4096 + x.toNat + off ∧ 0 < n ∧ at_ + n ≤ 2 ^ 21 ∧
    parts = [(sp2Pa (locClusterKey (entryLoc e)) at_, 0, n)] ∧ s.refusalOf w parts = none ∧
    parts.all (fun y => !(s.inContextTable y.1 y.2.2)) = true

/-- A command has performed without a fault. -/
def State.performedWell (t : State) (id : Nat) : Prop := ∃ q, t.cmd id = some q ∧ q.performed = true ∧ q.fault = none

/-! ### Words (R203) -/

/-- Words with an assigned function: the major opcodes, the place of the function code with its values, a further field that tells
forms of one function apart with its values, the reserved ranges, the high bits of the register fields that name no register (R197),
and whether the instruction is privileged; a range is its lowest bit and its length. -/
structure WordRow where
  ops : List Nat
  lo : Nat
  len : Nat
  codes : List Nat
  form : Option (Nat × Nat × List Nat)
  reserved : List (Nat × Nat)
  registers : List (Nat × Nat)
  privileged : Bool
deriving DecidableEq, Repr

/-- R199: the field of a word of some bits from a bit up. -/
def wordField (w : BitVec 32) (lo len : Nat) : Nat := w.toNat / 2 ^ lo % 2 ^ len

/-- A word is one of the row's. -/
def WordRow.names (r : WordRow) (w : BitVec 32) : Bool :=
  r.ops.contains (wordField w 26 6) && r.codes.contains (wordField w r.lo r.len) &&
  match r.form with
  | none => true
  | some f => f.2.2.contains (wordField w f.1 f.2.1)

/-- The words of the integer, pointer and scalar float groups. -/
def wordRowsInteger : List WordRow := [
  ⟨[0x01], 0, 11, [0, 1, 2, 3, 4, 5, 6, 8, 9, 0xa, 0xb, 0xc, 0x10, 0x11, 0x12, 0x13, 0x14, 0x15], none, [], [], false⟩,
  ⟨[0x01], 0, 11, [0x20, 0x21, 0x22, 0x28, 0x29, 0x2a, 0x2c, 0x2d, 0x2e, 0x30], none, [(11, 5)], [], false⟩,
  ⟨[0x02, 0x03, 0x04, 0x05, 0x06, 0x0c, 0x0d, 0x0e, 0x0f, 0x10, 0x11, 0x12, 0x14, 0x15, 0x16, 0x17, 0x19, 0x1a, 0x1e,
    0x21, 0x22], 0, 0, [0], none, [], [], false⟩,
  ⟨[0x07], 0, 0, [0], none, [(20, 1)], [], false⟩,
  ⟨[0x08], 12, 4, [0, 1, 2], none, [(6, 6)], [], false⟩,
  ⟨[0x08], 12, 4, [4, 5], none, [], [], false⟩,
  ⟨[0x09], 0, 11, [0, 1, 2, 4, 5, 6, 7], none, [], [], false⟩,
  ⟨[0x0a, 0x26], 0, 11, [0], none, [], [(24, 2), (19, 2)], false⟩,
  ⟨[0x0a, 0x26], 0, 11, [1], none, [], [(24, 2)], false⟩,
  ⟨[0x0a], 0, 11, [2, 3], none, [(11, 5)], [(19, 2)], false⟩,
  ⟨[0x0a], 0, 11, [4], none, [], [(19, 2), (14, 2)], false⟩,
  ⟨[0x0b], 6, 5, [0, 1, 2, 3, 5, 8], none, [], [], false⟩,
  ⟨[0x0b], 6, 5, [4], none, [(11, 5)], [], false⟩,
  ⟨[0x0b], 6, 5, [6, 7], none, [(3, 3)], [], false⟩,
  ⟨[0x0b], 6, 5, [9], none, [(14, 2)], [], false⟩,
  ⟨[0x0b], 6, 5, [0xa], none, [(3, 3), (11, 5)], [], false⟩]

/-- The words of the memory, fence and counter groups. -/
def wordRowsMemory : List WordRow := [
  ⟨[0x13, 0x18], 0, 0, [0], none, [], [(24, 2)], false⟩,
  ⟨[0x1b], 10, 1, [0], none, [(3, 1), (11, 5)], [(19, 2)], false⟩,
  ⟨[0x1b], 10, 1, [1], none, [(3, 1), (21, 5)], [(19, 2)], false⟩,
  ⟨[0x1c], 7, 4, [0, 1, 2, 3, 4, 5, 6, 7, 8, 9, 0xa, 0xb], none, [(3, 2)], [(19, 2)], false⟩,
  ⟨[0x1d], 16, 10, [0], none, [(0, 4), (11, 5)], [], false⟩,
  ⟨[0x1d], 16, 10, [1], none, [(0, 2), (11, 5)], [], false⟩,
  ⟨[0x1f], 19, 7, [0, 1], some (5, 1, [1]), [], [], false⟩,
  ⟨[0x1f], 19, 7, [0, 1], some (5, 1, [0]), [(0, 5), (9, 5)], [], false⟩,
  ⟨[0x1f], 19, 7, [2, 3], none, [(0, 6), (9, 5)], [], false⟩,
  ⟨[0x1f], 19, 7, [4], none, [(0, 6)], [(12, 2)], false⟩,
  ⟨[0x1f], 19, 7, [5], none, [(0, 6), (14, 5)], [(12, 2)], false⟩]

/-- The words of the branch, control-register, system and repeat groups. -/
def wordRowsControl : List WordRow := [
  ⟨[0x20], 22, 4, [0, 1, 2, 3, 4, 5], none, [], [], false⟩,
  ⟨[0x23], 0, 11, [0, 1], none, [(11, 5), (21, 5)], [], false⟩,
  ⟨[0x23], 0, 11, [2], none, [(11, 15)], [], false⟩,
  ⟨[0x24], 0, 5, [0], none, [(16, 5)], [], false⟩,
  ⟨[0x24], 0, 5, [1], none, [(21, 5)], [], false⟩,
  ⟨[0x24], 0, 5, [2, 3], none, [], [], false⟩,
  ⟨[0x25], 16, 10, [0, 1, 4], none, [(8, 8)], [], false⟩,
  ⟨[0x25], 16, 10, [2, 5], none, [(0, 16)], [], true⟩,
  ⟨[0x25], 16, 10, [3], none, [(5, 3)], [(14, 2)], false⟩,
  ⟨[0x25], 16, 10, [0x20], none, [], [], true⟩,
  ⟨[0x25], 16, 10, [0x21], none, [(0, 8), (11, 5)], [], true⟩,
  ⟨[0x26], 0, 11, [2], none, [(21, 5)], [], false⟩]

/-- The words of the vector groups. -/
def wordRowsVector : List WordRow := [
  ⟨[0x27], 5, 3, [0, 1, 2, 3, 4, 5, 6], none, [], [], false⟩,
  ⟨[0x27], 5, 3, [7], none, [(11, 5)], [], false⟩,
  ⟨[0x28], 3, 5, [0, 1, 2, 3, 4, 8, 9, 0xa, 0xc, 0xd, 0xe], none, [], [], false⟩,
  ⟨[0x28], 3, 5, [5, 6], none, [(11, 5)], [], false⟩,
  ⟨[0x29], 5, 3, [0], some (11, 5, [0, 1, 2, 3, 4, 5, 6]), [], [], false⟩,
  ⟨[0x29], 5, 3, [1, 2, 3], none, [(10, 1)], [], false⟩,
  ⟨[0x2a], 5, 3, [0, 1, 2, 3, 4], none, [], [(24, 2)], false⟩,
  ⟨[0x2a], 5, 3, [7], some (0, 5, [0, 1, 2, 3]), [(8, 3)], [(24, 2)], false⟩,
  ⟨[0x2a], 5, 3, [7], some (0, 5, [4, 5, 6]), [(8, 3)], [(24, 2), (19, 2), (14, 2)], false⟩,
  ⟨[0x2a], 5, 3, [7], some (0, 5, [7]), [(8, 8)], [(24, 2), (19, 2)], false⟩,
  ⟨[0x2a], 5, 3, [7], some (0, 5, [8, 9, 10, 11, 12, 13, 14, 15]), [(8, 8)], [(19, 2)], false⟩,
  ⟨[0x2b], 3, 5, [0], none, [(0, 3), (11, 5)], [], false⟩,
  ⟨[0x2b], 3, 5, [1], none, [(11, 5)], [], false⟩,
  ⟨[0x2b], 3, 5, [2, 3], none, [(8, 3)], [], false⟩,
  ⟨[0x2b], 3, 5, [4, 0x10, 0x11, 0x12, 0x13], none, [(0, 3)], [], false⟩,
  ⟨[0x2b], 3, 5, [5, 6, 7, 8, 9, 0xa, 0xb, 0xc, 0xd], none, [], [], false⟩,
  ⟨[0x2b], 3, 5, [0x18], none, [(8, 13)], [], false⟩,
  ⟨[0x2c], 5, 3, [0, 1, 2, 3, 4], none, [], [(19, 2)], false⟩,
  ⟨[0x2c], 5, 3, [5], none, [(0, 3), (11, 5)], [(19, 2)], false⟩,
  ⟨[0x2c], 5, 3, [6], none, [(0, 5), (8, 13)], [], false⟩,
  ⟨[0x2c], 5, 3, [7], none, [(0, 3)], [], false⟩]

/-- The words of the engine, alloy and trace groups. -/
def wordRowsEngine : List WordRow := [
  ⟨[0x2d], 22, 4, [0, 1], none, [(5, 1)], [], false⟩,
  ⟨[0x2d], 22, 4, [2, 5], none, [(4, 2), (9, 13)], [], false⟩,
  ⟨[0x2d], 22, 4, [3, 4], none, [(4, 2), (9, 5), (19, 3)], [(17, 2)], false⟩,
  ⟨[0x2d], 22, 4, [6], none, [(4, 5), (19, 3)], [], false⟩,
  ⟨[0x2d], 22, 4, [7], some (0, 1, [0]), [(1, 13), (19, 3)], [], false⟩,
  ⟨[0x2d], 22, 4, [7], some (0, 1, [1]), [(1, 8), (19, 3)], [], false⟩,
  ⟨[0x2d], 22, 4, [8], none, [(0, 6), (19, 3)], [(12, 2)], false⟩,
  ⟨[0x2e], 25, 1, [0, 1], some (0, 1, [0]), [(1, 8), (19, 3)], [], false⟩,
  ⟨[0x2e], 25, 1, [0, 1], some (0, 1, [1]), [(1, 8), (19, 3)], [(17, 2)], false⟩,
  ⟨[0x2f], 19, 7, [0], none, [(0, 6)], [(17, 2), (12, 2)], false⟩,
  ⟨[0x2f], 19, 7, [1], none, [(0, 6)], [(17, 2)], false⟩,
  ⟨[0x2f], 19, 7, [2, 3], none, [(5, 1)], [(17, 2), (12, 2), (3, 2)], false⟩,
  ⟨[0x30], 19, 7, [0], none, [(5, 4)], [(12, 2)], false⟩,
  ⟨[0x30], 19, 7, [1], none, [(5, 4)], [], false⟩,
  ⟨[0x30], 19, 7, [2, 3], none, [], [(12, 2)], false⟩,
  ⟨[0x30], 19, 7, [4], none, [(0, 14)], [], false⟩,
  ⟨[0x30], 19, 7, [5], none, [(0, 9)], [], false⟩,
  ⟨[0x30], 19, 7, [6], none, [(0, 6)], [], false⟩,
  ⟨[0x31], 19, 7, [0, 1], none, [(5, 1)], [], false⟩,
  ⟨[0x31], 19, 7, [2], none, [], [], false⟩,
  ⟨[0x31], 19, 7, [3], none, [(0, 14)], [(17, 2)], true⟩,
  ⟨[0x31], 19, 7, [4, 5, 6, 7], some (5, 1, [0]), [(0, 5)], [(12, 2)], false⟩,
  ⟨[0x31], 19, 7, [4, 5, 6, 7], some (5, 1, [1]), [], [(12, 2)], false⟩,
  ⟨[0x32], 19, 7, [0], none, [], [(17, 2), (12, 2)], false⟩,
  ⟨[0x32], 19, 7, [1], none, [(4, 5), (14, 5)], [(12, 2)], false⟩,
  ⟨[0x33], 19, 7, [0], none, [(0, 9)], [(12, 2)], false⟩,
  ⟨[0x33], 19, 7, [1], none, [(0, 14)], [], false⟩,
  ⟨[0x33], 19, 7, [2], none, [(3, 6)], [], false⟩,
  ⟨[0x34], 19, 7, [0, 2, 6], none, [(0, 6), (9, 5)], [(17, 2)], false⟩,
  ⟨[0x34], 19, 7, [1], none, [(0, 6), (9, 5)], [], false⟩,
  ⟨[0x34], 19, 7, [3], none, [(0, 6)], [], false⟩,
  ⟨[0x34], 19, 7, [4], none, [(5, 1)], [(17, 2)], false⟩,
  ⟨[0x34], 19, 7, [5], none, [(5, 1)], [], false⟩,
  ⟨[0x34], 19, 7, [7], none, [(0, 6)], [(17, 2)], false⟩,
  ⟨[0x35], 19, 7, [0], none, [(3, 6)], [(12, 2)], false⟩,
  ⟨[0x35], 19, 7, [1, 2], none, [(0, 9), (14, 5)], [(12, 2)], false⟩,
  ⟨[0x35], 19, 7, [3], none, [(0, 9)], [], false⟩,
  ⟨[0x35], 19, 7, [4], none, [(3, 11)], [], false⟩,
  ⟨[0x35], 19, 7, [5], none, [(0, 19)], [], false⟩,
  ⟨[0x36], 16, 10, [0], none, [(2, 9)], [], false⟩,
  ⟨[0x36], 16, 10, [1], none, [(0, 16)], [], false⟩,
  ⟨[0x36], 16, 10, [2], none, [(0, 11)], [], false⟩,
  ⟨[0x37], 16, 10, [0], none, [], [], false⟩,
  ⟨[0x37], 16, 10, [1, 2], none, [(4, 12)], [], true⟩,
  ⟨[0x37], 16, 10, [3], none, [(0, 16)], [], true⟩,
  ⟨[0x38], 19, 7, [0], none, [(1, 5), (14, 5)], [(12, 2)], false⟩,
  ⟨[0x38], 19, 7, [1], none, [(0, 6), (14, 5)], [(12, 2)], false⟩,
  ⟨[0x38], 19, 7, [2], none, [(0, 9)], [], false⟩]

/-- R202, R203 and the encodings of the groups: the words that have an assigned function, row by row. -/
def wordRows : List WordRow := wordRowsInteger ++ wordRowsMemory ++ wordRowsControl ++ wordRowsVector ++ wordRowsEngine

end Sys2Proof.Machine
end

