-- ==== Sys2Proof/Certificates/Slice0/Obligations.lean ====
section
/-! DEFINITION. The statements about the machine. -/

open Sys2Proof Sys2Proof.Machine

/-- R224: the arithmetic, logic, shift and comparison instructions on registers complete with these values. R224, R200: the bit
counts, the extensions and the byte reversal complete with these values. -/
def Obligations.IntegerResults : Prop :=
  (
    ∀ (s : State) (d a b : BitVec 5),
      let x := s.g a
      let y := s.g b
      let n := y.toNat % 64
      let res := fun (r : Word) => Host.Outcome.next (s.setG d r).adv
      exec (.add d a b) s = res (x + y) ∧
      exec (.sub d a b) s = res (x - y) ∧
      exec (.and d a b) s = res (x &&& y) ∧
      exec (.or d a b) s = res (x ||| y) ∧
      exec (.xor d a b) s = res (x ^^^ y) ∧
      exec (.andn d a b) s = res (x &&& ~~~y) ∧
      exec (.orn d a b) s = res (x ||| ~~~y) ∧
      exec (.sll d a b) s = res (BitVec.ofNat 64 (x.toNat * 2 ^ n)) ∧
      exec (.srl d a b) s = res (BitVec.ofNat 64 (x.toNat / 2 ^ n)) ∧
      exec (.sra d a b) s = res (BitVec.ofInt 64 (x.toInt / 2 ^ n)) ∧
      exec (.rol d a b) s = res (x <<< n ||| x >>> (64 - n)) ∧
      exec (.ror d a b) s = res (x >>> n ||| x <<< (64 - n)) ∧
      exec (.slt d a b) s = res (if x.toInt < y.toInt then 1 else 0) ∧
      exec (.sltn d a b) s = res (if x.toNat < y.toNat then 1 else 0) ∧
      exec (.min d a b) s = res (if x.toInt ≤ y.toInt then x else y) ∧
      exec (.max d a b) s = res (if x.toInt ≤ y.toInt then y else x) ∧
      exec (.minn d a b) s = res (if x.toNat ≤ y.toNat then x else y) ∧
      exec (.maxn d a b) s = res (if x.toNat ≤ y.toNat then y else x)) ∧
  (
    ∀ (s : State) (d a : BitVec 5),
      let x := s.g a
      let res := fun (r : Word) => Host.Outcome.next (s.setG d r).adv
      (∃ n ≤ 64, exec (.clz d a) s = res (BitVec.ofNat 64 n) ∧ x.toNat < 2 ^ (64 - n) ∧ (n < 64 → 2 ^ (63 - n) ≤ x.toNat)) ∧
      (∃ n ≤ 64, exec (.ctz d a) s = res (BitVec.ofNat 64 n) ∧ 2 ^ n ∣ x.toNat ∧ (n < 64 → ¬ 2 ^ (n + 1) ∣ x.toNat)) ∧
      exec (.pop d a) s = res (BitVec.ofNat 64 ((List.range 64).filter fun i => x.getLsbD i).length) ∧
      exec (.sext8 d a) s = res ((x.truncate 8).signExtend 64) ∧
      exec (.sext16 d a) s = res ((x.truncate 16).signExtend 64) ∧
      exec (.sext32 d a) s = res ((x.truncate 32).signExtend 64) ∧
      exec (.zext8 d a) s = res ((x.truncate 8).zeroExtend 64) ∧
      exec (.zext16 d a) s = res ((x.truncate 16).zeroExtend 64) ∧
      exec (.zext32 d a) s = res ((x.truncate 32).zeroExtend 64) ∧
      (∃ r : Word, exec (.bswap d a) s = res r ∧
        ∀ i < 8, r.extractLsb' (8 * i) 8 = x.extractLsb' (56 - 8 * i) 8))

/-- R225, R226, R227: the immediate instructions complete with these values; `movi` and `movk` at the starts 0 to 48. R226: `movi`
and `movk` with a start beyond 48 take ILLEGAL with outcome 0x04. -/
def Obligations.ImmediateResults : Prop :=
  (
    ∀ (s : State) (d a : BitVec 5) (imm : BitVec 16) (h : BitVec 6) (c : BitVec 12) (n : BitVec 4),
      let x := s.g a
      let res := fun (r : Word) => Host.Outcome.next (s.setG d r).adv
      let u : Word := BitVec.ofNat 64 (imm.toNat * 2 ^ (4 * n.toNat))
      exec (.addi d a imm) s = res (x + BitVec.ofInt 64 imm.toInt) ∧
      exec (.andi d a imm) s = res (x &&& BitVec.ofNat 64 imm.toNat) ∧
      exec (.ori d a imm) s = res (x ||| BitVec.ofNat 64 imm.toNat) ∧
      exec (.xori d a imm) s = res (x ^^^ BitVec.ofNat 64 imm.toNat) ∧
      exec (.slli d a h) s = res (BitVec.ofNat 64 (x.toNat * 2 ^ h.toNat)) ∧
      exec (.srli d a h) s = res (BitVec.ofNat 64 (x.toNat / 2 ^ h.toNat)) ∧
      exec (.srai d a h) s = res (BitVec.ofInt 64 (x.toInt / 2 ^ h.toNat)) ∧
      exec (.slti d a c) s = res (if x.toInt < c.toInt then 1 else 0) ∧
      exec (.sltni d a c) s = res (if x.toNat < (BitVec.ofInt 64 c.toInt).toNat then 1 else 0) ∧
      (n.toNat ≤ 12 → exec (.movi d 0 n imm) s = res u) ∧
      (n.toNat ≤ 12 → exec (.movi d 1 n imm) s = res (BitVec.ofInt 64 (imm.toInt * 2 ^ (4 * n.toNat)))) ∧
      (n.toNat ≤ 12 → ∃ r : Word, exec (.movk d n imm) s = res r ∧ r.extractLsb' (4 * n.toNat) 16 = imm ∧
        ∀ i < 64, i < 4 * n.toNat ∨ 4 * n.toNat + 16 ≤ i → r.getLsbD i = (s.g d).getLsbD i)) ∧
  (
    ∀ (s : State) (d : BitVec 5) (sel : BitVec 1) (n : BitVec 4) (imm : BitVec 16), 13 ≤ n.toNat →
      exec (.movi d sel n imm) s = trapOut s (illegal 0x04 s.word) ∧ exec (.movk d n imm) s = trapOut s (illegal 0x04 s.word))

/-- R229: products and quotients complete with these values, the two borderline cases of division among them; none traps. R231: the
pointer instructions complete with these values. -/
def Obligations.ProductAndPointerResults : Prop :=
  (
    ∀ (s : State) (d a b : BitVec 5),
      let x := s.g a
      let y := s.g b
      let res := fun (r : Word) => Host.Outcome.next (s.setG d r).adv
      exec (.mul d a b) s = res (BitVec.ofNat 64 (x.toNat * y.toNat)) ∧
      exec (.mulh d a b) s = res (BitVec.ofInt 64 (x.toInt * y.toInt / 2 ^ 64)) ∧
      exec (.mulhn d a b) s = res (BitVec.ofNat 64 (x.toNat * y.toNat / 2 ^ 64)) ∧
      (y = 0 → exec (.div d a b) s = res (BitVec.allOnes 64) ∧ exec (.divn d a b) s = res (BitVec.allOnes 64) ∧
        exec (.rem d a b) s = res x ∧ exec (.remn d a b) s = res x) ∧
      (x = BitVec.ofInt 64 (-(2 ^ 63)) → y = BitVec.ofInt 64 (-1) →
        exec (.div d a b) s = res x ∧ exec (.rem d a b) s = res 0) ∧
      (y ≠ 0 → exec (.divn d a b) s = res (BitVec.ofNat 64 (x.toNat / y.toNat)) ∧
        exec (.remn d a b) s = res (BitVec.ofNat 64 (x.toNat % y.toNat))) ∧
      (y ≠ 0 → ∃ q r : Word, exec (.div d a b) s = res q ∧ exec (.rem d a b) s = res r ∧
        (x ≠ BitVec.ofInt 64 (-(2 ^ 63)) ∨ y ≠ BitVec.ofInt 64 (-1) →
          x.toInt = q.toInt * y.toInt + r.toInt ∧ r.toInt.natAbs < y.toInt.natAbs ∧ (0 ≤ x.toInt → 0 ≤ r.toInt) ∧
            (x.toInt ≤ 0 → r.toInt ≤ 0)))) ∧
  (
    ∀ (s : State) (d a b : BitVec 5),
      exec (.padd d a b) s = .next (s.setP d (s.p a + BitVec.ofInt 80 (s.g b).toInt)).adv ∧
      exec (.pset d a b) s = .next (s.setP d (BitVec.ofNat 80 ((s.g a).toNat + 2 ^ 64 * ((s.g b).toNat % 2 ^ 16)))).adv ∧
      exec (.pget d a) s = .next (s.setG d ((s.p a).truncate 64)).adv ∧
      exec (.pgeth d a) s = .next (s.setG d (BitVec.ofNat 64 ((s.p a).toNat / 2 ^ 64))).adv ∧
      exec (.pdiff d a b) s = .next (s.setG d ((s.p a - s.p b).truncate 64)).adv)

/-- R196, R219, R435: a general register written and read back: the value, but g0 stays zero; another keeps its value. A write of g0
writes nothing. R196: the pointer, vector and predicate registers likewise; q0 reads all ones and keeps them. R201, R287, R378, log
32: behind an instruction the PC moves on by four bytes modulo the size of an SP1; at the last word of the body of an active `rpt`
the counting register falls by one, and the PC goes back to the first word, or, the count at zero, moves on with the repeat over,
whose number of words in STATUS is then zero (the reading of log 32 of the layout of R378). -/
def Obligations.RegisterLaws : Prop :=
  (
    ∀ (s : State) (r j : BitVec 5) (x : Word), s.issuing →
      s.g 0 = 0 ∧ s.setG 0 x = s ∧ (r ≠ 0 → (s.setG r x).g r = x) ∧ (j ≠ r → (s.setG r x).g j = s.g j)) ∧
  (
    ∀ (s : State) (r j : BitVec 3) (i k : BitVec 5) (x : Ptr) (v : Vec) (m : Pred), s.issuing →
      (s.setP r x).p r = x ∧ (j ≠ r → (s.setP r x).p j = s.p j) ∧
      (s.setV i v).v i = v ∧ (k ≠ i → (s.setV i v).v k = s.v k) ∧
      s.q (0 : BitVec 3) = BitVec.allOnes 256 ∧ s.setQ (0 : BitVec 3) m = s ∧
      (r ≠ 0 → (s.setQ r m).q r = m) ∧ (j ≠ r → (s.setQ r m).q j = s.q j)) ∧
  (
    ∀ s : State, s.issuing →
      let begin_ := bits s.thr.status 21 8 * 4
      let words := bits s.thr.status 26 22
      let count : BitVec 5 := BitVec.ofNat 5 (bits s.thr.status 31 27)
      let last := s.inBody = true ∧ s.pc.toNat + 4 = begin_ + 4 * words
      (¬ last → s.adv = s.setPc (s.pc + 4)) ∧
      (last → s.g count ≠ 1 → count ≠ 0 → s.adv.pc = BitVec.ofNat 16 begin_ ∧ s.adv.g count = s.g count - 1 ∧
        s.adv.thr.status = s.thr.status) ∧
      (last → s.g count = 1 → s.adv.pc = s.pc + 4 ∧ s.adv.g count = 0 ∧ bits s.adv.thr.status 26 22 = 0))

/-- R219, R224-R231: an integer or pointer instruction leaves as it was every general and pointer register but its destination (and
what an active `rpt` counts), every vector and predicate register, counter, control register, engine register, tile and accumulator,
and every byte of memory. -/
def Obligations.IntegerFrame : Prop :=
  ∀ (s t : State) (d a b : BitVec 5) (imm : BitVec 16) (h : BitVec 6) (c : BitVec 12) (n : BitVec 4) (sel : BitVec 1), s.issuing →
    (∀ i ∈ [Instr.add d a b, .sub d a b, .and d a b, .or d a b, .xor d a b, .andn d a b, .orn d a b, .sll d a b, .srl d a b, .sra d a b,
        .rol d a b, .ror d a b, .slt d a b, .sltn d a b, .min d a b, .max d a b, .minn d a b, .maxn d a b, .clz d a, .ctz d a, .pop d a,
        .sext8 d a, .sext16 d a, .sext32 d a, .zext8 d a, .zext16 d a, .zext32 d a, .bswap d a, .addi d a imm, .andi d a imm,
        .ori d a imm, .xori d a imm, .slli d a h, .srli d a h, .srai d a h, .slti d a c, .sltni d a c, .mul d a b, .mulh d a b,
        .mulhn d a b, .div d a b, .divn d a b, .rem d a b, .remn d a b, .pget d a, .pgeth d a, .pdiff d a b],
      exec i s = .next t → s.Leaves t (d :: s.counting) [] [] [] s.repeating) ∧
    (n.toNat ≤ 12 → ∀ i ∈ [Instr.movi d sel n imm, .movk d n imm],
      exec i s = .next t → s.Leaves t (d :: s.counting) [] [] [] s.repeating) ∧
    (∀ i ∈ [Instr.padd d a b, .pset d a b],
      exec i s = .next t → s.Leaves t s.counting [d.toNat % 8] [] [] s.repeating)

/-- R240-R242, R201: outside the body of an active `rpt`, branches, jumps and calls complete: the PC goes to the target, modulo the
size of an SP1, or on by four bytes; a call leaves the offset behind it in g31; nothing else changes. R287, R378: `rpt` outside a
body and a handler completes: with a count it notes the counting register, the number of words and the first word in STATUS and goes
on behind itself; without, it skips the body. R285: with k = 0 it takes ILLEGAL with outcome 0x04. R378: in a trap handler it takes
ILLEGAL with outcome 0x05; that 0x04 comes first where both hold is the order of grounds of log 40, the model's choice. R287: a
branch, jump, call, `rpt`, `safe`, `alloy`, `part` or `done` in the body of an active `rpt` takes ILLEGAL with outcome 0x06; that
this comes before the outcome 0x04 of the code 0 of `alloy` (R392) is the order of grounds of log 40, the model's choice. -/
def Obligations.ControlFlowResults : Prop :=
  (
    ∀ (s : State) (a b : BitVec 5) (o : BitVec 12) (w : BitVec 26), s.inBody = false →
      let x := s.g a
      let y := s.g b
      let to_ := fun (c : Prop) [Decidable c] => Host.Outcome.next (s.setPc
        (if c then BitVec.ofInt 16 ((s.pc.toNat : Int) + 4 * o.toInt) else BitVec.ofNat 16 (s.pc.toNat + 4)))
      let far := BitVec.ofInt 16 ((s.pc.toNat : Int) + 4 * w.toInt)
      let reg := fun (z : Word) => BitVec.ofNat 16 (z.toNat / 4 * 4)
      let linked := s.setG 31 (BitVec.ofNat 64 ((s.pc.toNat + 4) % 2 ^ 16))
      exec (.beq a b o) s = to_ (x = y) ∧
      exec (.bne a b o) s = to_ (x ≠ y) ∧
      exec (.blt a b o) s = to_ (x.toInt < y.toInt) ∧
      exec (.bge a b o) s = to_ (y.toInt ≤ x.toInt) ∧
      exec (.bltn a b o) s = to_ (x.toNat < y.toNat) ∧
      exec (.bgen a b o) s = to_ (y.toNat ≤ x.toNat) ∧
      exec (.j w) s = .next (s.setPc far) ∧
      exec (.call w) s = .next (linked.setPc far) ∧
      exec (.jr a) s = .next (s.setPc (reg x)) ∧
      exec (.callr a) s = .next (linked.setPc (reg x)) ∧
      exec .ret s = .next (s.setPc (reg (s.g 31)))) ∧
  (
    ∀ (s : State) (a k : BitVec 5), s.issuing →
      exec (.rpt a 0) s = trapOut s (illegal 0x04 s.word) ∧
      (k ≠ 0 → s.inh = true → exec (.rpt a k) s = trapOut s (illegal 0x05 s.word)) ∧
      (k ≠ 0 → s.inh = false → s.inBody = false →
      (s.g a = 0 → exec (.rpt a k) s = .next (s.setPc (BitVec.ofNat 16 (s.pc.toNat + 4 * (k.toNat + 1))))) ∧
      (s.g a ≠ 0 → ∃ t : State, exec (.rpt a k) s = .next t ∧ t.pc = BitVec.ofNat 16 (s.pc.toNat + 4) ∧
        bits t.thr.status 31 27 = a.toNat ∧ bits t.thr.status 26 22 = k.toNat ∧
        bits t.thr.status 21 8 = (s.pc.toNat + 4) / 4 % 2 ^ 14 ∧ bits t.thr.status 7 0 = bits s.thr.status 7 0 ∧
        (∀ r, t.g r = s.g r) ∧ (∀ n, n ≠ 0 → t.ctrl n = s.ctrl n) ∧ ∀ key pa, t.readByte key pa = s.readByte key pa))) ∧
  (
    ∀ (s : State) (a b d : BitVec 5) (o : BitVec 12) (w : BitVec 26) (k : BitVec 5) (n : BitVec 8) (z : BitVec 2),
      s.settled → s.inBody = true → k ≠ 0 →
      ∀ i ∈ [Instr.beq a b o, .bne a b o, .blt a b o, .bge a b o, .bltn a b o, .bgen a b o, .j w, .call w, .jr a, .callr a, .ret,
          .rpt a k, .safe n, .alloy d z, .part, .done],
        exec i s = trapOut s (illegal 0x06 s.word))

/-- R232-R235, R191, R192: with a format code of R234 that floats and a rounding field that is assigned, the arithmetic completes:
the exact value rounded once under the mode, drawing from the core's generator in mode SR alone; the flags of forming and of
rounding the value are added to FSTAT, and the code goes to the register. R235-R238, R189: minimum, maximum, comparison, class and
conversion complete; nothing but a conversion is rounded. R234, R236, R237: a scalar floating-point word with a format, rounding or
comparison code that its entry refuses takes ILLEGAL with outcome 0x04, and a conversion between integers or to its own format 0x05;
where both hold, 0x04 is reported, by the order of grounds of log 40, the model's choice. -/
def Obligations.ScalarFloatResults : Prop :=
  (
    ∀ (s : State) (d a b : BitVec 5) (r t : BitVec 3), t.toNat ≤ 1 → r ≠ 5 → r ≠ 6 →
      let m := if r = 7 then bits s.cr.vfmt 10 8 else r.toNat
      let f := if t = 0 then Sys2Proof.Float.f32 else Sys2Proof.Float.f64
      let u := fun (c : BitVec 5) => Sys2Proof.Float.unpack f false (s.g c).toNat
      let res := fun (x : Sys2Proof.Float.Val × BitVec 6) =>
        let z := Sys2Proof.Float.roundDraw f false m (bit s.cr.vfmt 11) s.cr.srstate x.1
        Host.Outcome.next ((((if m = 4 then s.mapCr fun c => { c with srstate := z.2.2 } else s).raiseF (x.2 ||| z.2.1)).setG d
          (BitVec.ofNat 64 z.1)).adv)
      exec (.fadd d a b r t) s = res (Sys2Proof.Float.add m (u a) (u b)) ∧
      exec (.fsub d a b r t) s = res (Sys2Proof.Float.add m (u a) (u b).negate) ∧
      exec (.fmul d a b r t) s = res (Sys2Proof.Float.mul (u a) (u b)) ∧
      exec (.fdiv d a b r t) s = res (Sys2Proof.Float.div (u a) (u b)) ∧
      exec (.fsqrt d a r t) s = res (Sys2Proof.Float.sqrt (u a)) ∧
      exec (.fmac d a b r t) s = res (Sys2Proof.Float.fma m (u d) (u a) (u b))) ∧
  (
    ∀ (s : State) (d a b : BitVec 5) (r t c sel : BitVec 3),
      let f := scalarFmt t
      let u := fun (z : BitVec 5) => Sys2Proof.Float.unpack f false (s.g z).toNat
      (t.toNat ≤ 1 →
        exec (.fmin d a b t) s = .next (((s.raiseF (Sys2Proof.Float.minMax false (u a) (u b)).2).setG d
          (BitVec.ofNat 64 (Sys2Proof.Float.packExact f false (Sys2Proof.Float.minMax false (u a) (u b)).1))).adv) ∧
        exec (.fmax d a b t) s = .next (((s.raiseF (Sys2Proof.Float.minMax true (u a) (u b)).2).setG d
          (BitVec.ofNat 64 (Sys2Proof.Float.packExact f false (Sys2Proof.Float.minMax true (u a) (u b)).1))).adv)) ∧
      (t.toNat ≤ 1 → c.toNat ≤ 4 →
        exec (.fcmp d a b c t) s = .next (((s.raiseF (Sys2Proof.Float.compare c.toNat (u a) (u b)).2).setG d
          (if (Sys2Proof.Float.compare c.toNat (u a) (u b)).1 then 1 else 0)).adv)) ∧
      (t.toNat ≤ 3 → exec (.fclass d a t) s =
        .next ((s.setG d (BitVec.ofNat 64 (2 ^ Sys2Proof.Float.classOf f ((s.g a).toNat % 2 ^ f.bits)))).adv)) ∧
      (r ≠ 5 → r ≠ 6 → sel ≠ t → ¬ (4 ≤ sel.toNat ∧ 4 ≤ t.toNat) →
        let z := Sys2Proof.Float.convert (scalarFmt sel) f false (if r = 7 then bits s.cr.vfmt 10 8 else r.toNat) (bit s.cr.vfmt 11) s.cr.srstate
          (s.g a).toNat
        exec (.fcvt d a sel r t) s = .next ((((s.mapCr fun k => { k with srstate := z.2.2 }).raiseF z.2.1).setG d (scalarWord t z.1)).adv))) ∧
  (
    ∀ (s : State) (d a b : BitVec 5) (r t c sel : BitVec 3),
      let bad := fun n => trapOut s (illegal n s.word)
      ((2 ≤ t.toNat ∨ r = 5 ∨ r = 6) →
        exec (.fadd d a b r t) s = bad 0x04 ∧ exec (.fsub d a b r t) s = bad 0x04 ∧ exec (.fmul d a b r t) s = bad 0x04 ∧
        exec (.fdiv d a b r t) s = bad 0x04 ∧ exec (.fsqrt d a r t) s = bad 0x04 ∧ exec (.fmac d a b r t) s = bad 0x04) ∧
      (2 ≤ t.toNat → exec (.fmin d a b t) s = bad 0x04 ∧ exec (.fmax d a b t) s = bad 0x04) ∧
      ((2 ≤ t.toNat ∨ 5 ≤ c.toNat) → exec (.fcmp d a b c t) s = bad 0x04) ∧
      (4 ≤ t.toNat → exec (.fclass d a t) s = bad 0x04) ∧
      ((r = 5 ∨ r = 6) → exec (.fcvt d a sel r t) s = bad 0x04) ∧
      (r ≠ 5 → r ≠ 6 → (sel = t ∨ (4 ≤ sel.toNat ∧ 4 ≤ t.toNat)) → exec (.fcvt d a sel r t) s = bad 0x05))

/-- R180, R185: a number or an infinity that binary16, binary32 or binary64 holds is rounded to its own code in every mode but SR,
without a flag. R236: a comparison with a NaN is false but for unordered and not-equal; zeros of both signs are equal. R250, R189:
the special cases of the unary functions; 2^x of an integer below 4,096 in magnitude is that power of two, the logarithm of a power
of two is its exponent, and the reciprocal of a power of two is the inverse power, each exact and without a flag. R189: operations
on infinities and NaNs: INV for ∞ − ∞, 0 · ∞ (in a fused product whatever the addend), 0/0, ∞/∞ and the root of −∞, and for a NaN
that signals; every NaN result is the quiet one. R187: one draw of the generator is the three shifts of the rule, and its eight bits
are the high ones of the new state. -/
def Obligations.FloatLaws : Prop :=
  (
    ∀ (m : Nat) (f : Sys2Proof.Float.Fmt) (c : Nat), m ≤ 3 → f ∈ [⟨.ieee, 16, 5, 10, 15⟩, Sys2Proof.Float.f32, Sys2Proof.Float.f64] → c < 2 ^ f.bits →
      (Sys2Proof.Float.unpack f false c).isNan = false → Sys2Proof.Float.round f false m false 0 (Sys2Proof.Float.unpack f false c) = (c, 0)) ∧
  (
    (∀ (x : Sys2Proof.Float.Val) (c : Nat) (b : Bool), c < 5 →
      (Sys2Proof.Float.compare c (.nan b) x).1 = decide (3 ≤ c) ∧ (Sys2Proof.Float.compare c x (.nan b)).1 = decide (3 ≤ c)) ∧
    ∀ p q : Bool, (Sys2Proof.Float.compare 0 (.zero p) (.zero q)).1 = true ∧ (Sys2Proof.Float.compare 1 (.zero p) (.zero q)).1 = false ∧
      (Sys2Proof.Float.compare 2 (.zero p) (.zero q)).1 = true ∧ (Sys2Proof.Float.compare 4 (.zero p) (.zero q)).1 = false) ∧
  (
    ∀ (b x : Bool) (m : Nat) (e : Int), 0 < m →
      let inv : BitVec 6 := 1
      let dz : BitVec 6 := 2
      Sys2Proof.Float.exp2 (.inf true) = (.zero false, 0) ∧ Sys2Proof.Float.exp2 (.inf false) = (.inf false, 0) ∧
      Sys2Proof.Float.exp2 (.zero b) = (.fin false 1 0 false, 0) ∧
      Sys2Proof.Float.log2 (.zero b) = (.inf true, dz) ∧ Sys2Proof.Float.log2 (.inf false) = (.inf false, 0) ∧
      Sys2Proof.Float.log2 (.fin true m e x) = (.nan false, inv) ∧ Sys2Proof.Float.log2 (.inf true) = (.nan false, inv) ∧
      Sys2Proof.Float.rcp (.zero b) = (.inf b, dz) ∧ Sys2Proof.Float.rcp (.inf b) = (.zero b, 0) ∧
      Sys2Proof.Float.rsqrt (.zero b) = (.inf b, dz) ∧ Sys2Proof.Float.rsqrt (.fin true m e x) = (.nan false, inv) ∧
      Sys2Proof.Float.tanh (.zero b) = (.zero b, 0) ∧ Sys2Proof.Float.tanh (.inf b) = (.fin b 1 0 false, 0) ∧
      (∀ f ∈ [Sys2Proof.Float.exp2, Sys2Proof.Float.log2, Sys2Proof.Float.rcp, Sys2Proof.Float.rsqrt, Sys2Proof.Float.tanh],
        f (.nan b) = (.nan false, if b then inv else 0)) ∧
      ∀ n k : Nat,
        (0 < n → n < 4096 →
          Sys2Proof.Float.exp2 (.fin b (n * 2 ^ k) (-(k : Int)) false) = (.fin false 1 (if b then -(n : Int) else n) false, 0)) ∧
        (0 < n → n * 2 ^ k < 4096 →
          Sys2Proof.Float.exp2 (.fin b n k false) = (.fin false 1 (if b then -(n * 2 ^ k : Int) else n * 2 ^ k) false, 0)) ∧
        Sys2Proof.Float.log2 (.fin false (2 ^ k) e false) = (.fin (decide (e + k < 0)) (e + k).natAbs 0 false, 0) ∧
        ∃ j : Nat, Sys2Proof.Float.rcp (.fin b (2 ^ k) e false) = (.fin b (2 ^ j) (-(e + k) - j) false, 0)) ∧
  (
    ∀ (mode m : Nat) (a b s : Bool) (e : Int) (x : Sys2Proof.Float.Val),
      let fin : Sys2Proof.Float.Val := .fin b m e false
      let inv : BitVec 6 := 1
      let flag := fun (v : Sys2Proof.Float.Val) => if v.signalling then inv else 0
      Sys2Proof.Float.add mode (.inf a) (.inf b) = (if a = b then (.inf a, 0) else (.nan false, inv)) ∧
      Sys2Proof.Float.add mode (.inf a) fin = (.inf a, 0) ∧ Sys2Proof.Float.add mode fin (.inf a) = (.inf a, 0) ∧
      Sys2Proof.Float.mul (.inf a) (.inf b) = (.inf (a != b), 0) ∧
      Sys2Proof.Float.mul (.inf a) fin = (if m = 0 then (.nan false, inv) else (.inf (a != b), 0)) ∧
      Sys2Proof.Float.mul fin (.inf a) = (if m = 0 then (.nan false, inv) else (.inf (a != b), 0)) ∧
      Sys2Proof.Float.fma mode (.nan s) (.inf a) (.zero b) = (.nan false, inv) ∧
      Sys2Proof.Float.fma mode (.nan s) (.zero b) (.inf a) = (.nan false, inv) ∧
      Sys2Proof.Float.fma mode (.inf (!(a != b))) (.inf a) (.inf b) = (.nan false, inv) ∧
      Sys2Proof.Float.div (.inf a) (.inf b) = (.nan false, inv) ∧ Sys2Proof.Float.div (.inf a) fin = (.inf (a != b), 0) ∧
      Sys2Proof.Float.div fin (.inf a) = (.zero (a != b), 0) ∧
      Sys2Proof.Float.sqrt (.inf a) = (if a then (.nan false, inv) else (.inf false, 0)) ∧
      Sys2Proof.Float.sqrt (.nan s) = (.nan false, if s then inv else 0) ∧
      ∀ f ∈ [Sys2Proof.Float.add mode, Sys2Proof.Float.mul, Sys2Proof.Float.div, Sys2Proof.Float.minMax false, Sys2Proof.Float.minMax true],
        f (.nan s) x = (.nan false, (if s then inv else 0) ||| flag x) ∧ f x (.nan s) = (.nan false, flag x ||| (if s then inv else 0))) ∧
  (
    ∀ (s : BitVec 32),
      let a : BitVec 32 := s ^^^ BitVec.ofNat 32 (s.toNat * 2 ^ 13)
      let b := a ^^^ BitVec.ofNat 32 (a.toNat / 2 ^ 17)
      Sys2Proof.Float.drawState s = b ^^^ BitVec.ofNat 32 (b.toNat * 2 ^ 5) ∧
      Sys2Proof.Float.drawRho s = (Sys2Proof.Float.drawState s).toNat / 2 ^ 24 ∧ (s ≠ 0 → Sys2Proof.Float.drawState s ≠ 0))

/-- R179-R184: the number that every code of a format holds. R185, R189: sums, products, fused products, quotients and square roots
of finite operands are the exact real numbers, or, where a quotient or a root has no finite binary expansion, its first 160 bits or
more with the rest marked; none sets a flag but for division by zero and the root of a negative number. Minimum and maximum give the
lesser and the greater value. The sign of a zero is that of IEEE 754, which the model presumes in log 78. -/
def Obligations.FloatValues : Prop :=
  (
    ∀ (code c : Nat) (f : Sys2Proof.Float.Fmt) (inf8 : Bool), Sys2Proof.Float.fmtOf code = some f → c < 2 ^ f.bits →
      let v := Sys2Proof.Float.unpack f inf8 c
      let holds := fun (neg : Bool) (x : Rat) => ∃ m e, v = .fin neg m e false ∧ number false m e = x
      (f.kind = .nat → holds false c) ∧
      (f.kind = .int → if c < 2 ^ (f.bits - 1) then holds false c else holds true ((2 ^ f.bits - c : Nat) : Rat)) ∧
      (f.kind = .ieee →
        let r := c % 2 ^ (f.bits - 1)
        let neg := decide (2 ^ (f.bits - 1) ≤ c)
        (r / 2 ^ f.frac < 2 ^ f.expBits - 1 → holds neg (codeMagnitude f r)) ∧
        (r / 2 ^ f.frac = 2 ^ f.expBits - 1 →
          v = if r % 2 ^ f.frac = 0 then .inf neg else .nan (decide (r % 2 ^ f.frac < 2 ^ (f.frac - 1))))) ∧
      (f.kind = .signed8 →
        if c = 0x80 then v = .nan true
        else if inf8 = true ∧ c % 128 = 0x7F then v = .inf (decide (128 ≤ c))
        else holds (decide (128 ≤ c)) (codeMagnitude f (c % 128))) ∧
      (f.kind = .unsigned8 →
        if c = 0xFF then v = .nan true else if inf8 = true ∧ c = 0xFE then v = .inf false else holds false (codeMagnitude f c))) ∧
  (
    ∀ (mode m n j : Nat) (a b c : Bool) (e g h : Int),
      let x : Sys2Proof.Float.Val := .fin a m e false
      let y : Sys2Proof.Float.Val := .fin b n g false
      let z : Sys2Proof.Float.Val := .fin c j h false
      let is := fun (r : Sys2Proof.Float.Val × BitVec 6) (v : Rat) => ∃ s k i, r = (.fin s k i false, 0) ∧ number s k i = v
      let leads := fun (r : Sys2Proof.Float.Val × BitVec 6) (neg : Bool) (below same : Rat → Prop) =>
        ∃ k i rest, r = (.fin neg k i rest, 0) ∧ 2 ^ 160 ≤ k ∧ (if rest then below (number false k i) ∧ ¬ below (number false (k + 1) i) ∧
          ¬ same (number false (k + 1) i) else same (number false k i))
      is (Sys2Proof.Float.add mode x y) (number a m e + number b n g) ∧
      is (Sys2Proof.Float.mul x y) (number a m e * number b n g) ∧ (Sys2Proof.Float.mul x y).1.neg = (a != b) ∧
      is (Sys2Proof.Float.fma mode z x y) (number c j h + number a m e * number b n g) ∧
      (number a m e + number b n g = 0 → (Sys2Proof.Float.add mode x y).1.neg = if a = b then a else decide (mode = 3)) ∧
      (0 < n → 0 < m → leads (Sys2Proof.Float.div x y) (a != b) (fun q => q < number false m e / number false n g)
        (fun q => q = number false m e / number false n g)) ∧
      (0 < n → Sys2Proof.Float.div (.fin a 0 e false) y = (.zero (a != b), 0)) ∧
      (0 < m → Sys2Proof.Float.div x (.fin b 0 g false) = (.inf (a != b), 2)) ∧
      Sys2Proof.Float.div (.fin a 0 e false) (.fin b 0 g false) = (.nan false, 1) ∧
      (0 < m → leads (Sys2Proof.Float.sqrt (.fin false m e false)) false (fun q => q * q < number false m e)
        (fun q => q * q = number false m e)) ∧
      (0 < m → Sys2Proof.Float.sqrt (.fin true m e false) = (.nan false, 1)) ∧
      Sys2Proof.Float.sqrt (.fin a 0 e false) = (.zero a, 0) ∧
      is (Sys2Proof.Float.minMax false x y) (min (number a m e) (number b n g)) ∧
      is (Sys2Proof.Float.minMax true x y) (max (number a m e) (number b n g)) ∧
      Sys2Proof.Float.minMax false (.zero a) (.zero b) = (.zero (a || b), 0) ∧
      Sys2Proof.Float.minMax true (.zero a) (.zero b) = (.zero (a && b), 0))

/-- R185-R190: a finite number that is not zero, given exactly or by its leading bits with the rest marked, rounded to a
floating-point format. Its magnitude v lies between those of the codes k and k + 1, as the format's codes go on without bound, and
the mode takes one of them; the even code on a tie in a format without fraction bits is the choice of log 34. INX is set when the
magnitude is not the code's, UNF when it also lies below the smallest normal. R188: a code beyond the largest finite one overflows.
R182: an unsigned format takes no negative number. R188, R189, R182: zeros, infinities and NaNs rounded to a floating-point format;
R189: a number rounded to an integer format, the nearest limit with INV beyond it; conversions between integer formats wrap, or
clamp when saturating, with IOV out of range, and a conversion that rounds is the rounded value of the code, a signalling NaN
setting INV. -/
def Obligations.FloatRounding : Prop :=
  (
    ∀ (code mode rho m k : Nat) (f : Sys2Proof.Float.Fmt) (inf8 sat neg rest : Bool) (e : Int) (v : Rat),
      Sys2Proof.Float.fmtOf code = some f → ¬ wholeFormat f → mode ≤ 4 → rho < 256 → 0 < m →
      (if rest then number false m e < v ∧ v < number false (m + 1) e ∧ 2 ^ (f.frac + 16) ≤ m else v = number false m e) →
      let mag := codeMagnitude f
      mag k ≤ v → v < mag (k + 1) →
      let up := takesFurther mode rho neg (k % 2 = 1) (mag k) v (mag (k + 1))
      let sign := signedCode f neg
      let largest := largestCode f inf8
      let nan := quietNan f
      let inx : BitVec 6 := 16
      let ovf : BitVec 6 := 4
      let inv : BitVec 6 := 1
      let unf : BitVec 6 := if v < mag (2 ^ f.frac) then 8 else 0
      let r := Sys2Proof.Float.round f inf8 mode sat rho (.fin neg m e rest)
      let taken := f.kind = .unsigned8 ∧ neg = true
      ∀ c, (up → c = k + 1) → (¬ up → c = k) →
        (¬ taken → c ≤ largest → r = (sign c, if v = mag c then 0 else inx ||| unf)) ∧
        (¬ taken → largest < c →
          r = if sat then (sign largest, ovf ||| inx)
            else if f.kind = .ieee then
              (if mode = 0 ∨ mode = 4 ∨ (mode = 2 ∧ neg = false) ∨ (mode = 3 ∧ neg = true) then sign (largest + 1) else sign largest, ovf ||| inx)
            else if inf8 then (sign (largest + 1), ovf ||| inx) else (nan, ovf ||| inx ||| inv)) ∧
        (taken → r = if c = 0 ∨ sat = true then (0, inx ||| unf) else (nan, inv))) ∧
  (
    (∀ (code mode rho : Nat) (f : Sys2Proof.Float.Fmt) (inf8 sat neg s : Bool) (e : Int), Sys2Proof.Float.fmtOf code = some f → ¬ wholeFormat f →
      let round := Sys2Proof.Float.round f inf8 mode sat rho
      round (.nan s) = (quietNan f, 0) ∧ round (.fin neg 0 e false) = (signedCode f neg 0, 0) ∧
      round (.inf neg) = if f.kind = .unsigned8 ∧ neg = true then (if sat then (0, 16) else (quietNan f, 1))
        else if f.kind = .ieee ∨ inf8 = true then (signedCode f neg (largestCode f inf8 + 1), 0)
        else if sat then (signedCode f neg (largestCode f inf8), 16) else (quietNan f, 1)) ∧
    (∀ (code mode rho m k : Nat) (f : Sys2Proof.Float.Fmt) (inf8 sat neg s : Bool) (e : Int), Sys2Proof.Float.fmtOf code = some f → wholeFormat f →
      mode ≤ 4 → rho < 256 →
      let lo : Int := if f.kind = .int then -2 ^ (f.bits - 1) else 0
      let hi : Int := if f.kind = .int then 2 ^ (f.bits - 1) - 1 else 2 ^ f.bits - 1
      let is := fun (r : Nat × BitVec 6) (i : Int) (fl : BitVec 6) => r.2 = fl ∧ r.1 < 2 ^ f.bits ∧ (r.1 : Int) = i % 2 ^ f.bits
      let round := Sys2Proof.Float.round f inf8 mode sat rho
      let v := number false m e
      let up := takesFurther mode rho neg (k % 2 = 1) k v ((k + 1 : Nat) : Rat)
      round (.nan s) = (0, 1) ∧ is (round (.inf neg)) (if neg then lo else hi) 1 ∧
      ((k : Rat) ≤ v → v < ((k + 1 : Nat) : Rat) → ∀ c : Nat, (up → c = k + 1) → (¬ up → c = k) →
        let i : Int := if neg then -(c : Int) else c
        (lo ≤ i → i ≤ hi → is (round (.fin neg m e false)) i (if v = c then 0 else 16)) ∧
        (i < lo → is (round (.fin neg m e false)) lo 1) ∧ (hi < i → is (round (.fin neg m e false)) hi 1))) ∧
    ∀ (src dst c mode : Nat) (f g : Sys2Proof.Float.Fmt) (inf8 sat : Bool) (gen : BitVec 32), Sys2Proof.Float.fmtOf src = some f →
      Sys2Proof.Float.fmtOf dst = some g → c < 2 ^ f.bits →
      let r := Sys2Proof.Float.convert f g inf8 mode sat gen c
      let x := Sys2Proof.Float.unpack f inf8 c
      r.2.2 = (if mode = 4 then Sys2Proof.Float.drawState gen else gen) ∧
      (wholeFormat f → wholeFormat g →
        let i : Int := if f.kind = .int ∧ 2 ^ (f.bits - 1) ≤ c then (c : Int) - 2 ^ f.bits else c
        let lo : Int := if g.kind = .int then -2 ^ (g.bits - 1) else 0
        let hi : Int := if g.kind = .int then 2 ^ (g.bits - 1) - 1 else 2 ^ g.bits - 1
        r.1 < 2 ^ g.bits ∧ r.2.1 = (if lo ≤ i ∧ i ≤ hi then 0 else 32) ∧
          (r.1 : Int) = (if sat then max lo (min hi i) else i) % 2 ^ g.bits) ∧
      (¬ (wholeFormat f ∧ wholeFormat g) →
        let z := Sys2Proof.Float.round g inf8 mode sat (if mode = 4 then Sys2Proof.Float.drawRho gen else 0) x
        r.1 = z.1 ∧ (wholeFormat g → r.2.1 = z.2) ∧ (¬ wholeFormat g → r.2.1 = z.2 ||| if x.signalling then 1 else 0)))

/-- R206, R377: `crr` of an assigned register that the mode may read completes with the register's value; VFSTAT is read once none
of the thread's commands and queued instructions is outstanding. R206, R207: what the read-only control registers read: VW is 2,048,
CORELOC names the core, and the constants of the table. R206, R377, R19, R52, R186, R391: `crw` completes where the mode may write
the register, and the register holds of the value written what its table keeps: flags clear where a 1 is written, read-only
registers keep theirs, CTXID takes what CTXALW allows; every other control register, the general and pointer registers and memory
are as they were. -/
def Obligations.ControlAccess : Prop :=
  (
    ∀ (s : State) (d : BitVec 5) (c : BitVec 11), ctrlAssigned c.toNat = true → (s.user = true → ctrlUserRead c.toNat = true) →
      (c = 0x19 → s.thr.opens = [] ∧ s.queuedUnits s.thr.uid = []) →
      exec (.crr d c) s = .next (s.setG d (s.ctrl c.toNat)).adv) ∧
  (
    ∀ s : State, s.ctrl 0x0B = 2048 ∧ s.ctrl 0x0D = coreloc s.loc ∧ s.ctrl 0x08 = s.thr.ctxid.zeroExtend 64 ∧
      s.ctrl 0x0C = s.thr.gtid ∧ s.ctrl 0x0E = s.thr.prio.zeroExtend 64 ∧ s.ctrl 0x30 = (s.module (locModule s.loc)).health) ∧
  (
    ∀ (s : State) (a : BitVec 5) (c : BitVec 11), s.issuing → ctrlAssigned c.toNat = true →
      (s.user = true → ctrlUserWrite c.toNat = true) →
      let n := c.toNat
      let v := s.g a
      (n = 8 → ctxAllowed s.cr.ctxalw (v.toNat % 2 ^ 16) = true) →
      ∃ t : State, exec (.crw a c) s = .next t.adv ∧ t.ctrl n = ctrlTakes n (s.ctrl n) v ∧
        (∀ j, j ≠ n → t.ctrl j = s.ctrl j) ∧ (∀ r, t.g r = s.g r) ∧ (∀ r : BitVec 3, t.p r = s.p r) ∧ t.pc = s.pc ∧
        ∀ key pa, t.readByte key pa = s.readByte key pa)

/-- R377, R206: `crs` and `crc` of an assigned register complete where the mode may read and write it, `crc` also on the flags that
user mode may clear: the old value goes to G[d], and the register takes the old value with the bits set or cleared as a write of it
would; `crs` leaves a flag register as it is, `crc` clears the flags named. Every other register and memory are as they were. R206,
R376, R19: an access to a control register that user mode does not have takes PRIV, by any of the four instructions; an unassigned
number takes ILLEGAL with outcome 0x04 first; a context that CTXALW does not allow takes PRIV with outcome 1. -/
def Obligations.ControlSetsClearsAndTraps : Prop :=
  (
    ∀ (s : State) (d a : BitVec 5) (c : BitVec 11), s.issuing → ctrlAssigned c.toNat = true →
      let n := c.toNat
      let old := s.ctrl n
      let x := s.g a
      let flags := n = 0x19 ∨ n = 0x1A ∨ n = 0x23
      let may := ctrlUserRead n = true ∧ ctrlUserWrite n = true
      let leaves := fun (t : State) => (d ≠ 0 → t.g d = old) ∧ (∀ r, r ≠ d → t.g r = s.g r) ∧ (∀ j, j ≠ n → t.ctrl j = s.ctrl j) ∧
        (∀ r : BitVec 3, t.p r = s.p r) ∧ t.pc = s.pc ∧ ∀ key pa, t.readByte key pa = s.readByte key pa
      ((s.user = true → may) → (n = 8 → ctxAllowed s.cr.ctxalw ((old ||| x).toNat % 2 ^ 16) = true) →
        ∃ t : State, exec (.crs d a c) s = .next t.adv ∧ leaves t ∧
          t.ctrl n = (if flags then old else ctrlTakes n old (old ||| x))) ∧
      ((s.user = true → may ∨ flags) → (n = 8 → ctxAllowed s.cr.ctxalw ((old &&& ~~~x).toNat % 2 ^ 16) = true) →
        ∃ t : State, exec (.crc d a c) s = .next t.adv ∧ leaves t ∧
          t.ctrl n = (if flags then old &&& ~~~x else ctrlTakes n old (old &&& ~~~x)))) ∧
  (
    ∀ (s : State) (d a : BitVec 5) (c : BitVec 11),
      (ctrlAssigned c.toNat = false → ∀ i ∈ [Instr.crr d c, .crw a c, .crs d a c, .crc d a c],
        exec i s = trapOut s (illegal 0x04 s.word)) ∧
      (ctrlAssigned c.toNat = true → s.user = true →
        (ctrlUserRead c.toNat = false → ∀ i ∈ [Instr.crr d c, .crs d a c, .crc d a c], exec i s = trapOut s privTrap) ∧
        (ctrlUserWrite c.toNat = false → ∀ i ∈ [Instr.crw a c, .crs d a c], exec i s = trapOut s privTrap) ∧
        (ctrlUserWrite c.toNat = false → c ∉ [0x19#11, 0x1A#11, 0x23#11] → exec (.crc d a c) s = trapOut s privTrap)) ∧
      (s.user = false → c = 8 → ctxAllowed s.cr.ctxalw ((s.g a).toNat % 2 ^ 16) = false →
        exec (.crw a c) s = trapOut s (trapInfo 0x03 0x01 0)))

/-- R380, R205, R378: a trap of a thread on one core, outside a shadow handler, with its vector below EXB: the PC and the high part
of the address are saved in EPC, the cause, outcome, level and count in ECAUSE, the address in EADDR; USER moves to PUSER, the
thread is in supervisor mode and in a handler, and it goes on at EVEC, or at OVLV for an OVERLAY whose vector is below EXB. R55: a
trap whose vector lies at or above EXB stops the slot, with the trap's state written, an OVERLAY once OVLV and EVEC both lie there;
R435: so does one of a shadow handler. R398, R391, R396: a trap taken in an alloy of n cores parts it first: ASTAT holds the cause
2, the size, the member that met the trap, and REFORM, each other member is handed back, and EPC is the trapping instruction. The
member is the one whose load-store queue held the access of a data trap, bits 9:6 of its address modulo n; for every other trap it
is the member that runs the block (R395). R382: `trap` takes SYSCALL and `brk` BREAK, each with its number as outcome and EADDR 0.
-/
def Obligations.TrapEntry : Prop :=
  (
    ∀ (s : State) (l k : Nat) (i : TrapInfo), s.cur = .slot l k → k < 5 → s.thr.alloy = 0 → bit s.thr.status 3 = false →
      let exb := s.cr.exb.toNat
      let vec := if i.cause = 0x08 ∧ s.cr.ovlv.toNat < exb then s.cr.ovlv else s.cr.evec
      vec.toNat < exb →
      ∃ t : State, trapOut s i = .next t ∧
        t.thr.epc = BitVec.ofNat 64 (s.pc.toNat + i.value.toNat / 2 ^ 64 * 2 ^ 48) ∧
        t.thr.ecause = BitVec.ofNat 64 (i.cause % 256 + 256 * (i.outcome % 256) + 65536 * (i.level % 8) + 2 ^ 24 * min i.count 255) ∧
        t.thr.eaddr = i.value.truncate 64 ∧
        t.user = false ∧ bit t.thr.status 1 = s.user ∧ t.inh = true ∧ bits t.thr.status 31 3 = bits s.thr.status 31 3 ∧
        t.pc = BitVec.ofNat 16 vec.toNat ∧ t.thr.st = s.thr.st ∧
        (∀ r, t.g r = s.g r) ∧ (∀ r : BitVec 3, t.p r = s.p r) ∧ (∀ r, t.v r = s.v r) ∧
        ∀ key pa, t.readByte key pa = s.readByte key pa) ∧
  (
    ∀ (s : State) (l k : Nat) (i : TrapInfo), s.cur = .slot l k → k < 5 → s.thr.alloy = 0 →
      (bit s.thr.status 3 = true ∨ (s.cr.exb.toNat ≤ s.cr.evec.toNat ∧ (i.cause = 0x08 → s.cr.exb.toNat ≤ s.cr.ovlv.toNat))) →
      ∃ t : State, trapOut s i = .next t ∧ t.thr.st = .stopped ∧ t.user = false ∧ bit t.thr.status 1 = s.user ∧ t.inh = true ∧
        t.thr.epc = BitVec.ofNat 64 (s.pc.toNat + i.value.toNat / 2 ^ 64 * 2 ^ 48) ∧
        t.thr.ecause = BitVec.ofNat 64 (i.cause % 256 + 256 * (i.outcome % 256) + 65536 * (i.level % 8) + 2 ^ 24 * min i.count 255) ∧
        t.thr.eaddr = i.value.truncate 64) ∧
  (
    ∀ (s : State) (l k : Nat) (i : TrapInfo), s.cur = .slot l k → k < 5 → s.thr.alloy ∈ [2, 4, 8] →
      let n := s.thr.alloy
      ∃ t : State, trapOut s i = .next t ∧ t.thr.alloy = 0 ∧ bits t.thr.astat 15 8 = 2 ∧ bits t.thr.astat 19 16 = n ∧
        bits t.thr.astat 27 24 = (if i.data then bits i.value 9 6 % n else
          Nat.xor (s.pc.toNat / 64 % 8) (s.pc.toNat / 512 % 8) % n) ∧
        bit t.thr.astat 31 = true ∧ bits t.thr.astat 3 0 = bits s.thr.astat 3 0 ∧
        (∀ m ∈ groupOf l n, m ≠ l → .alloyMemberFree m ∈ t.pending) ∧
        t.thr.epc = BitVec.ofNat 64 (s.pc.toNat + i.value.toNat / 2 ^ 64 * 2 ^ 48) ∧ bits t.thr.ecause 7 0 = i.cause % 256 ∧
        ∀ r, t.thr.g.get r = s.thr.g.get r) ∧
  (
    ∀ (s : State) (l k : Nat) (n : BitVec 8), s.cur = .slot l k → k < 5 → s.thr.alloy = 0 → bit s.thr.status 3 = false →
      s.cr.evec.toNat < s.cr.exb.toNat →
      ∀ p ∈ [(Instr.trap n, 0x14), (.brk n, 0x11)],
        ∃ t : State, exec p.1 s = .next t ∧ t.pc = BitVec.ofNat 16 s.cr.evec.toNat ∧ t.thr.epc = BitVec.ofNat 64 s.pc.toNat ∧
          t.thr.ecause = BitVec.ofNat 64 (p.2 + 256 * n.toNat) ∧ t.thr.eaddr = 0 ∧ t.user = false ∧ bit t.thr.status 1 = s.user ∧
          t.inh = true ∧ ∀ r, t.g r = s.g r)

/-- R383, R435: `eret` in supervisor mode completes: the PC is EPC's, a multiple of four, USER is PUSER, the handler is left; the
instruction returned to is not tested against the PC-match table. R384, R113: `idle` on an aligned word that differs from G[b]
completes, at domain scope once the thread's release stores of that scope have performed; while they are equal the thread stays at
the instruction. R385, R177: `safe` outside a body completes: without a request it only goes on; asked to stop in a task slot,
outside a handler and without streams, with a free parking slot, the task leaves its slot. R386: `halt` in supervisor mode
completes: the slot stops behind it with its registers kept. -/
def Obligations.LeavingResults : Prop :=
  (
    ∀ (s : State), s.issuing → s.user = false → bit s.thr.astat 31 = false →
      ∃ t : State, exec .eret s = .next t ∧ t.pc = BitVec.ofNat 16 (s.thr.epc.toNat % 2 ^ 16 / 4 * 4) ∧ t.user = bit s.thr.status 1 ∧
        t.inh = false ∧ bit t.thr.status 1 = bit s.thr.status 1 ∧ bits t.thr.status 31 3 = bits s.thr.status 31 3 ∧
        t.thr.exempt = true ∧ (∀ r, t.g r = s.g r) ∧ (∀ r : BitVec 3, t.p r = s.p r) ∧
        ∀ key pa, t.readByte key pa = s.readByte key pa) ∧
  (
    ∀ (s : State) (a sel : BitVec 3) (b : BitVec 5) (x : List Byte), s.settled → sel.toNat ≤ 5 → (s.p a).toNat % 8 = 0 →
      (sel = 5 → ∀ r ∈ s.posted s.thr.uid, r.scope ≠ some 5) → s.quietRead (s.p a) 0 8 = some x →
      (ofBytes x ≠ (s.g b).toNat → exec (.idle a sel b) s = .next s.adv) ∧
      (ofBytes x = (s.g b).toNat → ∃ t : State, exec (.idle a sel b) s = .next t ∧ t.pc = s.pc ∧ t.thr.st = s.thr.st)) ∧
  (
    ∀ (s : State) (l k : Nat) (n : BitVec 8), s.cur = .slot l k → k < 5 → s.ops = none → s.inBody = false →
      (bit s.cr.prectl k = false → exec (.safe n) s = .next s.adv) ∧
      (k < 4 → bit s.cr.prectl k = true → s.inh = false → bit s.thr.status 3 = false → s.thr.streams = [] → s.thr.alloy = 0 →
        (∃ p, s.cl.freePark = some p) →
        ∃ t : State, exec (.safe n) s = .next t ∧ (t.threadAt l k).st = .free ∧
          ∃ p ∈ (t.cluster (locClusterKey l)).parked, p.uid = s.thr.uid ∧ p.loc = l)) ∧
  (
    ∀ (s : State), s.issuing → s.user = false → s.thr.alloy = 0 → s.inBody = false →
      ∃ t : State, exec .halt s = .next t ∧ t.thr.st = .stopped ∧ t.pc = s.pc + 4 ∧ (∀ r, t.g r = s.g r) ∧
        (∀ r : BitVec 3, t.p r = s.p r) ∧ ∀ r, t.v r = s.v r)

/-- R375, R376: a privileged instruction in user mode takes PRIV. R203: a word that is no instruction traps at issue, by the first
check of R203 that refuses it: the zero word with ZERO_WORD, an unassigned opcode with ILLEGAL 0x00, and in every group a function
code that is not assigned with 0x01, a reserved field that is not zero with 0x02, a register field outside its file with 0x03; a
privileged instruction in user mode takes PRIV before the last two. R272: `cas2` with another size than 16 bytes, and R38, R39: a
whole-context `tlbi` that names an address or a size, trap on their operands with 0x04 and 0x05. -/
def Obligations.PrivilegedAndUndefinedWords : Prop :=
  (
    ∀ (i : Instr) (s : State), i.privileged = true → s.user = true → exec i s = trapOut s privTrap) ∧
  (
    ∀ (s : State) (w : BitVec 32),
      let op := wordField w 26 6
      let traps := fun (i : TrapInfo) => exec (.undefinedWord w) s = .next (s.takeTrap s.loc s.slotNo i)
      (w = 0 → traps (trapInfo 0x01 0 0)) ∧
      (w ≠ 0 → (op = 0 ∨ 0x39 ≤ op) → traps (illegal 0x00 w)) ∧
      (1 ≤ op → op ≤ 0x38 → (∀ r ∈ wordRows, r.names w = false) → traps (illegal 0x01 w)) ∧
      (∀ r ∈ wordRows, r.names w = true →
        let refused := fun (o : Nat) => if s.user = true ∧ r.privileged = true then privTrap else illegal o w
        ((∃ f ∈ r.reserved, wordField w f.1 f.2 ≠ 0) → traps (refused 0x02)) ∧
        ((∀ f ∈ r.reserved, wordField w f.1 f.2 = 0) → (∃ f ∈ r.registers, wordField w f.1 f.2 ≠ 0) → traps (refused 0x03))) ∧
      (op = 0x1C → wordField w 7 4 = 0xA → wordField w 5 2 ≠ 2 → wordField w 3 2 = 0 → wordField w 19 2 = 0 → traps (illegal 0x04 w)) ∧
      (op = 0x25 → wordField w 16 10 = 0x20 → wordField w 3 1 = 1 → wordField w 4 4 ≠ 0 ∨ wordField w 0 3 ≠ 0 →
        (s.user = true → traps privTrap) ∧
        (s.user = false → wordField w 4 4 ≤ 11 → 1 ≤ wordField w 8 3 → wordField w 8 3 ≤ 5 → traps (illegal 0x05 w))))

/-- R38, R39: `tlbi` and its whole-context form complete in supervisor mode, with a legal scope and size, once the thread's stores
and sends have performed and fewer than 16 of its invalidations are not: the invalidation goes to its scope with the context that
G[c] names, all contexts where its bit 16 is set, and the naturally aligned range of the address. R42: `tlbsync` in supervisor mode
completes when no invalidation of the thread of its scope or narrower is unacknowledged, and keeps the thread at it while one is. -/
def Obligations.InvalidationInstructions : Prop :=
  (
    ∀ (s : State) (c : BitVec 5) (sel : BitVec 3) (z : BitVec 4) (a : BitVec 3), s.issuing → s.user = false →
      1 ≤ sel.toNat → sel.toNat ≤ 5 → s.posted s.thr.uid = [] → s.unsent s.thr.uid = [] → (s.invals.filter fun i => i.uid = s.thr.uid).length < 16 →
      let ctx := if bit (s.g c) 16 then none else some ((s.g c).truncate 16)
      let sent := fun (i : Instr) (lo : Nat) (size : Option Nat) =>
        ∃ t : State, exec i s = .next t.adv ∧ t.invals = s.invals ++ [⟨s.nextId, s.thr.uid, s.loc, sel, ctx, lo, size, false, 0, []⟩] ∧
          t.pending = s.pending ++ [.invalidate s.nextId] ∧ t.cores = s.cores ∧ t.mem = s.mem
      (z.toNat ≤ 11 → sent (.tlbi c sel z a) ((s.p a).toNat / 4 ^ (6 + z.toNat) * 4 ^ (6 + z.toNat)) (some (4 ^ (6 + z.toNat)))) ∧
      sent (.tlbiCtx c sel) 0 none) ∧
  (
    ∀ (s : State) (sel : BitVec 3), s.issuing → s.user = false → 1 ≤ sel.toNat → sel.toNat ≤ 5 →
      ((∀ i ∈ s.invals, i.uid = s.thr.uid → sel.toNat < i.scope.toNat) → exec (.tlbsync sel) s = .next s.adv) ∧
      ((∃ i ∈ s.invals, i.uid = s.thr.uid ∧ i.scope.toNat ≤ sel.toNat) → ∃ t : State, exec (.tlbsync sel) s = .next t ∧ t.pc = s.pc ∧
        t.invals = s.invals))

/-- R392-R394: `alloy` outside a body, in no alloy and no handler, with every core of the group there and under one EXB, completes:
the thread waits for the group of the size that the code names, behind the instruction; R393: it fails at once, and the thread goes
on at the next instruction, with status 2 in an alloy or a handler, with status 3 where a core of the group is not there, and with
status 4 where the cores do not all hold the leader's EXB; that the lower status is reported where several hold is the model's
choice of log 74. R396, R391: `part` outside a body completes: without an alloy it only goes on; with one of n cores the alloy is
over, ASTAT holds the cause 1 and the size, and each other member is handed back. R397: `astat` completes with 1 for no alloy, else
the size and the member that runs it. -/
def Obligations.AlloyResults : Prop :=
  (
    ∀ (s : State) (d : BitVec 5) (n : BitVec 2), s.issuing → s.inBody = false → n ≠ 0 →
      let size := 2 ^ n.toNat
      (s.thr.alloy = 0 → s.inh = false → (∀ m ∈ groupOf s.loc size, s.coreThere m = true ∧ (s.core m).exb = s.cr.exb) →
        ∃ t : State, exec (.alloy d n) s = .next t ∧ t.thr.forming = some ⟨size, some d, s.now, s.pc⟩ ∧ t.pc = s.pc + 4 ∧
          .alloyFormed s.loc s.slotNo ∈ t.pending ∧
          ∀ m ∈ groupOf s.loc size, m ≠ s.loc → (⟨s.loc, s.slotNo, size, false⟩ : Redirect) ∈ (t.core m).redirect) ∧
      let fails := fun (st : Nat) => ∃ t : State, exec (.alloy d n) s = .next t ∧ t.pc = s.pc + 4 ∧ (d ≠ 0 → t.g d = BitVec.ofNat 64 st) ∧
        bits t.thr.astat 3 0 = st ∧ t.thr.forming = s.thr.forming ∧ t.thr.alloy = s.thr.alloy ∧ t.pending = s.pending
      let free := s.thr.alloy = 0 ∧ s.inh = false
      (¬ free → fails 2) ∧
      (free → (∃ m ∈ groupOf s.loc size, s.coreThere m = false) → fails 3) ∧
      (free → (∀ m ∈ groupOf s.loc size, s.coreThere m = true) → (∃ m ∈ groupOf s.loc size, (s.core m).exb ≠ s.cr.exb) → fails 4)) ∧
  (
    ∀ (s : State) (d : BitVec 5), s.issuing →
      (s.inBody = false → s.thr.alloy = 0 → exec .part s = .next s.adv) ∧
      (s.inBody = false → s.thr.alloy ≠ 0 → s.thr.alloy < 16 →
        ∃ t : State, exec .part s = .next t ∧ t.thr.alloy = 0 ∧ bits t.thr.astat 15 8 = 1 ∧ bits t.thr.astat 19 16 = s.thr.alloy ∧
          t.pc = s.pc + 4 ∧ ∀ m ∈ groupOf s.loc s.thr.alloy, m ≠ s.loc → .alloyMemberFree m ∈ t.pending) ∧
      exec (.astat d) s = .next (s.setG d (BitVec.ofNat 64
        (if s.thr.alloy = 0 then 1 else s.thr.alloy + 16 * (locCore s.loc % s.thr.alloy)))).adv)

/-- R389, R432, R433: `trc` completes: with the cluster's trace unit off it only goes on; where the unit traces the task and the
next place of the ring is HBM of the die, neither moved nor counted, the record of 32 bytes stands there and the count of records
has gone up by one; where the ring is full, the record is dropped and counted, and so it is, by the model's choice of log 27, where
the ring lies in no such HBM. R389: `pcm.en` and `pcm.dis` in supervisor mode complete: bit 63 of the entry is set or cleared, its
other bits and the other entries stay. `pcm.ret` in a shadow handler that parted no alloy completes: the PC is the matched
instruction's, the mode as it was, the shadow bank is free, and the instruction is not tested again. -/
def Obligations.TraceAndMatchResults : Prop :=
  (
    ∀ (s : State) (a : BitVec 5) (n : BitVec 11), s.issuing →
      let ck := locClusterKey s.loc
      let traces := bit s.cl.trccfg 63 = true ∧ (bits s.cl.trccfg 31 0 = 0 ∨ bits s.cl.trccfg 31 0 = bits s.thr.gtid 63 32)
      (bit s.cl.trccfg 63 = false → exec (.trc a n) s = .next s.adv) ∧
      (traces → s.trcPlace ck = none →
        ∃ t : State, exec (.trc a n) s = .next t.adv ∧ bits t.cl.trcptr 63 32 = min (2 ^ 32 - 1) (bits s.cl.trcptr 63 32 + 1) ∧
          t.mem = s.mem ∧ t.cores = s.cores) ∧
      (∀ pa, traces → s.trcPlace ck = some pa → Memory.wf s.mem = true → s.errs = [] → (∀ i < 32, s.migOf (pa + i) = none) →
        bit (s.die (paDieKey pa)).hotcfg 63 = false → s.inContextTable pa 32 = false →
        let key := s.keyOf (paModule pa) 0
        let record := toBytes 8 s.thr.gtid.toNat ++ toBytes 8 s.now ++ [0, BitVec.ofNat 8 (s.slotNo + 16 * locCore s.loc)] ++
          toBytes 2 n.toNat ++ toBytes 2 s.pc.toNat ++ [0, 0] ++ toBytes 8 (s.g a).toNat
        ∃ t : State, exec (.trc a n) s = .next t.adv ∧ (∀ i < 32, t.readByte key (pa + i) = record.getD i 0) ∧
          (∀ j, j < pa ∨ pa + 32 ≤ j → t.readByte key j = s.readByte key j) ∧
          bits t.cl.trcptr 31 0 = (bits s.cl.trcptr 31 0 + 1) % 2 ^ 32 ∧ bits t.cl.trcptr 63 32 = bits s.cl.trcptr 63 32 ∧
          t.cores = s.cores)) ∧
  (
    ∀ (s : State) (e j : BitVec 4), s.issuing → s.user = false →
      (∀ p ∈ [(Instr.pcmEn e, true), (.pcmDis e, false)],
        ∃ t : State, exec p.1 s = .next t.adv ∧ bit (t.ctrl (0x80 + e.toNat)) 63 = p.2 ∧
          bits (t.ctrl (0x80 + e.toNat)) 62 0 = bits (s.ctrl (0x80 + e.toNat)) 62 0 ∧
          (j ≠ e → t.ctrl (0x80 + j.toNat) = s.ctrl (0x80 + j.toNat)) ∧ (∀ r, t.g r = s.g r) ∧ t.mem = s.mem) ∧
      (bit s.thr.status 3 = true → s.thr.shdAlloy = 0 →
        ∃ t : State, exec .pcmRet s = .next t ∧ t.pc = s.thr.shdPc ∧ t.user = s.thr.shdUser ∧ bit t.thr.status 3 = false ∧
          t.cr.shadowUser = none ∧ t.thr.exempt = true ∧ t.mem = s.mem))

/-- R268, R269, R255, R200, R10, R32, R75: a load of a scalar, pointer or vector register by any address mode, of a permitted and
readable place of window space or of paged space, of a scratchpad or of HBM, completes: the pointer register is updated where the
mode updates it, then the destination takes the bytes, little-endian, extended as the mnemonic says; nothing else changes but what
the translation leaves. `ldp` may not name the pointer that it updates; `vld` is never misaligned (R104). -/
def Obligations.LoadResults : Prop :=
  ∀ (s : State) (d : BitVec 5) (p : BitVec 3) (m : BitVec 2) (x : BitVec 3) (imm : BitVec 13) (u : State) (key : Nat × Nat)
    (parts : List (Nat × Nat × Nat)), s.settled → m ≠ 3 →
    let moved := fun (n : Nat) => s.p p + BitVec.ofInt 80 (imm.toInt * n)
    let at_ := fun (n : Nat) => if m = 1 then s.p p else moved n
    let after := fun (n : Nat) => u.moved p (if m = 0 then none else some (moved n))
    let there := fun (n : Nat) => s.accessAt .load (at_ n) x.toNat n = some (u, key, parts)
    let reads := fun (n : Nat) => s.aligned (at_ n) n ∧ there n
    let v := ofBytes (u.bytesUnder key parts)
    (reads 1 → exec (.ldN8 d p m x imm) s = .next ((after 1).setG d (BitVec.ofNat 64 v)).adv ∧
      exec (.ldI8 d p m x imm) s = .next ((after 1).setG d ((BitVec.ofNat 8 v).signExtend 64)).adv) ∧
    (reads 2 → exec (.ldN16 d p m x imm) s = .next ((after 2).setG d (BitVec.ofNat 64 v)).adv ∧
      exec (.ldI16 d p m x imm) s = .next ((after 2).setG d ((BitVec.ofNat 16 v).signExtend 64)).adv) ∧
    (reads 4 → exec (.ldN32 d p m x imm) s = .next ((after 4).setG d (BitVec.ofNat 64 v)).adv ∧
      exec (.ldI32 d p m x imm) s = .next ((after 4).setG d ((BitVec.ofNat 32 v).signExtend 64)).adv) ∧
    (reads 8 → exec (.ldI64 d p m x imm) s = .next ((after 8).setG d (BitVec.ofNat 64 v)).adv) ∧
    (reads 16 → (m ≠ 0 → d.toNat % 8 ≠ p.toNat) →
      exec (.ldp d p m x imm) s = .next ((after 16).setP d (BitVec.ofNat 80 v)).adv) ∧
    (there 256 → s.unbound → exec (.vld d p m x imm) s = .next ((after 256).setV d (BitVec.ofNat 2048 v)).adv)

/-- R268, R269, R255, R200, R10, R32, R75: a scalar or vector store by any address mode, to a permitted place of window space or of
paged space, of a scratchpad or of HBM, completes: memory holds the low bytes of the register at the places of the address, every
other byte and every register is as it was behind the translation, and the pointer register is updated where the mode updates it.
Under another key than the store's, the bytes of the 64-byte units that it touches are the part's to say. `stp` may not name the
pointer that it updates; `vst` is never misaligned (R104). -/
def Obligations.StoreResults : Prop :=
  ∀ (s : State) (d : BitVec 5) (p : BitVec 3) (m : BitVec 2) (x : BitVec 3) (imm : BitVec 13) (u : State) (key : Nat × Nat)
    (parts : List (Nat × Nat × Nat)), s.settled → s.unbound → Memory.wf u.mem = true → m ≠ 3 →
    ∀ e ∈ [(Instr.st8 d p m x imm, toBytes 1 (s.g d).toNat), (.st16 d p m x imm, toBytes 2 (s.g d).toNat),
        (.st32 d p m x imm, toBytes 4 (s.g d).toNat), (.st64 d p m x imm, toBytes 8 (s.g d).toNat),
        (.stp d p m x imm, toBytes 16 (s.p d).toNat), (.vst d p m x imm, toBytes 256 (s.v d).toNat)],
      let moved := s.p p + BitVec.ofInt 80 (imm.toInt * e.2.length)
      let at_ := if m = 1 then s.p p else moved
      (e.2.length ≠ 256 → s.aligned at_ e.2.length) → (e.2.length = 16 → m ≠ 0 → d.toNat % 8 ≠ p.toNat) → 
      s.accessAt .store at_ x.toNat e.2.length = some (u, key, parts) →
      ∃ t : State, exec e.1 s = .next t ∧ u.OnlyPointer t p (if m = 0 then none else some moved) ∧ u.StoredUnder t key parts e.2

/-- R270, R271, R88, R10, R32: an ordered load of an aligned, readable place of window or paged space completes with its value, and
an ordered store to a permitted one with its bytes in memory, once the thread's messages to inboxes in its scope have been sent, and
at a wide scope its posted stores are acknowledged and none has failed. R274-R276, R114, R88: a fence of a legal scope completes
once the thread's posted stores are acknowledged where the scope is wide, and, for a fence of writes, its messages to inboxes in the
scope have been sent; an `xfence` of named paths completes, with what it waits for noted, once the posted stores are acknowledged
where it fences path C at a wide scope; `wait` completes when no more posted stores, messages and commands of each class are
outstanding than it allows, and keeps the thread at it otherwise. -/
def Obligations.OrderingResults : Prop :=
  (
    ∀ (s : State) (d a b : BitVec 5) (sel z x : BitVec 3) (u : State) (key : Nat × Nat) (parts : List (Nat × Nat × Nat)), s.settled →
      sel.toNat ≤ 5 →
      let l := u.bytesUnder key parts
      (z ≠ 7 → (s.p a).toNat % 2 ^ (z.toNat / 2) = 0 → (sel = 5 → ∀ r ∈ s.posted s.thr.uid, r.scope ≠ some 5) →
        s.accessAt .load (s.p a) x.toNat (2 ^ (z.toNat / 2)) = some (u, key, parts) →
        exec (.lda d a sel z x) s = .next (u.setG d
          (if z = 1 then (BitVec.ofNat 8 (ofBytes l)).signExtend 64 else if z = 3 then (BitVec.ofNat 16 (ofBytes l)).signExtend 64
           else if z = 5 then (BitVec.ofNat 32 (ofBytes l)).signExtend 64 else BitVec.ofNat 64 (ofBytes l))).adv) ∧
      (z.toNat ≤ 3 → (s.p a).toNat % 2 ^ z.toNat = 0 → Memory.wf u.mem = true →
        s.accessAt .store (s.p a) x.toNat (2 ^ z.toNat) = some (u, key, parts) →
        s.ordered sel →
        ∃ t : State, exec (.stl a b sel z x) s = .next t ∧ u.StoredUnder t key parts (toBytes (2 ^ z.toNat) (s.g b).toNat) ∧
          t.pc = s.adv.pc ∧ (∀ r, r ∉ s.counting → t.g r = s.g r) ∧ ∀ r : BitVec 3, t.p r = s.p r)) ∧
  (
    ∀ (s : State) (sel3 p3 q3 : BitVec 3) (p q : BitVec 2) (l sel : BitVec 6) (c t : BitVec 5) (m : BitVec 4), s.issuing →
      let enough := (s.posted s.thr.uid).length + (s.unsent s.thr.uid).length ≤ sel.toNat ∧ s.thr.outstanding .cp ≤ c.toNat ∧ s.thr.outstanding .tl ≤ t.toNat ∧
        s.thr.outstanding .mx ≤ m.toNat
      (sel3.toNat ≤ 5 → p ≠ 0 → q ≠ 0 → (4 ≤ sel3.toNat → s.storesDone) → (p ≠ 1 → s.sendsDone sel3) →
        exec (.fence sel3 p q) s = .next s.adv) ∧
      (sel3.toNat ≤ 5 → p3.toNat ≤ 4 → q3.toNat ≤ 4 → (p3 = 0 → 4 ≤ sel3.toNat → s.storesDone) →
        ∃ (t : State) (pp qq : Path), exec (.xfence sel3 p3 q3) s = .next t ∧ s.Leaves t s.counting [] [] [] s.repeating ∧ t.pc = s.adv.pc ∧
          pp = [Path.c, .m, .x, .n, .s].getD p3.toNat .c ∧ qq = [Path.c, .m, .x, .n, .s].getD q3.toNat .c ∧
          (s.fenced pp sel3 ≠ [] → (⟨pp, qq, sel3, s.fenced pp sel3⟩ : XEdge) ∈ t.thr.xedges) ∧
          ∀ e ∈ s.thr.xedges, s.edgeHolds e = true → e ∈ t.thr.xedges) ∧
      (enough → exec (.wait l sel c t m) s = .next s.adv) ∧
      (¬ enough → ∃ t' : State, exec (.wait l sel c t m) s = .next t' ∧ t'.pc = s.pc))

/-- R272, R273, R76, R10, R32: an atomic of 4 or 8 bytes on an aligned, permitted place of the module, of window or paged space,
completes: memory holds the new value, G[d] the old one (sign-extended by the signed minimum and maximum), and nothing else changes.
R273: `cas2` with even registers on an aligned, permitted place of 16 bytes completes: memory takes the pair G[b], G[b + 1] where it
held the pair G[d], G[d + 1], and stays otherwise; the pair at d takes what memory held. -/
def Obligations.AtomicResults : Prop :=
  (
    ∀ (s : State) (d a b : BitVec 5) (z : BitVec 2) (x : BitVec 3) (pa : Nat) (u : State) (key : Nat × Nat), s.settled → Memory.wf u.mem = true →
      z.toNat ≤ 1 →
      let n := 4 * 2 ^ z.toNat
      let w := 8 * n
      let old := ofBytes (u.readBytes key pa n)
      let y := (s.g b).toNat % 2 ^ w
      let sg := fun (v : Nat) => (BitVec.ofNat w v).toInt
      (s.p a).toNat % n = 0 → s.accessAt .atomic (s.p a) x.toNat n = some (u, key, [(pa, 0, n)]) →
      (∀ e ∈ [(Instr.amoAdd d a b z x, (old + y) % 2 ^ w), (.amoAnd d a b z x, old &&& y), (.amoOr d a b z x, old ||| y),
          (.amoXor d a b z x, old ^^^ y), (.amoMin d a b z x, if sg y < sg old then y else old),
          (.amoMax d a b z x, if sg old < sg y then y else old), (.amoMinn d a b z x, min old y), (.amoMaxn d a b z x, max old y),
          (.amoSwap d a b z x, y), (.cas d a b z x, if old = (s.g d).toNat % 2 ^ w then y else old)],
        ∃ t : State, exec e.1 s = .next t.adv ∧ u.StoredUnder t key [(pa, 0, n)] (toBytes n e.2) ∧ t.pc = s.pc ∧
          (d ≠ 0 → t.g d = (match e.1 with
            | .amoMin _ _ _ _ _ => BitVec.ofInt 64 (sg old)
            | .amoMax _ _ _ _ _ => BitVec.ofInt 64 (sg old)
            | _ => BitVec.ofNat 64 old)) ∧
          (∀ r, r ≠ d → t.g r = s.g r) ∧ (∀ r : BitVec 3, t.p r = s.p r) ∧ ∀ c, c ≠ 0x1A → t.ctrl c = s.ctrl c) ∧
      (let f := if z = 1 then Sys2Proof.Float.f64 else Sys2Proof.Float.f32
        let e := Sys2Proof.Float.add 0 (Sys2Proof.Float.unpack f false old) (Sys2Proof.Float.unpack f false y)
        let r := Sys2Proof.Float.round f false 0 false 0 e.1
        ∃ t : State, exec (.famoAdd d a b z x) s = .next t.adv ∧ u.StoredUnder t key [(pa, 0, n)] (toBytes n r.1) ∧ t.pc = s.pc ∧
          (d ≠ 0 → t.g d = BitVec.ofNat 64 old) ∧ (∀ r, r ≠ d → t.g r = s.g r) ∧
          t.ctrl 0x1A = s.ctrl 0x1A ||| (e.2 ||| r.2).zeroExtend 64)) ∧
  (
    ∀ (s : State) (d a b : BitVec 5) (x : BitVec 3) (pa : Nat) (u : State) (key : Nat × Nat), s.settled → Memory.wf u.mem = true →
      d.toNat % 2 = 0 → b.toNat % 2 = 0 →
      let old := ofBytes (u.readBytes key pa 16)
      let pair := fun (r : BitVec 5) => (s.g r).toNat + 2 ^ 64 * (s.g (r + 1)).toNat
      (s.p a).toNat % 16 = 0 → s.accessAt .atomic (s.p a) x.toNat 16 = some (u, key, [(pa, 0, 16)]) →
      ∃ t : State, exec (.cas2 d a b x) s = .next t.adv ∧
        u.StoredUnder t key [(pa, 0, 16)] (toBytes 16 (if old = pair d then pair b else old)) ∧ t.pc = s.pc ∧
        (d ≠ 0 → t.g d = BitVec.ofNat 64 old) ∧ t.g (d + 1) = BitVec.ofNat 64 (old / 2 ^ 64) ∧
        ∀ r, r ≠ d → r ≠ d + 1 → t.g r = s.g r)

/-- R257, R258: an indexed, strided or transposing load, with every active element readable, completes: the active elements take
their bytes, inactive ones, other registers and memory keep theirs. Where the context asks for alignment, the active elements and,
with one of them, the address itself are aligned (R104); that no access is made, and nothing traps, where no element is active,
whatever the address, is the reading of log 89. R257, R59: `vldt` from a ready tile of the element's size completes: lane i of
register d + j takes the element in row i and column G[b] + j where the lane is active and the tile holds it. -/
def Obligations.VectorLoadResults : Prop :=
  (
    ∀ (s : State) (d a b : BitVec 5) (q : BitVec 3) (z : BitVec 2) (x : BitVec 3) (l : Nat → Nat → List Byte), s.settled → s.unbound →
      let n := 2 ^ z.toNat
      let act := fun (i : Nat) => i < 256 / n ∧ bit (s.q q) (n * i) = true
      let strided := fun (i : Nat) => s.p a + BitVec.ofInt 80 (i * (s.g b).toInt)
      let indexed := fun (i : Nat) => s.p a + BitVec.ofInt 80 ((BitVec.ofNat (8 * n) (lane (s.v b) n i)).toInt * n)
      let readable := fun (va : Ptr) (i j : Nat) => s.aligned va n ∧ s.quietRead va x.toNat n = some (l i j)
      (∀ i, act i → s.aligned (s.p a) n) →
      let one := fun (t : State) => t.pc = s.adv.pc ∧ (∀ r, r ≠ d → t.v r = s.v r) ∧ (∀ r, r ∉ s.counting → t.g r = s.g r) ∧
        (∀ key pa, t.readByte key pa = s.readByte key pa) ∧
        ∀ i < 256 / n, lane (t.v d) n i = if bit (s.q q) (n * i) then ofBytes (l i 0) else lane (s.v d) n i
      ((∀ i, act i → readable (indexed i) i 0) → ∃ t : State, exec (.vldx d a b q z x) s = .next t ∧ one t) ∧
      ((∀ i, act i → readable (strided i) i 0) → ∃ t : State, exec (.vldw d a b q z x) s = .next t ∧ one t) ∧
      (d.toNat % 8 = 0 → (∀ i, act i → ∀ j < 8, readable (strided i + BitVec.ofNat 80 (j * n)) i j) →
        ∃ t : State, exec (.vldt d a b q z x) s = .next t ∧ t.pc = s.adv.pc ∧
          (∀ r : BitVec 5, r.toNat < d.toNat ∨ d.toNat + 8 ≤ r.toNat → t.v r = s.v r) ∧
          (∀ key pa, t.readByte key pa = s.readByte key pa) ∧
          ∀ j < 8, ∀ i < 256 / n, lane (t.v (d + BitVec.ofNat 5 j)) n i =
            if bit (s.q q) (n * i) then ofBytes (l i j) else lane (s.v (d + BitVec.ofNat 5 j)) n i)) ∧
  (
    ∀ (s : State) (d a b : BitVec 5) (q : BitVec 3) (z : BitVec 2), s.settled → s.unbound → s.errs = [] → s.softs = [] → d.toNat % 8 = 0 →
      let n := 2 ^ z.toNat
      let e := s.tile s.loc a.toNat
      let col := (s.g b).toNat
      let place := fun (i j : Nat) => (tileParts s.loc e (tileBase e + i * tilePitch e + (col + j) * n) n).parts
      let taken := fun (i j : Nat) => bit (s.q q) (n * i) = true ∧ i < tileRows e ∧ col + j < tileCols e
      tileV e = true → tileState e = 2 → Sys2Proof.Float.fmtBytes (tileFmt e) = n →
      (∀ i < 256 / n, ∀ j < 8, taken i j → s.refusalOf s.coreWho (place i j) = none) →
      ∃ t : State, exec (.vldtTile d a b q z) s = .next t ∧ t.pc = s.adv.pc ∧
        (∀ r : BitVec 5, r.toNat < d.toNat ∨ d.toNat + 8 ≤ r.toNat → t.v r = s.v r) ∧
        (∀ key pa, t.readByte key pa = s.readByte key pa) ∧
        ∀ j < 8, ∀ i < 256 / n, lane (t.v (d + BitVec.ofNat 5 j)) n i =
          if bit (s.q q) (n * i) = true ∧ i < tileRows e ∧ col + j < tileCols e then ofBytes (s.bytesAt (place i j))
          else lane (s.v (d + BitVec.ofNat 5 j)) n i)

/-- R257, R258: an indexed or strided store, with every active element's place permitted, completes: the elements are stored in
ascending lane order, so that the highest lane prevails; every byte that no active element reaches, and every register, is as it
was. That no access is made where no element is active is the reading of log 89. -/
def Obligations.VectorStoreResults : Prop :=
  ∀ (s : State) (d a b : BitVec 5) (q : BitVec 3) (z : BitVec 2) (x : BitVec 3) (ps : Nat → List (Nat × Nat × Nat)),
    s.settled → s.unbound → Memory.wf s.mem = true →
    let n := 2 ^ z.toNat
    let act := fun (i : Nat) => i < 256 / n ∧ bit (s.q q) (n * i) = true
    let byte := fun (i pa : Nat) => storedAt (ps i) (toBytes n (lane (s.v d) n i)) pa
    ∀ e ∈ [(Instr.vstx d a b q z x, fun (i : Nat) => s.p a + BitVec.ofInt 80 ((BitVec.ofNat (8 * n) (lane (s.v b) n i)).toInt * n)),
        (.vstw d a b q z x, fun (i : Nat) => s.p a + BitVec.ofInt 80 (i * (s.g b).toInt))],
      (∀ i, act i → s.aligned (s.p a) n ∧ s.aligned (e.2 i) n ∧ s.quietParts .store (e.2 i) x.toNat n = some (ps i)) →
      ∃ t : State, exec e.1 s = .next t ∧ t.pc = s.adv.pc ∧ (∀ r, t.v r = s.v r) ∧ (∀ r, r ∉ s.counting → t.g r = s.g r) ∧
        (∀ key pa, (∀ i, act i → byte i pa = none) → t.readByte key pa = s.readByte key pa) ∧
        ∀ key pa i y, act i → byte i pa = some y → (∀ j, i < j → act j → byte j pa = none) → t.readByte key pa = y

/-- R10, R12, R13: an address of window space translates to the place that it names, at the key slot 0, where the bits that R10 asks
for are zero, the unit is there, no load names a message window, and a permission register grants the right that the access needs;
otherwise it ends with ACCESS, outcome 0. R27, R30: the entries that are malformed at a level. R25, R31: the place that a leaf gives
an address: in its frame, or, of a striped leaf, in the share of the stripe's module. R32-R36, R20, R28, R29: the translation of an
address of paged space where the tables lie in the module of the unit and nothing has a soft error. A TLB entry of the smallest page
that matches, grants the access and, for a store or atomic, is dirty translates it, and the larger entries that match are dropped.
Otherwise a matching entry is dropped (R29, for a store that finds it clean the choice of log 11) and the walk begins, at the
context's entry and then at the lowest table that the walk cache holds: the page fault of the access with the outcome and the level
at which it stops, or the leaf, which goes to the TLB with A, and D for a store or atomic, set in it and in memory. -/
def Obligations.TranslationResults : Prop :=
  (
    ∀ (s : State) (w : Who) (k : AccessKind) (va : Ptr), bits va 79 76 = 0xF →
      let m := bits va 75 66
      let d := bits va 65 62
      let lv := bits va 61 60
      let cl := bits va 59 54
      let core := bits va 53 50
      let off := bits va 49 0
      let message := lv = 0 ∧ bit va 49 = true
      let zero := if lv = 0 then bits va 48 36 = 0 ∧ (bit va 49 = true → bits va 35 6 = 0)
        else if lv = 1 then bits va 49 16 = 0
        else if lv = 2 then core = 0 ∧ bits va 49 21 = 0
        else cl = 0 ∧ core = 0 ∧ bits va 49 28 = 0
      let right := fun (e : Word) => match k with
        | .load => bit e 62 = true
        | .store => if message then bit e 60 = true else bit e 61 = true
        | .atomic => ¬ message ∧ bit e 61 = true ∧ bit e 62 = true
      let granted := ∃ e ∈ w.winp, bit e 63 = true ∧ bits e 59 58 = lv ∧ bits e 57 48 ≤ m ∧ m ≤ bits e 47 38 ∧
        bits e 37 34 ≤ d ∧ d ≤ bits e 33 30 ∧ (lv = 3 ∨ (bits e 29 24 ≤ cl ∧ cl ≤ bits e 23 18)) ∧ right e
      let stands := s.placeThere m d (if message then 1 else lv) cl core (if message then 0 else if lv = 0 then bits va 35 0 else off) = true
      let place := m * 2 ^ 54 + d * 2 ^ 50 + if lv = 0 then 2 ^ 49 + cl * 2 ^ 40 + core * 2 ^ 36 + bits va 35 0
        else 2 ^ 48 + lv * 2 ^ 46 + cl * 2 ^ 40 + core * 2 ^ 36 + off
      let size := if lv = 0 then 2 ^ 36 else if lv = 1 then 2 ^ 16 else if lv = 2 then 2 ^ 21 else 2 ^ 28
      (zero ∧ stands ∧ ¬ (message ∧ k = .load) ∧ granted →
        (translate w k va).run s = .ok ⟨place, 0, size - (if lv = 0 then bits va 35 0 else off), true⟩ s) ∧
      (¬ (zero ∧ stands ∧ ¬ (message ∧ k = .load) ∧ granted) →
        (translate w k va).run s = .error (.trap ⟨0x09, 0, 0, 0, va, true⟩) s)) ∧
  (
    ∀ (lv : Nat) (e : Word) (va : Ptr),
      let z := bits e 11 8
      let size := 4096 * 4 ^ z
      let striped := bit e 7 = true
      let m := bits e 47 44
      let unit := 4096 * 4 ^ bits e 43 41
      (malformed lv e = true ↔
        (bit e 1 = false ∧ (lv = 0 ∨ bits e 15 2 ≠ 0 ∨ 2 ≤ bits e 49 48)) ∨
        (bit e 1 = true ∧ (12 ≤ z ∨ (lv = 0 ∧ 7 ≤ z) ∨ (lv = 1 ∧ z ≤ 6) ∨ 2 ≤ lv ∨
          (¬ striped ∧ bits e 63 12 * 4096 % size ≠ 0) ∨
          (striped ∧ (bits e 49 48 ≠ 0 ∨ 11 ≤ m ∨ 5 ≤ bits e 43 41 ∨ size < 2 ^ m * unit ∨ bits e 63 54 % 2 ^ m ≠ 0 ∨
            bits e 40 12 * 4096 % (size / 2 ^ m) ≠ 0))))) ∧
      let o := va.toNat % size
      (¬ striped → leafPa e va = (bits e 63 12 * 4096 + o, size - o)) ∧
      (striped → leafPa e va = ((bits e 63 54 + o / unit % 2 ^ m) * 2 ^ 54 + bits e 53 50 * 2 ^ 50 +
        (bits e 40 12 * 4096 + (o / unit / 2 ^ m * unit + o % unit)), unit - o % unit))) ∧
  (
    ∀ (s : State) (w : Who) (k : AccessKind) (va : Ptr) (lv : Nat) (table : Nat → Nat) (entry : Nat → Word),
      bits va 79 76 ≠ 0xF → s.softs = [] → s.errs = [] →
      let m := locModule w.loc
      let run := (translate w k va).run s
      let matching := (s.tlb w.unit).filter fun t => t.ctx = w.ctx && t.base ≤ va.toNat && va.toNat < t.base + t.size
      let rights := fun (e : Word) => (k ≠ .store → bit e 2 = true) ∧ (k ≠ .load → bit e 3 = true)
      let grants := fun (e : Word) => rights e ∧ (w.user = true → bit e 4 = true)
      let serves := fun (t : TlbEntry) => grants t.pte ∧ (k ≠ .load → bit t.pte 6 = true)
      let smallest := fun (t : TlbEntry) => t ∈ matching ∧ ∀ x ∈ matching, x ≠ t → t.size < x.size
      (∀ t, smallest t → serves t → ∃ u, run = .ok ⟨(leafPa t.pte va).1, t.slot, (leafPa t.pte va).2, false⟩ u ∧
        u = { s with tlbs := u.tlbs } ∧ u.tlb w.unit = (s.tlb w.unit).filter (fun x => x = t || !(matching.contains x)) ∧
        ∀ v, v ≠ w.unit → u.tlb v = s.tlb v) ∧
      ((matching = [] ∨ ∃ t, smallest t ∧ ¬ serves t) →
        let left := (s.tlb w.unit).filter fun x => !(matching.contains x)
        let fault := fun (o lv : Nat) => ∃ u, run = .error (.trap ⟨if k = .load then 0x05 else 0x06, o, lv, 0, va, true⟩) u ∧
          u = { s with tlbs := u.tlbs } ∧ u.tlb w.unit = left
        let context := (s.module m).ctxtbl.toNat + 16 * w.ctx.toNat
        paModule context = m →
        let read := s.walkRead m 255 context 16
        let a : Word := BitVec.ofNat 64 (read.getD 0)
        let b : Word := BitVec.ofNat 64 (read.getD 0 / 2 ^ 64)
        let good := read.isSome = true ∧ bit a 0 = true ∧ bits a 15 1 = 0 ∧ bits b 63 9 = 0 ∧ bits a 49 48 ≤ 1
        (read = none → fault 0x05 6) ∧
        (read.isSome = true → bit a 0 = false → fault 0x04 6) ∧
        (read.isSome = true → bit a 0 = true → ¬ good → fault 0x03 6) ∧
        let start : Nat × Nat := match s.walkHit w.quadrant w.ctx va with
          | some e => (e.level, bits e.pte 63 16 * 2 ^ 16)
          | none => (6, bits a 63 16 * 2 ^ 16)
        let at_ := fun (j : Nat) => table j + 8 * (if j = 5 then bits va 79 77 else va.toNat / 2 ^ (13 * j + 12) % 2 ^ 13)
        let slot := bits b 7 0
        let names := fun (j : Nat) => s.walkRead m slot (at_ j) 8 = some (entry j).toNat ∧ bit (entry j) 0 = true ∧ malformed j (entry j) = false ∧
          bit (entry j) 1 = false ∧ table (j - 1) = bits (entry j) 63 16 * 2 ^ 16
        good → lv < start.1 → table (start.1 - 1) = start.2 → (∀ j, lv ≤ j → j < start.1 → paModule (at_ j) = m) →
        (∀ j, lv < j → j < start.1 → names j) →
        let e := entry lv
        (s.walkRead m slot (at_ lv) 8 = none → fault 0x05 lv) ∧
        (s.walkRead m slot (at_ lv) 8 = some e.toNat →
          let leaf := bit e 0 = true ∧ malformed lv e = false ∧ bit e 1 = true
          let peers := bit e 7 = true ∧ s.domain < bits e 63 54 + 2 ^ bits e 47 44
          (bit e 0 = false → fault 0x00 lv) ∧
          (bit e 0 = true → malformed lv e = true → fault 0x03 lv) ∧
          (leaf → peers → fault 0x06 lv) ∧
          (leaf → ¬ peers → w.user = true → bit e 4 = false → fault 0x02 lv) ∧
          (leaf → ¬ peers → (w.user = true → bit e 4 = true) → ¬ rights e → fault 0x01 lv) ∧
          (leaf → ¬ peers → grants e →
            let e' := e ||| 0x20 ||| (if k = .load then 0 else 0x40)
            let size := 4096 * 4 ^ bits e 11 8
            ∃ u, run = .ok ⟨(leafPa e' va).1, slot, (leafPa e' va).2, false⟩ u ∧ leafPa e' va = leafPa e va ∧
              (∃ l, u.tlb w.unit = l ++ [⟨w.ctx, va.toNat / size * size, size, e', slot⟩]) ∧ u.cores = s.cores ∧
              (e' = e → u.mem = s.mem) ∧
              (Memory.wf s.mem = true → s.migOf (at_ lv) = none → paKind (at_ lv) ≤ 1 → s.inContextTable (at_ lv) 8 = false →
                bit (s.die (paDieKey (at_ lv))).hotcfg 63 = false → at_ lv % 8 = 0 →
                (e' ≠ e → ofBytes (u.readBytes (s.keyOf m slot) (at_ lv) 8) = e'.toNat) ∧
                ∀ key pa, pa / 64 ≠ at_ lv / 64 → u.readByte key pa = s.readByte key pa)))))

/-- R16, R33, R53, R71, R73, R423: the checks of an access of own-module memory at its home, in one granule that does not move:
ACCESS with outcome 0 where there is no such byte, 0x13 from HBMSIZE on, EXEC_ONLY in an SP1 below its core's EXB, ACCESS with 0x12
for a user access to a usable parking slot or a heap of an SP2, 0x10 where an error cannot be corrected; where several hold, the
first of these is reported, by the order of log 40, the model's choice. A walk reads what a supervisor access passes for, in HBM and
scratchpads, and fails elsewhere. R10, R12, R29, R33, R53, R71, R73, R90: a load, a store or an atomic whose translation ends with a
trap takes it, with the address in EADDR and nothing read or written; one that the checks at its home refuse takes their trap:
ACCESS with outcome 0, 0x12 or 0x13, or EXEC_ONLY. A misaligned access of a message window, and a store to one, have statements of
their own. R200: an M-format instruction with the mode 11 takes ILLEGAL with outcome 0x04, and `ldp` or `stp` that names the pointer
it updates takes it with outcome 0x05. R105, R104: a misaligned plain access of any address mode where the context asks for
alignment takes MISALIGNED with outcome 0, a misaligned ordered access with outcome 2 and a misaligned atomic with outcome 1, each
with its address in EADDR; an indexed or strided vector access takes it for its first misaligned active element before any byte
moves: by the reading of log 89, the elements are looked at before the own address. A message window and register space refuse a
misaligned access themselves (R14, R436), so a place of theirs is no misaligned one here. -/
def Obligations.AccessTraps : Prop :=
  (
    ∀ (s : State) (user : Bool) (m slot pa n : Nat), 0 < n → pa % 4096 + n ≤ 4096 → s.migOf pa = none → s.cutOff m (paModule pa) = false →
      let off := pa % 2 ^ 48
      let byte := pa % 2 ^ 36
      let level := off / 2 ^ 46
      let check := s.homeCheck user pa n
      let beyond := paKind pa = 0 ∧ (s.die (paDieKey pa)).hbmsize.toNat < off + n
      let code := paKind pa = 1 ∧ level = 1 ∧
        byte < (s.core (mkLoc 0 (paModule pa) (paDie pa) (off / 2 ^ 40 % 64) (off / 2 ^ 36 % 16))).exb.toNat
      let cl := s.cluster (paDieKey pa * 64 + off / 2 ^ 40 % 64)
      let parks := parkUsable cl.parkcfg * 9216
      let heap := bits cl.ovfcfg 25 17 * 4096
      let heaps := 65536 * bits cl.ovfcfg 3 0
      let shares := fun (at_ len : Nat) => 0 < len ∧ byte < at_ + len ∧ at_ < byte + n
      let guarded := paKind pa = 1 ∧ level = 2 ∧ (shares (parkOff cl.parkcfg 0) parks ∨ (heap + heaps ≤ 2 ^ 21 ∧ shares heap heaps))
      (s.paThere pa n = false → check = some (0x09, 0)) ∧
      (s.paThere pa n = true →
        (beyond → check = some (0x09, 0x13)) ∧ (code → check = some (0x07, 0)) ∧
        (¬ code → user = true → guarded → check = some (0x09, 0x12)) ∧
        (¬ beyond → ¬ code → ¬ (user = true ∧ guarded) → paKind pa ≠ 2 → s.eccBad pa n = true → check = some (0x09, 0x10)) ∧
        (¬ beyond → ¬ code → ¬ (user = true ∧ guarded) → (paKind pa = 2 ∨ s.eccBad pa n = false) → check = none)) ∧
      s.walkRead m slot pa n = if paKind pa ≤ 1 ∧ s.homeCheck false pa n = none
        then some (ofBytes (s.readBytes (s.keyOf (paModule pa) slot) pa n)) else none) ∧
  (
    ∀ (s : State) (d a b : BitVec 5) (p : BitVec 3) (m z : BitVec 2) (x : BitVec 3) (imm : BitVec 13) (sel z3 : BitVec 3), s.settled → s.unbound →
      let refuses := fun (i : Instr) (k : AccessKind) (va : Ptr) (n : Nat) =>
        (∀ f u, (translate s.coreWho k va).run s = .error (.trap f) u → exec i s = trapOut u f) ∧
        (∀ t u c o, (translate s.coreWho k va).run s = .ok t u → n ≤ t.limit → paModule t.pa = locModule s.loc → u.watch = none →
          u.refusalOf s.coreWho (chunks x.toNat va t.pa n) = some (c, o) → o ≠ 0x10 → exec i s = trapOut u ⟨c, o, 0, 0, va, true⟩)
      let plain := fun (k : AccessKind) (va : Ptr) (n : Nat) => isMessageWindow va = true → k ≠ .store ∧ va.toNat % n = 0
      (m ≠ 3 → ∀ e ∈ [(Instr.ldN8 d p m x imm, AccessKind.load, (1 : Nat)), (.ldI8 d p m x imm, .load, 1), (.ldN16 d p m x imm, .load, 2),
          (.ldI16 d p m x imm, .load, 2), (.ldN32 d p m x imm, .load, 4), (.ldI32 d p m x imm, .load, 4), (.ldI64 d p m x imm, .load, 8),
          (.ldp d p m x imm, .load, 16), (.vld d p m x imm, .load, 256), (.st8 d p m x imm, .store, 1), (.st16 d p m x imm, .store, 2),
          (.st32 d p m x imm, .store, 4), (.st64 d p m x imm, .store, 8), (.stp d p m x imm, .store, 16), (.vst d p m x imm, .store, 256)],
        let va := if m = 1 then s.p p else s.p p + BitVec.ofInt 80 (imm.toInt * e.2.2)
        (e.2.2 = 16 → m ≠ 0 → d.toNat % 8 ≠ p.toNat) → (e.2.2 ≠ 256 → s.aligned va e.2.2) → plain e.2.1 va e.2.2 →
        refuses e.1 e.2.1 va e.2.2) ∧
      (z.toNat ≤ 1 → (s.p a).toNat % (4 * 2 ^ z.toNat) = 0 →
        ∀ i ∈ [Instr.amoAdd d a b z x, .amoAnd d a b z x, .amoOr d a b z x, .amoXor d a b z x, .amoMin d a b z x, .amoMax d a b z x,
            .amoMinn d a b z x, .amoMaxn d a b z x, .amoSwap d a b z x, .cas d a b z x, .famoAdd d a b z x],
          refuses i .atomic (s.p a) (4 * 2 ^ z.toNat)) ∧
      (d.toNat % 2 = 0 → b.toNat % 2 = 0 → (s.p a).toNat % 16 = 0 → refuses (.cas2 d a b x) .atomic (s.p a) 16) ∧
      (sel.toNat ≤ 5 → z3 ≠ 7 → (s.p a).toNat % 2 ^ (z3.toNat / 2) = 0 → (sel = 5 → ∀ r ∈ s.posted s.thr.uid, r.scope ≠ some 5) →
        refuses (.lda d a sel z3 x) .load (s.p a) (2 ^ (z3.toNat / 2))) ∧
      (sel.toNat ≤ 5 → z3.toNat ≤ 3 → (s.p a).toNat % 2 ^ z3.toNat = 0 → s.ordered sel → isMessageWindow (s.p a) = false →
        refuses (.stl a b sel z3 x) .store (s.p a) (2 ^ z3.toNat))) ∧
  (
    ∀ (s : State) (d : BitVec 5) (p : BitVec 3) (m : BitVec 2) (x : BitVec 3) (imm : BitVec 13), s.settled →
      (∀ i ∈ [Instr.ldN8 d p 3 x imm, .ldI8 d p 3 x imm, .ldN16 d p 3 x imm, .ldI16 d p 3 x imm, .ldN32 d p 3 x imm, .ldI32 d p 3 x imm,
          .ldI64 d p 3 x imm, .ldp d p 3 x imm, .st8 d p 3 x imm, .st16 d p 3 x imm, .st32 d p 3 x imm, .st64 d p 3 x imm,
          .stp d p 3 x imm, .vld d p 3 x imm, .vst d p 3 x imm], exec i s = trapOut s (illegal 0x04 s.word)) ∧
      (m = 1 ∨ m = 2 → d.toNat % 8 = p.toNat →
        exec (.ldp d p m x imm) s = trapOut s (illegal 0x05 s.word) ∧ exec (.stp d p m x imm) s = trapOut s (illegal 0x05 s.word))) ∧
  (
    ∀ (s : State) (d a b : BitVec 5) (p q : BitVec 3) (m z : BitVec 2) (x : BitVec 3) (imm : BitVec 13) (sel z3 : BitVec 3), s.settled →
      let bad := fun (i : Instr) (o : Nat) (va : Ptr) => exec i s = trapOut s ⟨0x04, o, 0, 0, va, true⟩
      let asks := bit s.thr.ctxcfg 0 = true
      let kindOf := fun (i : Instr) => if plainStore i then AccessKind.store else .load
      let va := fun (n : Nat) => if m = 1 then s.p p else s.p p + BitVec.ofInt 80 (imm.toInt * n)
      (asks → m ≠ 3 → ∀ e ∈ [(Instr.ldN16 d p m x imm, 2), (.ldI16 d p m x imm, 2), (.ldN32 d p m x imm, 4), (.ldI32 d p m x imm, 4),
          (.ldI64 d p m x imm, 8), (.ldp d p m x imm, 16), (.st16 d p m x imm, 2), (.st32 d p m x imm, 4), (.st64 d p m x imm, 8),
          (.stp d p m x imm, 16)],
        s.misaligned (kindOf e.1) e.2 (va e.2) = some true → (e.2 = 16 → m ≠ 0 → d.toNat % 8 ≠ p.toNat) → bad e.1 0 (va e.2)) ∧
      (
        (sel.toNat ≤ 5 → s.ordered sel → z3.toNat ≤ 3 → s.misaligned .store (2 ^ z3.toNat) (s.p a) = some true →
          bad (.stl a b sel z3 x) 2 (s.p a)) ∧
        (sel.toNat ≤ 5 → z3 ≠ 7 → s.misaligned .load (2 ^ (z3.toNat / 2)) (s.p a) = some true → bad (.lda d a sel z3 x) 2 (s.p a)) ∧
        (z.toNat ≤ 1 → s.misaligned .atomic (4 * 2 ^ z.toNat) (s.p a) = some true →
          ∀ i ∈ [Instr.amoAdd d a b z x, .amoAnd d a b z x, .amoOr d a b z x, .amoXor d a b z x, .amoMin d a b z x, .amoMax d a b z x,
            .amoMinn d a b z x, .amoMaxn d a b z x, .amoSwap d a b z x, .cas d a b z x, .famoAdd d a b z x], bad i 1 (s.p a)) ∧
        (d.toNat % 2 = 0 → b.toNat % 2 = 0 → s.misaligned .atomic 16 (s.p a) = some true → bad (.cas2 d a b x) 1 (s.p a))) ∧
      (asks → s.unbound →
        let n := 2 ^ z.toNat
        let act := fun (i : Nat) => i < 256 / n ∧ bit (s.q q) (n * i) = true
        let strided := fun (i : Nat) => s.p a + BitVec.ofInt 80 (i * (s.g b).toInt)
        let indexed := fun (i : Nat) => s.p a + BitVec.ofInt 80 ((BitVec.ofNat (8 * n) (lane (s.v b) n i)).toInt * n)
        ∀ e ∈ [(Instr.vldx d a b q z x, indexed), (.vldw d a b q z x, strided), (.vstx d a b q z x, indexed), (.vstw d a b q z x, strided)],
          ∀ i, act i → s.misaligned (kindOf e.1) n (e.2 i) = some true → (∀ j < i, act j → (e.2 j).toNat % n = 0) → bad e.1 0 (e.2 i)))

/-- R277, R278: a wait on a counter without a fault mark completes once the command it names is part of the completed prefix (a
number 2^31 - 1 ahead counts as reached), or fewer commands than the bound are outstanding, and keeps the thread at it before. The
immediate of `waitk` names the most recent command number with these low 15 bits. R279-R282: `kset` of a counter with nothing
outstanding and no trigger armed completes with I and C at the value; `kget` completes with I above C; `trig` with no trigger armed
and a threshold not reached arms one with what it latches, whatever the bytes of its block that should be zero hold (the reading of
log 45); `untrig` disarms the triggers of its counter and block. -/
def Obligations.CounterResults : Prop :=
  (
    ∀ (s : State) (nhi : BitVec 10) (nlo : BitVec 5) (k : BitVec 3) (a : BitVec 5) (n : BitVec 32), s.issuing →
      s.thr.marked k = false →
      let imm := nhi.toNat * 32 + nlo.toNat
      let c := s.k k
      let reached := fun (x : BitVec 32) => 0 ≤ (c.c - x).toInt ∨ 2 ^ 31 - 1 ≤ (x - c.c).toInt
      let goesOn := fun (i : Instr) (ok : Prop) =>
        (ok → exec i s = .next s.adv) ∧ (¬ ok → ∃ t : State, exec i s = .next t ∧ t.pc = s.pc)
      (n.toNat % 2 ^ 15 = imm → (c.i - n).toNat < 2 ^ 15 → goesOn (.waitkImm nhi k nlo) (reached n)) ∧
      goesOn (.waitkReg a k) (reached ((s.g a).truncate 32)) ∧
      (imm ≠ 0 → goesOn (.waitbImm nhi k nlo) ((c.i - c.c - BitVec.ofNat 32 imm).toInt < 0)) ∧
      ((s.g a).truncate 32 ≠ 0#32 → goesOn (.waitbReg a k) ((c.i - c.c - (s.g a).truncate 32).toInt < 0))) ∧
  (
    ∀ (s : State) (a b : BitVec 5) (k : BitVec 3) (l : List Byte), s.settled →
      let c := s.k k
      let base : Ptr := BitVec.ofNat 80 ((s.p b).toNat / 64 * 64)
      (c.i = c.c → s.thr.trigs = [] →
        exec (.kset a k) s = .next (s.setK k ⟨(s.g a).truncate 32, (s.g a).truncate 32⟩).adv) ∧
      exec (.kget a k) s = .next (s.setG a (c.i.zeroExtend 64 <<< 32 ||| c.c.zeroExtend 64)).adv ∧
      (s.thr.trigs = [] → (c.c - (s.g a).truncate 32).toInt < 0 → s.quietRead base 0 64 = some l →
        ∃ t : State, exec (.trig a b k) s = .next t.adv ∧ t.pc = s.pc ∧ (∀ r, t.g r = s.g r) ∧
          t.thr.trigs = [⟨k, (s.g a).truncate 32, base, BitVec.ofNat 32 (leAt l 4 4), BitVec.ofNat 80 (leAt l 8 10),
            BitVec.ofNat 80 (leAt l 24 10), BitVec.ofNat 80 (leAt l 40 10), s.thr.ctxid, s.user, s.cr.winp.toList⟩]) ∧
      ∃ t : State, exec (.untrig b k) s = .next t.adv ∧ t.pc = s.pc ∧ (∀ r, t.g r = s.g r) ∧
        ∀ x, x ∈ t.thr.trigs ↔ x ∈ s.thr.trigs ∧ ¬ (x.ctr = k ∧ x.block = base))

/-- R285, R286: a turn of `bmov` or `bset` with nothing left completes. With `n` bytes left it moves or fills the next piece, which
ends at the next 64-byte boundary of either address: the bytes are in memory, the pointers have moved on by its length and the count
has fallen by it; the thread goes on behind the instruction when the count is zero, else it stays at it. That the byte of the source
register of `bset` at an address is the one of the address modulo 8 is the reading of log 22. -/
def Obligations.BlockMoveResults : Prop :=
  ∀ (s : State) (d a b : BitVec 5) (l : List Byte) (parts : List (Nat × Nat × Nat)), s.settled → Memory.wf s.mem = true →
    let n := (s.g b).toNat
    let room := fun (r : BitVec 5) => 64 - (s.p r).toNat % 64
    let m := min (min n (room d)) (room a)
    let k := min n (room d)
    (s.g b = 0 → exec (.bmov d a b) s = .next s.adv ∧ exec (.bset d a b) s = .next s.adv) ∧
    (0 < n → s.quietRead (s.p a) 0 m = some l → s.quietParts .store (s.p d) 0 m = some parts →
      ∃ t : State, exec (.bmov d a b) s = .next t ∧ s.Stored t parts l ∧ t.p d = s.p d + BitVec.ofNat 80 m ∧
        t.p a = s.p a + BitVec.ofNat 80 m ∧ (m < n → t.pc = s.pc ∧ t.g b = s.g b - BitVec.ofNat 64 m) ∧
        (m = n → s.inBody = false → t.pc = s.pc + 4 ∧ t.g b = 0)) ∧
    (0 < n → s.quietParts .store (s.p d) 0 k = some parts →
      ∃ t : State, exec (.bset d a b) s = .next t ∧
        s.Stored t parts ((List.range k).map fun i => BitVec.ofNat 8 ((s.g a).toNat / 2 ^ (8 * (((s.p d).toNat + i) % 8)))) ∧
        t.p d = s.p d + BitVec.ofNat 80 k ∧ (k < n → t.pc = s.pc ∧ t.g b = s.g b - BitVec.ofNat 64 k) ∧
        (k = n → s.inBody = false → t.pc = s.pc + 4 ∧ t.g b = 0))

/-- R244, R249: the integer and logic instructions on lanes complete: every active lane takes its result, every inactive one and
every other register and all of memory is as it was. -/
def Obligations.VectorIntegerResults : Prop :=
  ∀ (s : State) (d a b : BitVec 5) (q f : BitVec 3), s.issuing → s.unbound →
    let n := 2 ^ (f.toNat / 2)
    let w := 8 * n
    let sg := fun (x : Nat) => (BitVec.ofNat w x).toInt
    let less := fun (x y : Nat) => if f.toNat % 2 = 1 then sg x < sg y else x < y
    let gives := fun (i : Instr) (op : Nat → Nat → Nat) =>
      ∃ t : State, exec i s = .next t ∧ t.pc = s.adv.pc ∧ (∀ r, r ≠ d → t.v r = s.v r) ∧ (∀ r, r ∉ s.counting → t.g r = s.g r) ∧
        (∀ r : BitVec 3, t.q r = s.q r) ∧ (∀ key pa, t.readByte key pa = s.readByte key pa) ∧
        ∀ j < 256 / n, lane (t.v d) n j =
          if bit (s.q q) (n * j) then op (lane (s.v a) n j) (lane (s.v b) n j) else lane (s.v d) n j
    gives (.vaddI d a b q f) (fun x y => (x + y) % 2 ^ w) ∧
    gives (.vsubI d a b q f) (fun x y => (BitVec.ofNat w x - BitVec.ofNat w y).toNat) ∧
    gives (.vmulI d a b q f) (fun x y => x * y % 2 ^ w) ∧
    gives (.vminI d a b q f) (fun x y => if less y x then y else x) ∧
    gives (.vmaxI d a b q f) (fun x y => if less x y then y else x) ∧
    gives (.vand d a b q f) (fun x y => x &&& y) ∧
    gives (.vor d a b q f) (fun x y => x ||| y) ∧
    gives (.vxor d a b q f) (fun x y => x ^^^ y) ∧
    gives (.vshl d a b q f) (fun x y => x * 2 ^ (y % w) % 2 ^ w) ∧
    gives (.vshr d a b q f) (fun x y => x / 2 ^ (y % w)) ∧
    gives (.vsra d a b q f) (fun x y => (BitVec.ofInt w (sg x / 2 ^ (y % w))).toNat) ∧
    (f.toNat % 2 = 1 → gives (.vabsI d a q f) (fun x _ => (BitVec.ofInt w (sg x).natAbs).toNat)) ∧
    (f.toNat % 2 = 1 → gives (.vnegI d a q f) (fun x _ => (BitVec.ofInt w (-(sg x))).toNat))

/-- R244, R245, R248, R191: in a mode that does not draw, the floating-point arithmetic on lanes completes: every active lane takes
the exact value of its lanes rounded once under VFMT, or the selected operand; every other lane, register and byte of memory is as
it was. R250, R189: with a format that the unary group takes, the unary functions complete: 1/x and 1/√x round the exact value once,
as do 2^x, log2 and tanh of their exact values (log 21), the sign operations act on the code; other registers and memory are as they
were. -/
def Obligations.VectorFloatResults : Prop :=
  (
    ∀ (s : State) (d a b : BitVec 5) (q : BitVec 3) (f : BitVec 5) (fm : Sys2Proof.Float.Fmt), s.issuing → s.unbound →
      Sys2Proof.Float.isFloatCode f.toNat = true → Sys2Proof.Float.fmtOf f.toNat = some fm → s.vrm ≠ 4 →
      let n := Sys2Proof.Float.fmtBytes f.toNat
      let u := Sys2Proof.Float.unpack fm s.inf8
      let rnd := fun (x : Sys2Proof.Float.Val) => (Sys2Proof.Float.round fm s.inf8 s.vrm s.vsat 0 x).1
      let gives := fun (i : Instr) (op : Nat → Nat → Nat → Nat) =>
        ∃ t : State, exec i s = .next t ∧ t.pc = s.adv.pc ∧ (∀ r, r ≠ d → t.v r = s.v r) ∧ (∀ r, r ∉ s.counting → t.g r = s.g r) ∧
          (∀ c, c ∉ 0x19 :: s.repeating → t.ctrl c = s.ctrl c) ∧ (∀ key pa, t.readByte key pa = s.readByte key pa) ∧
          ∀ j < 256 / n, lane (t.v d) n j =
            if bit (s.q q) (n * j) then op (lane (s.v d) n j) (lane (s.v a) n j) (lane (s.v b) n j) % 2 ^ (8 * n)
            else lane (s.v d) n j
      gives (.vaddF d a b q f) (fun _ x y => rnd (Sys2Proof.Float.add s.vrm (u x) (u y)).1) ∧
      gives (.vsubF d a b q f) (fun _ x y => rnd (Sys2Proof.Float.add s.vrm (u x) (u y).negate).1) ∧
      gives (.vmulF d a b q f) (fun _ x y => rnd (Sys2Proof.Float.mul (u x) (u y)).1) ∧
      gives (.vfma d a b q f) (fun z x y => rnd (Sys2Proof.Float.fma s.vrm (u z) (u x) (u y)).1) ∧
      gives (.vdiv d a b q f) (fun _ x y => rnd (Sys2Proof.Float.div (u x) (u y)).1) ∧
      gives (.vsqrt d a q f) (fun _ x _ => rnd (Sys2Proof.Float.sqrt (u x)).1) ∧
      gives (.vminF d a b q f) (fun _ x y => Sys2Proof.Float.packExact fm s.inf8 (Sys2Proof.Float.minMax false (u x) (u y)).1) ∧
      gives (.vmaxF d a b q f) (fun _ x y => Sys2Proof.Float.packExact fm s.inf8 (Sys2Proof.Float.minMax true (u x) (u y)).1)) ∧
  (
    ∀ (s : State) (d a : BitVec 5) (q : BitVec 3) (f : BitVec 5) (fm : Sys2Proof.Float.Fmt), s.issuing → s.unbound → f ≠ 0x0B →
      Sys2Proof.Float.isFloatCode f.toNat = true → Sys2Proof.Float.fmtOf f.toNat = some fm → s.vrm ≠ 4 →
      let n := Sys2Proof.Float.fmtBytes f.toNat
      let u := Sys2Proof.Float.unpack fm s.inf8
      let rnd := fun (x : Sys2Proof.Float.Val) => (Sys2Proof.Float.round fm s.inf8 s.vrm s.vsat 0 x).1
      let gives := fun (i : Instr) (op : Nat → Nat) =>
        ∃ t : State, exec i s = .next t ∧ t.pc = s.adv.pc ∧ (∀ r, r ≠ d → t.v r = s.v r) ∧ (∀ r, r ∉ s.counting → t.g r = s.g r) ∧
          (∀ key pa, t.readByte key pa = s.readByte key pa) ∧
          ∀ j < 256 / n, lane (t.v d) n j = if bit (s.q q) (n * j) then op (lane (s.v a) n j) % 2 ^ (8 * n) else lane (s.v d) n j
      gives (.vexp2 d a q f) (fun x => rnd (Sys2Proof.Float.exp2 (u x)).1) ∧
      gives (.vlog2 d a q f) (fun x => rnd (Sys2Proof.Float.log2 (u x)).1) ∧
      gives (.vtanh d a q f) (fun x => rnd (Sys2Proof.Float.tanh (u x)).1) ∧
      gives (.vrcp d a q f) (fun x => rnd (Sys2Proof.Float.rcp (u x)).1) ∧
      gives (.vrsqrt d a q f) (fun x => rnd (Sys2Proof.Float.rsqrt (u x)).1) ∧
      gives (.vabsF d a q f) (fun x => Sys2Proof.Float.absCode fm x) ∧
      gives (.vnegF d a q f) (fun x => (Sys2Proof.Float.negCode fm s.vsat x).1))

/-- R250: in a mode that does not draw, a conversion between two formats completes: `vcvt` between formats of one size lane by lane,
`vwiden` from the part of the source that it names, `vnarrow` into the part of the destination, whose other lanes stay. R247, R249,
R250, R246: a vector word with a format that its group does not take, or an element size code above 011, takes ILLEGAL with outcome
0x04; `vabs` and `vneg` on an unsigned format 0x05. R253, R254, R246: the moves and permutes with a legal element size complete: the
lanes that the predicate selects take the lane that the instruction names, the others stay. -/
def Obligations.ConversionAndPermuteResults : Prop :=
  (
    ∀ (s : State) (d a src dst : BitVec 5) (p : BitVec 2) (fs fd : Sys2Proof.Float.Fmt), s.issuing → s.unbound → s.vrm ≠ 4 → src ≠ dst →
      convFmt src = some fs → convFmt dst = some fd →
      let ns := Sys2Proof.Float.fmtBytes src.toNat
      let nd := Sys2Proof.Float.fmtBytes dst.toNat
      let c := fun (j : Nat) => (Sys2Proof.Float.convert fs fd s.inf8 s.vrm s.vsat s.cr.srstate (lane (s.v a) ns j)).1 % 2 ^ (8 * nd)
      let rest := fun (t : State) => t.pc = s.adv.pc ∧ (∀ r, r ≠ d → t.v r = s.v r) ∧ (∀ r, r ∉ s.counting → t.g r = s.g r) ∧
        ∀ key pa, t.readByte key pa = s.readByte key pa
      (ns = nd → ∃ t : State, exec (.vcvt d a src 0 dst) s = .next t ∧ rest t ∧ ∀ j < 256 / nd, lane (t.v d) nd j = c j) ∧
      ((nd = 2 * ns ∨ nd = 4 * ns) → p.toNat < nd / ns →
        ∃ t : State, exec (.vwiden d a src p dst) s = .next t ∧ rest t ∧
          ∀ j < 256 / nd, lane (t.v d) nd j = c (p.toNat * (256 / nd) + j)) ∧
      ((ns = 2 * nd ∨ ns = 4 * nd) → p.toNat < ns / nd →
        ∃ t : State, exec (.vnarrow d a src p dst) s = .next t ∧ rest t ∧
          ∀ j < 256 / nd, lane (t.v d) nd j =
            if p.toNat * (256 / ns) ≤ j ∧ j < (p.toNat + 1) * (256 / ns) then c (j - p.toNat * (256 / ns)) else lane (s.v d) nd j)) ∧
  (
    ∀ (s : State) (d a b : BitVec 5) (q e : BitVec 3) (f : BitVec 5) (g : BitVec 3),
      (Sys2Proof.Float.isFloatCode f.toNat = false →
        ∀ i ∈ [Instr.vaddF d a b q f, .vsubF d a b q f, .vmulF d a b q f, .vfma d a b q f, .vminF d a b q f, .vmaxF d a b q f, .vdiv d a b q f,
            .vsqrt d a q f, .vexp2 d a q f, .vlog2 d a q f, .vrcp d a q f, .vrsqrt d a q f, .vtanh d a q f, .vabsF d a q f, .vnegF d a q f],
          exec i s = trapOut s (illegal 0x04 s.word)) ∧
      (g.toNat % 2 = 0 → exec (.vabsI d a q g) s = trapOut s (illegal 0x05 s.word) ∧ exec (.vnegI d a q g) s = trapOut s (illegal 0x05 s.word)) ∧
      (4 ≤ e.toNat → ∀ i ∈ [Instr.vdup d a q e, .vget d a b e, .vset d a b e, .vperm d a b q e, .vzipLo d a b q e, .vzipHi d a b q e,
          .vunzipEven d a b q e, .vunzipOdd d a b q e, .vslideUp d a b q e, .vslideDn d a b q e, .vtrnEven d a b q e, .vtrnOdd d a b q e,
          .vwidth d e], exec i s = trapOut s (illegal 0x04 s.word))) ∧
  (
    ∀ (s : State) (d a b : BitVec 5) (q e : BitVec 3), s.issuing → s.unbound → e.toNat ≤ 3 →
      let n := 2 ^ e.toNat
      let k := 256 / n
      let x := fun (i : Nat) => lane (s.v a) n i
      let y := fun (i : Nat) => lane (s.v b) n i
      let rest := fun (t : State) => t.pc = s.adv.pc ∧ (∀ r, r ≠ d → t.v r = s.v r) ∧ (∀ r, r ∉ s.counting → t.g r = s.g r) ∧
        ∀ key pa, t.readByte key pa = s.readByte key pa
      let gives := fun (i : Instr) (to_ : Nat → Nat) =>
        ∃ t : State, exec i s = .next t ∧ rest t ∧
          ∀ j < k, lane (t.v d) n j = if bit (s.q q) (n * j) then to_ j else lane (s.v d) n j
      gives (.vdup d a q e) (fun _ => (s.g a).toNat % 2 ^ (8 * n)) ∧
      gives (.vperm d a b q e) (fun j => x (y j % k)) ∧
      gives (.vzipLo d a b q e) (fun j => if j % 2 = 0 then x (j / 2) else y (j / 2)) ∧
      gives (.vzipHi d a b q e) (fun j => if j % 2 = 0 then x (k / 2 + j / 2) else y (k / 2 + j / 2)) ∧
      gives (.vunzipEven d a b q e) (fun j => if 2 * j < k then x (2 * j) else y (2 * j - k)) ∧
      gives (.vunzipOdd d a b q e) (fun j => if 2 * j < k then x (2 * j + 1) else y (2 * j + 1 - k)) ∧
      gives (.vtrnEven d a b q e) (fun j => if j % 2 = 0 then x j else y (j - 1)) ∧
      gives (.vtrnOdd d a b q e) (fun j => if j % 2 = 0 then x (j + 1) else y j) ∧
      gives (.vslideUp d a b q e) (fun j => if (s.g b).toNat ≤ j then x (j - (s.g b).toNat) else lane (s.v d) n j) ∧
      gives (.vslideDn d a b q e) (fun j => if j + (s.g b).toNat < k then x (j + (s.g b).toNat) else 0) ∧
      (∃ t : State, exec (.vset d a b e) s = .next t ∧ rest t ∧
        ∀ j < k, lane (t.v d) n j = if j = (s.g b).toNat then (s.g a).toNat % 2 ^ (8 * n) else lane (s.v d) n j) ∧
      exec (.vget d a b e) s = .next (s.setG d (BitVec.ofNat 64 (if (s.g b).toNat < k then x (s.g b).toNat else 0))).adv ∧
      exec (.vwidth d e) s = .next (s.setG d (BitVec.ofNat 64 k)).adv ∧
      (∃ t : State, exec (.vmov d a q) s = .next t ∧ rest t ∧
        ∀ j < 256, lane (t.v d) 1 j = if bit (s.q q) j then lane (s.v a) 1 j else lane (s.v d) 1 j) ∧
      ∃ t : State, exec (.vsel d a b q) s = .next t ∧ rest t ∧
        ∀ j < 256, lane (t.v d) 1 j = if bit (s.q q) j then lane (s.v a) 1 j else lane (s.v b) 1 j)

/-- R251, R252: the predicate instructions complete: a comparison sets the bits of an element, active and in the relation, and
clears the others; `vbound` compares base + i with the bound exactly; the logic acts on all bits; `qcnt` and `qfirst` count and find
the elements whose lowest bit is set. R194, R254: the integer reductions complete: lane 0 takes the sum of the active elements
modulo the format, or their largest or smallest, and the other lanes are zero; a scan gives every active element the sum of those up
to it. No active element gives the identity: 0 for a sum, the format's lowest value for a maximum, its highest for a minimum. R194,
R189, R254: in a mode that does not draw, the floating-point reductions complete: lane 0 takes the pairwise tree over the lanes,
each node rounded or selected once, and the other lanes are zero; a scan gives every active lane the running sum, rounded at each
addition. No active element gives +0 for a sum, a code below or equal to every number of the format for a maximum, above or equal
for a minimum. -/
def Obligations.PredicateAndReductionResults : Prop :=
  (
    ∀ (s : State) (d a b : BitVec 5) (q c : BitVec 3) (f : BitVec 5) (fm : Sys2Proof.Float.Fmt) (e : BitVec 2), s.issuing → s.unbound →
      let n := Sys2Proof.Float.fmtBytes f.toNat
      let m := 2 ^ e.toNat
      let set_ := fun (i : Nat) => bit (s.q a) (m * i) = true
      let holds := fun (j : Nat) => if Sys2Proof.Float.isInt f.toNat = true then
          let x := lane (s.v a) n j
          let y := lane (s.v b) n j
          let sg := fun (v : Nat) => if f.toNat % 2 = 1 then (BitVec.ofNat (8 * n) v).toInt else (v : Int)
          (c = 0 ∧ sg x = sg y) ∨ (c = 1 ∧ sg x < sg y) ∨ (c = 2 ∧ sg x ≤ sg y) ∨ (c = 4 ∧ sg x ≠ sg y)
        else (Sys2Proof.Float.compare c.toNat (Sys2Proof.Float.unpack fm s.inf8 (lane (s.v a) n j))
          (Sys2Proof.Float.unpack fm s.inf8 (lane (s.v b) n j))).1 = true
      (convFmt f = some fm → c.toNat ≤ 4 → ¬ (Sys2Proof.Float.isInt f.toNat = true ∧ c = 3) → d.toNat % 8 ≠ 0 →
        ∃ t : State, exec (.vcmp d a b q c f) s = .next t ∧ t.pc = s.adv.pc ∧
          (∀ j < 256 / n, ∀ i < n, bit (t.q d) (n * j + i) = true ↔ bit (s.q q) (n * j) = true ∧ holds j)) ∧
      (d.toNat % 8 ≠ 0 → ∃ t : State, exec (.vbound d a b e) s = .next t.adv ∧ t.pc = s.pc ∧
        ∀ j < 256 / m, ∀ i < m, bit (t.q d) (m * j + i) = true ↔ (s.g a).toInt + j < (s.g b).toInt) ∧
      exec (.qand d a b) s = .next (s.setQ d (s.q a &&& s.q b)).adv ∧
      exec (.qor d a b) s = .next (s.setQ d (s.q a ||| s.q b)).adv ∧
      exec (.qxor d a b) s = .next (s.setQ d (s.q a ^^^ s.q b)).adv ∧
      exec (.qnot d a) s = .next (s.setQ d (~~~ s.q a)).adv ∧
      exec (.qcnt d a e) s = .next (s.setG d (BitVec.ofNat 64 ((List.range (256 / m)).countP fun i => bit (s.q a) (m * i)))).adv ∧
      ∃ k ≤ 256 / m, exec (.qfirst d a e) s = .next (s.setG d (BitVec.ofNat 64 k)).adv ∧ (∀ i < k, ¬ set_ i) ∧ (k < 256 / m → set_ k)) ∧
  (
    ∀ (s : State) (d a : BitVec 5) (f : BitVec 5) (q : BitVec 3), s.issuing → s.unbound → f.toNat ≤ 7 →
      let n := Sys2Proof.Float.fmtBytes f.toNat
      let w := 8 * n
      let k := 256 / n
      let act := fun (i : Nat) => bit (s.q q) (n * i)
      let none_ := ∀ i < k, act i = false
      let x := fun (i : Nat) => lane (s.v a) n i
      let value := fun (v : Nat) => if f.toNat % 2 = 1 then (BitVec.ofNat w v).toInt else (v : Int)
      let sum := fun (m : Nat) => (((List.range m).filter act).map x).sum % 2 ^ w
      let rest := fun (t : State) => t.pc = s.adv.pc ∧ (∀ r, r ≠ d → t.v r = s.v r) ∧ (∀ r, r ∉ s.counting → t.g r = s.g r) ∧
        ∀ key pa, t.readByte key pa = s.readByte key pa
      (∃ t : State, exec (.vsum d a f q) s = .next t ∧ rest t ∧ t.v d = BitVec.ofNat 2048 (sum k)) ∧
      (∃ t : State, exec (.vmaxr d a f q) s = .next t ∧ rest t ∧ (t.v d).toNat < 2 ^ w ∧
        (∀ i < k, act i = true → value (x i) ≤ value (t.v d).toNat) ∧
        ((∃ i < k, act i = true) → ∃ i < k, act i = true ∧ (t.v d).toNat = x i) ∧
        (none_ → value (t.v d).toNat = if f.toNat % 2 = 1 then -(2 ^ (w - 1) : Int) else 0)) ∧
      (∃ t : State, exec (.vminr d a f q) s = .next t ∧ rest t ∧ (t.v d).toNat < 2 ^ w ∧
        (∀ i < k, act i = true → value (t.v d).toNat ≤ value (x i)) ∧
        ((∃ i < k, act i = true) → ∃ i < k, act i = true ∧ (t.v d).toNat = x i) ∧
        (none_ → value (t.v d).toNat = if f.toNat % 2 = 1 then (2 ^ (w - 1) : Int) - 1 else (2 ^ w : Int) - 1)) ∧
      ∃ t : State, exec (.vscan d a f q) s = .next t ∧ rest t ∧
        ∀ j < k, lane (t.v d) n j = if act j then sum (j + 1) else lane (s.v d) n j) ∧
  (
    ∀ (s : State) (d a : BitVec 5) (f : BitVec 5) (q : BitVec 3) (fm : Sys2Proof.Float.Fmt), s.issuing → s.unbound →
      Sys2Proof.Float.isFloatCode f.toNat = true → Sys2Proof.Float.fmtOf f.toNat = some fm → s.vrm ≠ 4 →
      let n := Sys2Proof.Float.fmtBytes f.toNat
      let w := 8 * n
      let k := 256 / n
      let act := fun (i : Nat) => bit (s.q q) (n * i)
      let none_ := ∀ i < k, act i = false
      let x := fun (i : Nat) => lane (s.v a) n i
      let u := Sys2Proof.Float.unpack fm s.inf8
      let sum := fun (y z : Nat) => (Sys2Proof.Float.round fm s.inf8 s.vrm s.vsat 0 (Sys2Proof.Float.add s.vrm (u y) (u z)).1).1
      let sel := fun (m : Bool) (y z : Nat) => Sys2Proof.Float.packExact fm s.inf8 (Sys2Proof.Float.minMax m (u y) (u z)).1
      let node := fun (comb : Nat → Nat → Nat) => pairwise comb act x (Nat.log2 k) 0
      let rest := fun (t : State) => t.pc = s.adv.pc ∧ (∀ r, r ≠ d → t.v r = s.v r) ∧ (∀ r, r ∉ s.counting → t.g r = s.g r) ∧
        ∀ key pa, t.readByte key pa = s.readByte key pa
      (∃ t : State, exec (.vsum d a f q) s = .next t ∧ rest t ∧ t.v d = BitVec.ofNat 2048 ((node sum).getD 0 % 2 ^ w)) ∧
      (∃ t : State, exec (.vmaxr d a f q) s = .next t ∧ rest t ∧ (t.v d).toNat < 2 ^ w ∧
        (∀ y, node (sel true) = some y → t.v d = BitVec.ofNat 2048 (y % 2 ^ w)) ∧
        (none_ → ∀ c < 2 ^ w, (u c).isNan = false → (Sys2Proof.Float.compare 2 (u (t.v d).toNat) (u c)).1 = true)) ∧
      (∃ t : State, exec (.vminr d a f q) s = .next t ∧ rest t ∧ (t.v d).toNat < 2 ^ w ∧
        (∀ y, node (sel false) = some y → t.v d = BitVec.ofNat 2048 (y % 2 ^ w)) ∧
        (none_ → ∀ c < 2 ^ w, (u c).isNan = false → (Sys2Proof.Float.compare 2 (u c) (u (t.v d).toNat)).1 = true)) ∧
      ∃ t : State, exec (.vscan d a f q) s = .next t ∧ rest t ∧
        ∀ j < k, lane (t.v d) n j = if act j then
            (match ((List.range (j + 1)).filter act).map x with
              | [] => 0
              | y :: ys => ys.foldl sum y) % 2 ^ w
          else lane (s.v d) n j)

/-- R289, R117, R137: a copy command with legal registers, with room for it and its barrier object readable, is accepted with its
operands; R289: with registers beyond their limits it takes ILLEGAL with outcome 0x06. R260, R261: `vbind` of a register from v28 on
that is not bound, with a legal descriptor, is accepted and binds it, fetching ahead a read stream; `vfree` of a register that is
not bound goes on, of a read stream it unbinds the register and the command completes. R59, R294, R296: with room and the barrier
object readable, `tfill` of a defined tile that is not filling or draining is accepted and the tile fills; `tdrain` of a ready tile
is accepted and the tile drains; `tswap` of a ready tile with a core of the die is accepted and the tile fills. An undefined tile
takes TILE with outcome 0x02, an empty one that is read 0x01. -/
def Obligations.EngineCommands : Prop :=
  (
    ∀ (s : State) (a b c : BitVec 5) (k : BitVec 3), s.settled →
      let l := [(Instr.cpCopy a b k, CmdKind.copy (s.p a) (s.p b)), (.cpFill a b k, .fill (s.p a) (s.g b)),
        (.cpRows a b k c, .rows (s.p a) (s.p b) (s.p c)), (.cpScat a b k c, .scat (s.p a) (s.p b) (s.p c))]
      (cpLegal s.thr.cp = true → s.room .cp .x → s.barrierReady →
        ∀ e ∈ l, ∃ t : State, exec e.1 s = .next t ∧ s.Accepted t k e.2 [] ∧ t.pending = s.pending ++ [.engineCompletion s.nextId]) ∧
      (cpLegal s.thr.cp = false → ∀ e ∈ l, exec e.1 s = trapOut s (illegal 0x06 s.word))) ∧
  (
    ∀ (s : State) (d a : BitVec 5) (k : BitVec 3) (z : BitVec 2) (b : List Byte), 28 ≤ d.toNat →
      (s.settled → z.toNat ≤ 1 → s.thr.stream d.toNat = none → s.block (s.p a) = some b → streamLegal b = true →
        ∃ t : State, exec (.vbind d a k z) s = .next t ∧ s.Accepted t k (.stream d.toNat) [] ∧
          ∃ x : Stream, t.thr.streams = s.thr.streams ++ [x] ∧ x.reg = d.toNat ∧ x.write = decide (z = 1) ∧
            x.xs.toNat = leAt b 4 1 ∧ x.base.toNat = leAt b 8 10 ∧ x.n0 = leAt b 24 4 ∧ x.n1 = leAt b 28 4 ∧
            x.s0 = sextInt 64 (leAt b 32 8) ∧ x.s1 = sextInt 64 (leAt b 40 8) ∧ x.used = 0 ∧ x.ready = []) ∧
      (s.issuing → s.thr.stream d.toNat = none → exec (.vfree d) s = .next s.adv) ∧
      (s.issuing → ∀ x, s.thr.stream d.toNat = some x → x.write = false →
        ∃ t : State, exec (.vfree d) s = .next t ∧ t.thr.stream d.toNat = none ∧ .engineCompletion x.cmd ∈ t.pending ∧ t.mem = s.mem ∧
          t.pc = s.adv.pc ∧ ∀ r, t.v r = s.v r)) ∧
  (
    ∀ (s : State) (a b c : BitVec 5) (k : BitVec 3) (o : BitVec 1), s.settled → s.softs = [] →
      let d := s.tile s.loc a.toNat
      let ready := s.room .tl .x ∧ s.barrierReady
      let trap := fun (n : Nat) => trapOut s (trapInfo 0x0C n 0)
      (ready → tileV d = true → tileState d ≠ 1 → tileState d ≠ 3 → (o = 1 → tileCols d % 8 = 0) →
        ∃ t : State, exec (.tfill a b k o c) s = .next t ∧
          s.Accepted t k (.tfill a.toNat d (s.p b) (s.g c) (decide (o = 1))) [] ∧
          tileState (t.tile s.loc a.toNat) = 1 ∧ t.pending = s.pending ++ [.tileFillComplete s.nextId]) ∧
      (ready → s.tileReady a.toNat →
        ∃ t : State, exec (.tdrain a b k o c) s = .next t ∧
          s.Accepted t k (.tdrain a.toNat d (s.p b) (s.g c) (decide (o = 1))) [] ∧
          tileState (t.tile s.loc a.toNat) = 3 ∧ t.pending = s.pending ++ [.tileDrainComplete s.nextId]) ∧
      (ready → s.tileReady a.toNat → locDieKey (bits (s.g b) 23 0) = locDieKey s.loc →
        ∃ t : State, exec (.tswap a b k) s = .next t ∧ s.Accepted t k (.tswap a.toNat d (bits (s.g b) 23 0)) [] ∧
          tileState (t.tile s.loc a.toNat) = 1) ∧
      (tileV d = false → exec (.tfill a b k o c) s = trap 2 ∧ exec (.tdrain a b k o c) s = trap 2) ∧
      (tileV d = true → tileState d = 0 → exec (.tdrain a b k o c) s = trap 1))

/-- R293, R295, R57: with its tiles free and no soft error in an entry, `tcfg` from a readable block of well-formed descriptors,
`tdef` and `trel` complete: the entries are as written, reserved bits and PINS zero, empty, or in supervisor mode ready as written;
`tcfg` reads at P[b] as it stands (log 41). `tstat` of an even register gives both words, PINS with them (at most 63, log 100).
Other tiles, registers and memory are as they were. R304, R305: `etw` and `etr` of an assigned engine register, the pointer form on
a register of 80 bits, complete: the register takes the value of the general or pointer register, or the other way round. -/
def Obligations.TileTable : Prop :=
  (
    ∀ (s : State) (a b c : BitVec 5) (d : List Byte), s.softs = [] →
      let n := (s.g c).toNat
      let ok := fun (x : Word × Word) => tileV x = false ∨ tileWellFormed x = true
      let word := fun (i j : Nat) => (BitVec.ofNat 64 (leAt d (16 * i + 8 * j) 8) : Word)
      let stored := fun (t : State) (i : Nat) (x : Word × Word) (st : Nat) =>
        tileV (t.tile s.loc i) = tileV x ∧ tileState (t.tile s.loc i) = st ∧
        bits (t.tile s.loc i).1 60 51 = bits x.1 60 51 ∧ bits (t.tile s.loc i).1 50 48 = 0 ∧ bits (t.tile s.loc i).1 47 32 = bits x.1 47 32 ∧
        bits (t.tile s.loc i).1 31 28 = 0 ∧ bits (t.tile s.loc i).1 27 0 = bits x.1 27 0 ∧
        bits (t.tile s.loc i).2 63 20 = 0 ∧ bits (t.tile s.loc i).2 19 0 = bits x.2 19 0
      let rest := fun (t : State) (m : Nat) =>
        t.pc = s.adv.pc ∧ (∀ i, i < a.toNat ∨ a.toNat + m ≤ i → t.tile s.loc i = s.tile s.loc i) ∧ t.mem = s.mem ∧
        (∀ r, r ∉ s.counting → t.g r = s.g r) ∧ ∀ r : BitVec 3, t.p r = s.p r
      (s.settled → 1 ≤ n → a.toNat + n ≤ 32 → s.quietRead (s.p b) 0 (16 * n) = some d → (∀ i < n, s.tileFree (a.toNat + i)) →
        (∀ i < n, ok (word i 0, word i 1)) →
        ∃ t : State, exec (.tcfg a b c) s = .next t ∧ rest t n ∧ ∀ i < n, stored t (a.toNat + i) (word i 0, word i 1) 0) ∧
      (s.issuing → s.tileFree a.toNat → ok (s.g b, s.g c) →
        ∃ t : State, exec (.tdef a b c) s = .next t ∧ rest t 1 ∧
          stored t a.toNat (s.g b, s.g c) (if s.user = false ∧ bit (s.g b) 63 = true ∧ bits (s.g b) 62 61 = 2 then 2 else 0)) ∧
      (s.issuing → s.tileFree a.toNat →
        ∃ t : State, exec (.trel a) s = .next t ∧ rest t 1 ∧ tileV (t.tile s.loc a.toNat) = false) ∧
      (b.toNat % 2 = 0 → exec (.tstat a b) s =
        .next (((s.setG b (s.tile s.loc a.toNat).1).setG (b + 1)
          (setBits (s.tile s.loc a.toNat).2 63 58 (min 63 (s.pins s.loc a.toNat)))).adv)) ∧
      (b.toNat % 2 = 1 → exec (.tstat a b) s = trapOut s (illegal 0x05 s.word)) ∧
      (s.settled → n = 0 ∨ 32 < a.toNat + n → exec (.tcfg a b c) s = trapOut s (illegal 0x04 s.word))) ∧
  (
    ∀ (s : State) (sel : BitVec 3) (a n : BitVec 5) (p : BitVec 1), s.issuing →
      engineWidth sel.toNat n.toNat ≠ 0 → (p = 1 → engineWidth sel.toNat n.toNat = 80) →
      (∃ t : State, exec (.etw sel a n p) s = .next t.adv ∧ t.pc = s.pc ∧
        t.thr.engineReg sel.toNat n.toNat = (if p = 1 then s.p a else (s.g a).zeroExtend 80) ∧
        (∀ i j, i ≤ 3 → (i, j) ≠ (sel.toNat, n.toNat) → t.thr.engineReg i j = s.thr.engineReg i j) ∧
        (∀ r, t.g r = s.g r) ∧ (∀ r : BitVec 3, t.p r = s.p r) ∧ t.mem = s.mem) ∧
      (p = 0 → exec (.etr sel a n p) s = .next (s.setG a ((s.thr.engineReg sel.toNat n.toNat).truncate 64)).adv) ∧
      (p = 1 → exec (.etr sel a n p) s = .next (s.setP a (s.thr.engineReg sel.toNat n.toNat)).adv))

/-- R360-R370: `stv.map` from a well-formed index map is accepted and the thread's map is that one, STVST.N its number of qubits;
with a map, the other swage commands are accepted with their operands, `stv.gate` with its plan and matrix read, `stv.swap` of two
different qubits of the map; without one they take ILLEGAL with outcome 0x05, and with reserved bits set in STVST with outcome 0x06
(that this comes first is the model's choice, log 91). R161, R314-R321: a matrix command that passes the checks of its entry is
accepted while the dispatch queue has room, and enters it; a product of depth 64 takes block 1 alone where its tile's part bit is
set, and the bit is clear then. R322-R325: `mx.rd` of a tile that no queued command of the core will write gives the row converted,
in a mode that does not draw; `mx.prog` without a matrix command outstanding gives the part bits and clears those asked for;
`mx.send` from a block with zeros where they must be and a word that may be sent is accepted. -/
def Obligations.SwageAndMatrixCommands : Prop :=
  (
    ∀ (s : State) (a b c : BitVec 5) (k : BitVec 3) (x u : List Byte), s.settled →
      let map := (s.thr.stv.get 0)
      let n := bits (s.thr.stv.get 1) 5 0
      let reserved := bits (s.thr.stv.get 1) 63 6
      let mapped := map ≠ 0 ∧ n ≠ 0 ∧ reserved = 0
      let others := [Instr.stvInit a k, .stvGate a k, .stvSwap a b k, .stvProb a b k c, .stvFix a b k c, .stvNorm a k, .stvAmp a b k]
      let taken := fun (i : Instr) (kind : CmdKind) =>
        ∃ t : State, exec i s = .next t ∧ s.Accepted t k kind [] ∧ t.pending = s.pending ++ [.swageCommandStart s.nextId] ∧
          (kind ≠ .stvMap → t.thr.stv = s.thr.stv)
      (s.block (s.p a) = some x → stvMapOk x = true → taken (.stvMap a k) .stvMap ∧
        ∀ t, exec (.stvMap a k) s = .next t → t.thr.stv.get 0 = s.p a ∧
          bits (t.thr.stv.get 1) 5 0 = leAt x 4 1 ∧ bits (t.thr.stv.get 1) 63 6 = reserved) ∧
      (mapped →
        taken (.stvInit a k) (.stvInit (s.g a)) ∧
        taken (.stvProb a b k c) (.stvProb (s.p a) (s.g b) (s.g c)) ∧
        taken (.stvFix a b k c) (.stvFix (s.g a) (s.g b) (s.g c)) ∧
        taken (.stvNorm a k) (.stvNorm (s.p a)) ∧
        taken (.stvAmp a b k) (.stvAmp (s.p a) (s.g b)) ∧
        ((s.g a).toNat < n → (s.g b).toNat < n → s.g a ≠ s.g b → taken (.stvSwap a b k) (.stvSwap (s.g a).toNat (s.g b).toNat)) ∧
        ∀ fmt : Byte, s.block (s.p a) = some x → planOk x n = true →
          s.quietRead (BitVec.ofNat 80 (map.toNat / 64 * 64) + 5) 0 1 = some [fmt] → fmt = 0x0C ∨ fmt = 0x0D →
          s.quietRead (BitVec.ofNat 80 (leAt x 20 10)) 0 (2 ^ leAt x 4 1 * 2 ^ leAt x 4 1 * stvBytes fmt.toNat) = some u →
          taken (.stvGate a k) (.stvGate x u fmt.toNat)) ∧
      ((map = 0 ∨ n = 0) → reserved = 0 → ∀ i ∈ others, exec i s = trapOut s (illegal 0x05 s.word)) ∧
      (reserved ≠ 0 → ∀ i ∈ others, exec i s = trapOut s (illegal 0x06 s.word))) ∧
  (
    ∀ (s : State) (u v t sel : BitVec 1) (a b : BitVec 5) (k : BitVec 3) (c : BitVec 4), s.settled → s.softs = [] → s.cr.dq.length < 8 →
      let depth := if sel = 1 then 64 else 32
      let fa := bits s.cr.mxfmt 4 0
      let fb := bits s.cr.mxfmt 12 8
      let ga : Word := if u = 1 then 0 else s.g a
      let gb : Word := if v = 1 then 0 else s.g b
      let ta := if u = 1 then some (s.tile s.loc a.toNat) else none
      let tb := if v = 1 then some (s.tile s.loc b.toNat) else none
      let operands := (u = 1 → s.operandReady a.toNat fa 32 depth) ∧
        (v = 1 → t = 1 → s.operandReady b.toNat fb 32 depth) ∧ (v = 1 → t = 0 → s.operandReady b.toNat fb depth 32)
      let formats := operandPair s.cr.mxfmt = true ∧ mxxsReservedZero s.thr.mx = true
      let half := decide (sel = 1) && bit s.cr.mxprog c.toNat
      let queued := fun (i : Instr) (kind : CmdKind) (cleared : Nat → Prop) => ∃ r : State, exec i s = .next r ∧ s.Accepted r k kind [] ∧
        r.cr.dq = s.cr.dq ++ [s.nextId] ∧ ∀ m < 16, bit r.cr.mxprog m = true ↔ bit s.cr.mxprog m = true ∧ ¬ cleared m
      (formats → operands →
        queued (.mxMac u v t a b k sel c) (.mac false (decide (t = 1)) (decide (sel = 1)) c.toNat ga gb ta tb half)
          (fun m => sel = 1 ∧ m = c.toNat)) ∧
      (formats → operands → mxInteger s.cr.mxfmt = false → bits ga 31 0 % 32 = 0 → bits gb 31 0 % 32 = 0 →
        queued (.mxMacb u v t a b k sel c) (.mac true (decide (t = 1)) (decide (sel = 1)) c.toNat ga gb ta tb half)
          (fun m => sel = 1 ∧ m = c.toNat)) ∧
      queued (.mxZero k c) (.mxZero c.toNat) (fun _ => False) ∧
      (moveLegal s.thr.mx = true → queued (.mxLd a k c) (.mxLd c.toNat (s.p a)) (fun _ => False) ∧
        queued (.mxSt a k c) (.mxSt c.toNat (s.p a)) (fun _ => False)) ∧
      (mxcgReservedZero s.thr.mx = true → moveFmt (mxDFmt s.thr.mx) = true → queued (.mxHand k c) (.mxHand c.toNat) (fun _ => False))) ∧
  (
    ∀ (s : State) (d a b : BitVec 5) (k : BitVec 3) (c : BitVec 4) (x : List Byte) (i : Instr),
      let fmt := mxDFmt s.thr.mx
      let e := Sys2Proof.Float.fmtBytes fmt
      let n := min 32 (256 / e)
      let row := (s.g b).toNat % 32
      let w : BitVec 32 := BitVec.ofNat 32 (leAt x 4 4)
      let opa : Ptr := BitVec.ofNat 80 (leAt x 16 10)
      let opb : Ptr := BitVec.ofNat 80 (leAt x 32 8)
      let product := operandPair s.cr.mxfmt = true ∧ mxxsReservedZero s.thr.mx = true
      let sendable := match i with
        | .mxZero _ _ => True
        | .mxLd _ _ _ => moveLegal s.thr.mx = true
        | .mxSt _ _ _ => moveLegal s.thr.mx = true
        | .mxMac u v _ _ _ _ _ _ => u = 0 ∧ v = 0 ∧ product
        | .mxMacb u v _ _ _ _ _ _ => u = 0 ∧ v = 0 ∧ product ∧ mxInteger s.cr.mxfmt = false ∧ bits opa 31 0 % 32 = 0 ∧ bits opb 31 0 % 32 = 0
        | _ => False
      (s.issuing → s.unbound → moveFmt fmt = true → s.tileAwaits s.loc c.toNat = false → s.softs = [] → mxMode s.cr.mxfmt ≠ 4 →
        ∃ t : State, exec (.mxRd d b c) s = .next t ∧ t.pc = s.adv.pc ∧ (∀ r, r ≠ d → t.v r = s.v r) ∧ (t.v d).toNat < 2 ^ (8 * e * n) ∧
          t.mem = s.mem ∧ ∀ j < n, lane (t.v d) e j =
            (codeOfAcc fmt (mxInf8 s.cr.mxfmt) (mxMode s.cr.mxfmt) (mxSat s.cr.mxfmt) 0 (s.cr.acc c.toNat row j)).1 % 2 ^ (8 * e)) ∧
      (s.issuing → s.thr.outstanding .mx = 0 →
        (∃ t : State, exec (.mxProg d) s = .next t.adv ∧ t.pc = s.pc ∧ (d ≠ 0 → (t.g d).toNat = bits s.cr.mxprog 15 0) ∧
          t.cr.mxprog = s.cr.mxprog) ∧
        ∃ t : State, exec (.mxProgClr d b) s = .next t.adv ∧ t.pc = s.pc ∧ (d ≠ 0 → (t.g d).toNat = bits s.cr.mxprog 15 0) ∧
          ∀ m < 16, bit t.cr.mxprog m = true ↔ bit s.cr.mxprog m = true ∧ ¬ bit (s.g b) m = true) ∧
      (s.settled → s.block (s.p b) = some x → zeroBytes x 26 6 = true → zeroBytes x 40 24 = true → bits w 31 26 = 0x2D →
        decodeWord w = .ok i → sendable →
        ∃ t : State, exec (.mxSend a b k) s = .next t ∧
          s.Accepted t k (.mxSend (bits (s.g a) 23 0) (BitVec.ofNat 64 (leAt x 8 8)) w opa opb) [] ∧
          t.pending = s.pending ++ [.mxSendArrival s.nextId]))

/-- R165, R298, R299: `join`, `leave` and `gbar` at a group object of the module complete as the object stands: a first member makes
it valid, a later one of its team is counted at once or, while a generation is arriving, at its end; a member that leaves may end
the generation, and the last one makes the object invalid; an arrival that is not the last waits with the generation it read, the
last one ends it and releases those that wait. A join of another team takes ILLEGAL with outcome 0x07, a `leave` or `gbar` of an
invalid object, or a `gbar` of one whose SCOPE is above 5, 0x06; a `gbar` arrives once what its release waits for has performed;
that its SCOPE is read once and kept in the slot is the reading of log 49. -/
def Obligations.GroupResults : Prop :=
  ∀ (s : State) (a b : BitVec 5) (sel : BitVec 3) (pa : Nat) (x : Byte), s.settled → Memory.wf s.mem = true →
    (s.p b).toNat % 64 = 0 → s.quietParts .atomic (s.p b) 0 64 = some [(pa, 0, 64)] →
    let o := s.groupAt 0 pa
    let valid := bit o.flags 0 = true
    let team : BitVec 32 := BitVec.ofNat 32 (bits s.thr.gtid 63 32)
    let after := fun (t : State) (n : Group) => t.groupAt 0 pa = n ∧
      ∀ key y, y < pa ∨ pa + 28 ≤ y → t.readByte key y = s.readByte key y
    let joins := fun (n : Group) (g : BitVec 32) => ∃ t : State, exec (.join a b sel) s = .next t.adv ∧ t.pc = s.pc ∧
      (a ≠ 0 → t.g a = g.zeroExtend 64) ∧ (∀ r, r ≠ a → t.g r = s.g r) ∧ after t n
    let m := o.mcount - 1
    let ends := (o.arrived ≠ 0 ∧ m ≤ o.arrived) ∨ (m = 0 ∧ o.pend ≠ 0)
    let closed := fun (n : Group) => if n.mcount = 0 ∧ n.pend = 0 then { n with flags := n.flags &&& 0xFE } else n
    let whole : Group := { o with mcount := o.mcount + o.pend, arrived := 0, pend := 0, gen := o.gen + 1 }
    (sel.toNat ≤ 5 → ¬ valid →
      joins { o with mcount := 1, arrived := 0, pend := 0, scope := sel.zeroExtend 8, flags := 1, team := team } o.gen) ∧
    (sel.toNat ≤ 5 → valid → o.team = team → o.arrived = 0 → joins { o with mcount := o.mcount + 1 } o.gen) ∧
    (sel.toNat ≤ 5 → valid → o.team = team → o.arrived ≠ 0 → joins { o with pend := o.pend + 1 } (o.gen + 1)) ∧
    (sel.toNat ≤ 5 → valid → o.team ≠ team → exec (.join a b sel) s = trapOut s (illegal 0x07 s.word)) ∧
    (valid → ∃ t : State, exec (.leave b) s = .next t ∧ t.pc = s.adv.pc ∧ after t (closed
      (if ends then { o with mcount := m + o.pend, arrived := 0, pend := 0, gen := o.gen + 1 } else { o with mcount := m }))) ∧
    (¬ valid → exec (.leave b) s = trapOut s (illegal 0x06 s.word)) ∧
    (s.thr.gbarWait = none → s.thr.gbarScope = none → s.quietRead (s.p b + 16) 0 1 = some [x] → x.toNat ≤ 5 →
        (4 ≤ x.toNat → s.storesDone) → s.sendsDone (BitVec.ofNat 3 x.toNat) →
      (¬ valid → exec (.gbar b) s = trapOut s (illegal 0x06 s.word)) ∧
      (valid → o.mcount ≤ o.arrived + 1 → ∃ t : State, exec (.gbar b) s = .next t ∧ t.pc = s.adv.pc ∧ after t whole ∧
        ∀ l k w, (s.threadAt l k).gbarWait = some w → w.pa = pa → w.gen = o.gen →
          (t.threadAt l k).gbarWait = some { w with released := true }) ∧
      (valid → ¬ o.mcount ≤ o.arrived + 1 → ∃ t : State, exec (.gbar b) s = .next t ∧ t.pc = s.pc ∧
        after t { o with arrived := o.arrived + 1 } ∧ t.thr.gbarScope = some x ∧ t.thr.gbarWait = some ⟨pa, 0, o.gen, BitVec.ofNat 3 x.toNat, false⟩)) ∧
    (s.thr.gbarWait = none → s.thr.gbarScope = none → s.quietRead (s.p b + 16) 0 1 = some [x] → 5 < x.toNat →
      exec (.gbar b) s = trapOut s (illegal 0x06 s.word)) ∧
    (∀ w, s.thr.gbarWait = some w → w.released = true →
      ∃ t : State, exec (.gbar b) s = .next t ∧ t.pc = s.adv.pc ∧ t.thr.gbarWait = none ∧ t.thr.gbarScope = none ∧ t.mem = s.mem)

/-- R154, R300-R302, R334, R335, log 48: `snd`, `sndv` and `spawn` to a core of the module that is there complete: a message with
the fields of its header, the sender, the payload and the sender's identity is on its way to the core; `lbk` in supervisor mode puts
its 80 bytes in the core's inbox with LOOP set while there is room, without a region (the reading of log 48); `tid` gives the field
of its selector; `done` outside a body parts an alloy and ends the task, once its stores are acknowledged and its commands complete.
-/
def Obligations.MessageAndTaskResults : Prop :=
  ∀ (s : State) (l k : Nat) (a b h p : BitVec 5) (c : BitVec 3) (x : List Byte), s.settled → s.cur = .slot l k →
    let dest := bits (s.g a) 25 0
    let there := locKind dest ≤ 1 ∧ s.coreThere dest = true ∧ locModule dest = locModule l ∧ s.heldBy l < 256
    let chan := if s.user then min c.toNat s.thr.prio.toNat else c.toNat
    let sends := fun (i : Instr) (hidx usr ch : Nat) (payload : List Word) =>
      ∃ t : State, ∃ m : Msg, exec i s = .next t ∧ t.pc = s.adv.pc ∧ t.msgs = s.msgs ++ [m] ∧ .messageArrival m.id ∈ t.pending ∧
        m.target = dest ∧ bits m.header 11 0 = hidx ∧ bits m.header 39 22 = usr ∧ bits m.header 14 12 = ch ∧
        bits m.header 63 40 = l % 2 ^ 24 ∧ bits m.header 21 20 = locKind l ∧ m.payload = payload ∧
        m.gtid = s.thr.gtid ∧ m.ctx = s.thr.ctxid ∧ (∀ r, r ∉ s.counting → t.g r = s.g r) ∧ t.mem = s.mem
    let gives := fun (sel : BitVec 3) (y : Nat) => exec (.tid a sel) s = .next (s.setG a (BitVec.ofNat 64 y)).adv
    let head := fun (w : Word) => (bits w 11 0, bits w 39 22)
    (there → bit (s.g a) 63 = false → p.toNat ≤ 25 →
      sends (.snd a b c p) (head (s.g b)).1 (head (s.g b)).2 chan ((List.range 7).map fun i => s.g (p + BitVec.ofNat 5 i))) ∧
    (there → bit (s.g a) 63 = false → s.unbound →
      sends (.sndv a b c h) (head (s.g h)).1 (head (s.g h)).2 chan ((List.range 7).map fun i => BitVec.ofNat 64 (lane (s.v b) 8 i))) ∧
    (there → sends (.spawn a b) (bits (s.g b) 11 0) (bits (s.g b) 29 12) s.thr.prio.toNat [s.g 2, s.g 3, s.g 4, s.g 5, s.g 6, s.g 7, s.g 8]) ∧
    (s.user = false → s.quietRead (s.p a) 0 80 = some x → s.cr.redirect = [] → s.cr.inbox.length < 63 →
      ∃ t : State, ∃ m : InMsg, exec (.lbk a) s = .next t ∧ t.pc = s.adv.pc ∧ t.cr.inbox = s.cr.inbox ++ [m] ∧
        bit m.header 19 = true ∧ (∀ i < 64, i ≠ 19 → bit m.header i = (leAt x 0 8).testBit i) ∧
        m.payload = ((List.range 7).map fun i => BitVec.ofNat 64 (leAt x (8 + 8 * i) 8)) ∧ m.gtid.toNat = leAt x 64 8 ∧
        m.ctx.toNat = leAt x 72 2) ∧
    (gives 0 (bits s.thr.gtid 31 12) ∧ gives 1 (bits s.thr.gtid 63 32) ∧ gives 2 (bits s.thr.gtid 11 0) ∧ gives 3 (l % 2 ^ 24) ∧
      gives 4 k) ∧
    (5 ≤ c.toNat → exec (.tid a c) s = trapOut s (illegal 0x04 s.word)) ∧
    (s.inBody = false → s.storesDone → s.thr.opens = [] → s.thr.buffer = [] → s.thr.forming = none → (k = 4 → s.cr.diverted = false) →
      ∃ t : State, exec .done s = .next t ∧ (t.threadAt l k).st = .free ∧ (t.threadAt l k).alloy = 0 ∧ t.mem = s.mem)

/-- R336, R337, R341, R349: `sndz`, the forward transfers and `coll` with registers within their limits are accepted with their
operands; a transfer that takes a hand-off slot of its task takes its codes; a recorded one within the quota gets a free slot of the
tape, whose handle goes to its register. Beyond the quota, in the mode that refuses, the reason goes to the register and no command
is accepted. Registers beyond their limits take ILLEGAL with outcome 0x06. -/
def Obligations.TransferCommands : Prop :=
  ∀ (s : State) (x a h : BitVec 5) (k : BitVec 3) (f r : BitVec 1) (o : BitVec 2) (n : BitVec 4), s.settled →
    let ni := s.thr.ni
    let scat := if niAdd ni then 4 else 3
    let units := fun (kind : Nat) => s.cl.quota s.cr.tapeb s.cr.tapel (listUnits kind ni)
    let legal := fun (kind : Nat) => transferLegal kind ni = true ∧ ¬ (kind = 1 ∧ niGlb ni = true)
    let takes := fun (kind : Nat) (hand : Option (List Nat)) =>
      (hand = none ∧ (niHq ni = false ∨ kind = 2)) ∨
      (niHq ni = true ∧ kind ≠ 2 ∧ ∃ q, s.cr.hand.find? (fun z => z.uid = s.thr.uid) = some q ∧ q.fmt = niFmt ni ∧
        niCount ni * (niRwm1 ni + 1) = 1024 ∧ hand = some q.codes)
    (s.unbound → ∃ t : State, exec (.sndz x a k f h) s = .next t ∧
      s.Accepted t k (.sndz ((s.g x).truncate 20) (s.v a) (decide (f = 1)) (s.g h)) [] ∧
      t.pending = s.pending ++ [.sndzArrival s.nextId]) ∧
    (∀ e ∈ [(Instr.nmc x a k r h, 1), (.ngt x a k r h, 2), (.nsc x a k r h, scat), (.na2a x a k r h, 5)],
      (∀ hand, legal e.2 → takes e.2 hand → r = 0 →
        ∃ t : State, exec e.1 s = .next t ∧ s.Accepted t k (.transfer e.2 (s.g x) (s.p a) none hand) [] ∧
          .engineCompletion s.nextId ∈ t.pending) ∧
      (∀ hand u, legal e.2 → takes e.2 hand → r = 1 → units e.2 = .ok u →
        ∃ t : State, ∃ slot : Nat, ∃ gen : BitVec 16, exec e.1 s = .next t ∧
          s.Accepted t k (.transfer e.2 (s.g x) (s.p a) (some (slot, gen)) hand) [h] ∧
          slot < 1024 ∧ gen ≠ 0 ∧ (∀ y ∈ s.cl.tape, y.slot ≠ slot) ∧ (∃ y ∈ t.cl.tape, y.slot = slot ∧ y.gen = gen ∧ y.kind = e.2) ∧
          (h ≠ 0 → h ∉ s.counting → t.g h = handleOf (locClusterKey s.loc) slot gen)) ∧
      (∀ hand reason, legal e.2 → takes e.2 hand → r = 1 → units e.2 = .error reason → bits s.cr.tapep 1 0 = 0 →
        ∃ t : State, exec e.1 s = .next t ∧ t.cmds = s.cmds ∧ t.k k = s.k k ∧ (h ≠ 0 → h ∉ s.counting → t.g h = BitVec.ofNat 64 reason)) ∧
      (transferLegal e.2 ni = false → exec e.1 s = trapOut s (illegal 0x06 s.word))) ∧
    (o ≠ 3 → niReservedZero ni = true → niMode ni ≤ 4 → addFmt (niFmt ni) = true → niCount ni ≠ 0 →
      ∃ t : State, exec (.coll x a k o n) s = .next t ∧ s.Accepted t k (.coll o.toNat n.toNat (s.p x) (s.p a)) [] ∧
        t.pending = s.pending ++ [.collContribution s.nextId])

/-- R343, R347, R348: `ccfg` from a legal block lays down the tree for the task's rank; with a handle of a live entry of the task's
team whose lists have been read, `tfree` frees the entry, `tinfo` gives a word of its header, and `treplay` with a legal block is
accepted on the counter that the block names; a handle that is stale takes STALE_HANDLE. That an entry still being read is waited
for, and the other corners of the tape, are the model's choices of log 46. R350, R351, R410: an endpoint's command with a legal
transfer block is accepted with the block's fields, a receive while fewer than 256 are armed on its endpoint, and a malformed one of
any kind takes ILLEGAL with outcome 0x06 (the reading of log 45); `xpath` completes with 0 for a path that is not configured, as
every path of a disabled endpoint, and else with the path's round-trip time, its marks of the last 64 packets as a part of 65,535,
and its allowance; while a reconfiguration holds the route to the endpoint's table, the thread stays at it (R410). -/
def Obligations.TapeTreeAndEndpointResults : Prop :=
  (
    ∀ (s : State) (b d h : BitVec 5) (n : BitVec 4) (w : BitVec 3) (x : List Byte) (e : TapeEntry), s.settled → s.softs = [] →
      let ni := handleNi (s.g h)
      let team : BitVec 32 := BitVec.ofNat 32 (bits s.thr.gtid 63 32)
      let rank : BitVec 20 := BitVec.ofNat 20 (bits s.thr.gtid 31 12)
      let others := s.cl.trees.filter fun y => !(y.tree = n.toNat && y.team = team && y.rank = rank)
      let live := s.entryOf (s.g h) = .ok e ∧ e.reading = false
      let freed := fun (t : State) => (t.cluster ni).tape = (s.cluster ni).tape.filter fun y => !(y.slot = e.slot && y.gen = e.gen)
      (s.block (s.p b) = some x → treeBlock x = true → others.length < 256 →
        ∃ t : State, ∃ y : Tree, exec (.ccfg b n) s = .next t ∧ t.pc = s.adv.pc ∧ t.mem = s.mem ∧ t.cl.trees = others ++ [y] ∧
          y.tree = n.toNat ∧ y.team = team ∧ y.rank = rank ∧ (y.root = true ↔ 2 ^ 31 ≤ leAt x 4 4) ∧
          y.parent.toNat = leAt x 4 4 % 2 ^ 20 ∧ y.children.length = leAt x 8 1 ∧
          ∀ i < leAt x 8 1, (y.children.getD i 0).toNat = leAt x (12 + 4 * i) 4 % 2 ^ 20) ∧
      (live → ∃ t : State, exec (.tfree h) s = .next t ∧ t.pc = s.adv.pc ∧ freed t ∧ t.mem = s.mem ∧ ∀ r, r ∉ s.counting → t.g r = s.g r) ∧
      (live → exec (.tinfo d h w) s = .next (s.setG d (BitVec.ofNat 64 (leAt e.header (8 * w.toNat) 8))).adv) ∧
      (live → s.block (s.p b) = some x → replayBlock x = true → replayFmt e.fmt = true →
        ∃ t : State, exec (.treplay h b) s = .next t ∧
          s.Accepted t (BitVec.ofNat 3 (leAt x 14 1)) (.treplay ni e (BitVec.ofNat 64 (leAt x 4 8)) (leAt x 12 1) (leAt x 13 1)
            (BitVec.ofNat 80 (leAt x 16 10))) [] ∧ .engineCompletion s.nextId ∈ t.pending ∧ (leAt x 15 1 = 1 → freed t)) ∧
      (∀ q, s.entryOf (s.g h) = .error q →
        exec (.tfree h) s = trapOut s (trapInfo 0x13 q ((s.g h).zeroExtend 80)) ∧
        exec (.tinfo d h w) s = trapOut s (trapInfo 0x13 q ((s.g h).zeroExtend 80)))) ∧
  (
    ∀ (s : State) (b d e : BitVec 5) (k : BitVec 3) (x : List Byte),
      let ep := leAt x 4 1
      let at_ : Ptr := BitVec.ofNat 80 (leAt x 8 10)
      let len := leAt x 24 8
      let peer : BitVec 32 := BitVec.ofNat 32 (leAt x 32 4)
      let roff : Word := BitVec.ofNat 64 (leAt x 40 8)
      let key : Word := BitVec.ofNat 64 (leAt x 48 8)
      let taken := fun (i : Instr) (kind : CmdKind) => ∃ t : State, exec i s = .next t ∧ s.Accepted t k kind [] ∧
        t.pending = s.pending ++ [.engineCompletion s.nextId]
      (s.settled → s.block (s.p b) = some x → transferBlock x false = true →
        taken (.xpostTx b k) (.ethPut ep (leAt x 5 1) at_ len peer roff key) ∧
        taken (.xfetch b k) (.ethGet ep (leAt x 5 1) at_ len peer roff key)) ∧
      (s.settled → s.block (s.p b) = some x → transferBlock x true = true → (s.armed (locModule s.loc) ep).length < 256 →
        taken (.xpostRx b k) (.ethRecv ep at_ len peer key)) ∧
      (s.settled → s.block (s.p b) = some x → transferBlock x false = false →
        exec (.xpostTx b k) s = trapOut s (illegal 0x06 s.word) ∧ exec (.xfetch b k) s = trapOut s (illegal 0x06 s.word)) ∧
      (let dk := locModule s.loc * 16 + bits (s.g e) 2 0
      let z := s.pathAt dk (bits (s.g e) 15 8)
      let on := ∃ u : State, (pathConfigured dk (bits (s.g e) 15 8) (bits (s.die dk).epcfg 47 32) 0).run s = .ok true u
      let gives := fun (y : Nat) => exec (.xpath d e) s = .next (s.setG d (BitVec.ofNat 64 y)).adv
      (on → gives (z.rtt.toNat + ((List.range 64).filter fun i => z.marks.getLsbD i).length * 65535 / 64 * 2 ^ 16 + z.allow.toNat * 2 ^ 32)) ∧
      let held := ∃ u : State, (pathConfigured dk (bits (s.g e) 15 8) (bits (s.die dk).epcfg 47 32) 0).run s = .error .stall u
      (¬ on → ¬ held → gives 0) ∧ (held → ∃ t : State, exec (.xpath d e) s = .next t ∧ t.pc = s.pc) ∧ (bit (s.die dk).epcfg 63 = false → gives 0)))

/-- R39, R42: an invalidation, at the units of its scope, whose cores' late stores perform first (log 80), takes every covered
translation from their TLBs and no other, and every covered entry from the walk caches, and its acknowledgement follows; once no
earlier access is in flight the acknowledgement ends it, and till then it waits. R74, R79, R82, R86, R87, R169: a request waits
while a reconfiguration holds its route (R410) or an earlier access of its thread must go first (R111, R124), and else is sent, its
transactions to lost modules, and by log 54 to modules that are no member of the domain, failing with outcome 0 at once; at a
scratchpad home that does not refuse it a read takes the bytes there and a write stores its bytes; its reply goes to the thread that
stalls, or into the record of the parked task; a read or a sent matrix command without answer fails with outcome 1, each of its
transactions that was sent; the acknowledgement of a posted store ends it and notes each transaction that failed for its task. -/
def Obligations.RequestSteps : Prop :=
  (
    ∀ (s : State) (id : Nat) (i : Inval), s.invals.find? (fun x => x.id = id) = some i →
      let kept := s.drainAll fun l => unitInScope i.loc i.scope.toNat (coreUnit l)
      (∃ t : State, exec (.invalidate id) s = .next t ∧ t.mem = kept.mem ∧ t.cores = kept.cores ∧ .invalidateAck id ∈ t.pending ∧
        (∃ j, t.invals.find? (fun x => x.id = id) = some j ∧ j.dropped = true) ∧
        (∀ u e, (u, e) ∈ t.tlbs → unitInScope i.loc i.scope.toNat u = true → ∀ y ∈ e, invalCovers i y = false) ∧
        (∀ u e y, (u, e) ∈ s.tlbs → y ∈ e → unitInScope i.loc i.scope.toNat u = false ∨ invalCovers i y = false →
          ∃ z, (u, z) ∈ t.tlbs ∧ y ∈ z) ∧
        (∀ u e, (u, e) ∈ t.walks → walkInScope i.loc i.scope.toNat u = true → ∀ y ∈ e, invalCoversWalk i y = false) ∧
        (∀ k ∈ t.kept, unitInScope i.loc i.scope.toNat (coreUnit k.loc) = false)) ∧
      (i.dropped = true → s.inFlight i = false → ∃ t : State, exec (.invalidateAck id) s = .next t ∧
        (∀ x ∈ t.invals, x.id ≠ id) ∧ (∀ x ∈ s.invals, x.id ≠ id → x ∈ t.invals) ∧ t.tlbs = s.tlbs ∧ t.walks = s.walks ∧ t.mem = s.mem) ∧
      (i.dropped = false ∨ s.inFlight i = true → exec (.invalidateAck id) s = .next s)) ∧
  (
    ∀ (s : State) (id : Nat) (r : Req) (p : Part), Memory.wf s.mem = true → s.req id = some r →
      let home := locModule r.loc
      let ck := locClusterKey r.loc
      let lost := fun (x : Part) => s.cutOff home (paModule x.pa) = true ∨ s.member (paModule x.pa) = false
      let alone := r.sent = true ∧ r.performed = false ∧ r.parts = [p] ∧ p.done = false ∧ s.errs = [] ∧ paKind p.pa = 1 ∧
        s.homeCheck r.user p.pa p.len = none ∧ s.cutOff home (paModule p.pa) = false ∧ s.replyPaused r = false
      (r.sent = false → s.requestHeld r = true ∨ s.requestBehind r = true → exec (.remoteRequest id) s = .next s) ∧
      (r.sent = false → s.requestHeld r = false → s.requestBehind r = false → ∃ t : State, exec (.remoteRequest id) s = .next t ∧ t.mem = s.mem ∧ .homePerform id ∈ t.pending ∧
        ∃ q, t.req id = some q ∧ q.sent = true ∧ q.since = s.now ∧ q.parts.length = r.parts.length ∧
          ∀ (n : Nat) (x : Part), r.parts[n]? = some x →
            (lost x → q.parts[n]? = some { x with done := true, outcome := some 0 }) ∧ (¬ lost x → q.parts[n]? = some x)) ∧
      (alone → r.op = .read → ∃ t : State, exec (.homePerform id) s = .next t ∧ t.mem = s.mem ∧ .remoteReply id ∈ t.pending ∧
        ∃ q, t.req id = some q ∧ q.performed = true ∧
          q.parts = [{ p with data := s.readBytes clearKey p.pa p.len, done := true }]) ∧
      (alone → r.op = .write → p.data.length = p.len → s.inContextTable p.pa p.len = false →
        ∃ t : State, exec (.homePerform id) s = .next t ∧ s.Stored t [(p.pa, 0, p.len)] p.data ∧ .storeAck id ∈ t.pending ∧
          ∃ q, t.req id = some q ∧ q.performed = true ∧ q.parts = [{ p with done := true }]) ∧
      (r.performed = true → r.replied = false → r.op ≠ .write →
        ((s.cluster ck).parked.find? (fun y => y.req = some id) = none →
          ∃ t : State, exec (.remoteReply id) s = .next t ∧ t.mem = s.mem ∧ t.clusters = s.clusters ∧
            t.req id = some { r with replied := true }) ∧
        (∀ y, s.reconfiguring = false → (s.cluster ck).parked.find? (fun y => y.req = some id) = some y →
          ∃ t : State, exec (.remoteReply id) s = .next t ∧ t.req id = none ∧
            ∃ z ∈ (t.cluster ck).parked, z.slot = y.slot ∧ z.req = none)) ∧
      (s.cmd id = none → r.op = .read → r.sent = true → r.replied = false →
        ∃ t : State, exec (.remoteTimeout id) s = .next t ∧ .remoteReply id ∈ t.pending ∧
          ∃ q, t.req id = some q ∧ q.performed = true ∧
            q.parts.map (·.outcome) = r.parts.map fun x => if x.outcome = some 0 then some 0 else some 1) ∧
      (∀ c b a w x y, s.cmd id = some c → c.kind = .mxSend b a w x y → c.performed = false →
        ∃ t : State, exec (.remoteTimeout id) s = .next t ∧ t.failedWith id 0x0B 1) ∧
      (r.performed = true → r.op = .write → ∃ t : State, exec (.storeAck id) s = .next t ∧ t.mem = s.mem ∧ t.req id = none ∧
        ((∀ x ∈ r.parts, x.outcome = none) → t.clusters = s.clusters) ∧
        ∀ x ∈ r.parts, x.outcome ≠ none → ∃ f ∈ (t.cluster ck).fails, f.torig = r.torig ∧ f.tser = r.tser))

/-- R159, R160, R164, R170, R171, R414: a message for a core that is there, and that nothing holds back, stands last in its inbox
while that has room and is held while it has none; a message that is held is tried again; its acknowledgement ends it; a selected
message starts its task in the slot with its registers; with each 2^16 ck a queued message rises by a channel; the overflow
registers take off the oldest diverted message and end the mode when none is left; a 64-byte write of the message window is a
message to the die's dispatcher, and any other is only counted. -/
def Obligations.MessageSteps : Prop :=
  ∀ (s : State) (id l k off : Nat) (m : Msg) (n : InMsg) (data : List Byte),
    let there := s.coreThere m.target = true ∧ s.cutOff (m.ni / 2 ^ 10) (locModule m.target) = false ∧ s.mustWait m = false ∧
      s.routePaused (m.ni / 2 ^ 10) (locModule m.target) = false ∧ (s.core m.target).redirect = [] ∧ m.rank = none ∧ m.queued = false
    let tried := fun (i : Instr) => i = .messageArrival id ∨ (i = .messageRetry id ∧ m.held = true)
    (∀ i, s.msg id = some m → there → tried i → (s.core m.target).inbox.length < 63 →
      ∃ t : State, ∃ x : InMsg, exec i s = .next t ∧ t.mem = s.mem ∧
        (t.core m.target).inbox = (s.core m.target).inbox ++ [x] ∧ x.payload = m.payload ∧ x.gtid = m.gtid ∧ x.ctx = m.ctx ∧
        (m.loop = false → x.header = m.header) ∧ .messageAck id ∈ t.pending ∧ ∃ q, t.msg id = some q ∧ q.queued = true) ∧
    (∀ i, s.msg id = some m → there → tried i → 64 ≤ (s.core m.target).inbox.length →
      ∃ t : State, exec i s = .next t ∧ t.cores = s.cores ∧ t.mem = s.mem ∧
        ∃ q, t.msg id = some q ∧ q.held = true ∧ q.queued = false) ∧
    (s.msg id = some m → m.queued = true → ∃ t : State, exec (.messageAck id) s = .next t ∧ t.msg id = none ∧
      t.mem = s.mem ∧ t.cores = s.cores ∧
      ∀ j, m.req = some j → .storeAck j ∈ t.pending ∧ ∀ q, s.req j = some q → ∃ z, t.req j = some z ∧ z.performed = true) ∧
    (s.selectSlot l = some k → (s.core l).pick = some n → hidxOf n.header < 0xFFE →
      ∃ t : State, exec (.messageSelect l) s = .next t ∧ t.mem = s.mem ∧ (t.core l).inbox.length + 1 = (s.core l).inbox.length ∧
        let y := t.threadAt l k
        y.st = .running ∧ y.gtid = n.gtid ∧ y.ctxid = n.ctx ∧ y.prio.toNat = chanOf n.header ∧ y.g.getD 1 0 = n.header ∧
        (∀ i < 7, y.g.getD (i + 2) 0 = n.payload.getD i 0) ∧
        (∀ pc sup, (s.handler l (hidxOf n.header)).2 = some (pc, sup) → y.pc = pc ∧ y.status = if sup then 0 else 1) ∧
        ((s.handler l (hidxOf n.header)).2 = none → y.pc.toNat = (s.core l).evec.toNat % 2 ^ 16 ∧ y.ecause = 0x4002 ∧ y.status = 6)) ∧
    (∃ t : State, exec (.messageAging l) s = .next t ∧ t.mem = s.mem ∧
      (t.core l).inbox.length = (s.core l).inbox.length ∧
      ∀ (i : Nat) (x : InMsg), (s.core l).inbox[i]? = some x → ∃ y, (t.core l).inbox[i]? = some y ∧
        chanOf y.header = min 7 (chanOf x.header + ((s.now - x.born) / 2 ^ 16 - x.age)) ∧ y.payload = x.payload ∧
        ∀ j < 64, j < 12 ∨ 14 < j → bit y.header j = bit x.header j) ∧
    (∀ pre post, (s.core l).inbox = pre ++ n :: post → (∀ x ∈ pre, x.diverted = false) → n.diverted = true →
      ∃ t : State, exec (.ibxpop l) s = .next t ∧ (t.core l).inbox = pre ++ post ∧ t.mem = s.mem) ∧
    ((∀ x ∈ (s.core l).inbox, x.diverted = false) →
      ∃ t : State, exec (.ibxEnd l) s = .next t ∧ (t.core l).diverted = false ∧ (t.core l).inbox = (s.core l).inbox ∧ t.mem = s.mem) ∧
    (data.length = 64 → off % 64 = 0 → off < 12 * 2 ^ 16 →
      ∃ t : State, ∃ q : Msg, exec (.hostBar0Write l off data) s = .next t ∧ t.mem = s.mem ∧ t.cores = s.cores ∧
        t.msgs = s.msgs ++ [q] ∧ .messageArrival q.id ∈ t.pending ∧ q.target = dispatcherLoc (l * 16 + off / 2 ^ 16) ∧
        hidxOf q.header = leAt data 0 8 % 2 ^ 12 ∧ bits q.header 39 22 = leAt data 0 8 / 2 ^ 22 % 2 ^ 18 ∧
        chanOf q.header = leAt data 0 8 / 2 ^ 12 % 8 ∧
        q.payload = ((List.range 7).map fun i => BitVec.ofNat 64 (leAt data (8 + 8 * i) 8))) ∧
    (data.length ≠ 64 ∨ off % 64 ≠ 0 ∨ 12 * 2 ^ 16 ≤ off →
      ∃ t : State, exec (.hostBar0Write l off data) s = .next t ∧ t.msgs = s.msgs ∧ t.mem = s.mem ∧ t.cores = s.cores ∧
        (t.module l).telemetry.find? 0x10 = some (min (2 ^ 64 - 1) (((s.module l).telemetry.find? 0x10).getD 0 + 1)))

/-- R91-R97: clearing the hotness table sets BUSY and, when it ends, every entry is zero (but for what lies in the table of
contexts, which only the hallmark core writes, R416, and where no frame of the table is itself migrating), no other byte has changed
and BUSY is clear; decay halves every counter of every entry; a migration slot goes from idle to copying, granule by granule, and
copied, is committed and released as its commands say, with the error of a malformed or misplaced command, of a source that cannot
be read, or of a destination that is lost. -/
def Obligations.MigrationSteps : Prop :=
  ∀ (s : State) (dk n : Nat) (lost : Bool), Memory.wf s.mem = true → n < 8 →
    let d := s.die dk
    let table := mkPa (dk / 16) (dk % 16) 0 (bits d.hotcfg 12 0 * 2 ^ 24)
    let entry := fun (x : State) (g : Nat) => (BitVec.ofNat 64 (ofBytes (x.readBytes clearKey (table + 8 * g) 8)) : Word)
    let elsewhere := fun (t : State) => ∀ key pa, pa < table ∨ table + 2 ^ 24 ≤ pa → t.readByte key pa = s.readByte key pa
    let m := s.migSlot dk n
    let phase := bits m.stat 63 62
    let ends := fun (i : Instr) (ph err : Nat) => ∃ t : State, exec i s = .next t ∧
      bits (t.migSlot dk n).stat 63 62 = ph ∧ bits (t.migSlot dk n).stat 59 56 = err ∧ (t.migSlot dk n).src = m.src ∧
      (t.migSlot dk n).dst = m.dst
    let i := bits m.stat 31 0
    let src := migSrc m + 4096 * i
    let dst := migDst m + 4096 * i
    let key := fun (pa : Nat) => s.keyOf (paModule pa) (bits m.ctl 19 12)
    let still := ∀ g < 2 ^ 21, s.migOf (table + 8 * g) = none
    let apart := ∀ g < 2 ^ 21, s.inContextTable (table + 8 * g) 8 = false
    (∃ t : State, exec (.hotcfgClr dk) s = .next t ∧ bit (t.die dk).hotcfg 61 = true ∧ .hotcfgClearDone dk ∈ t.pending ∧ t.mem = s.mem) ∧
    (bit d.hotcfg 61 = true → ∃ t : State, exec (.hotcfgClearDone dk) s = .next t ∧ bit (t.die dk).hotcfg 61 = false ∧
      (still → elsewhere t ∧ (apart → ∀ g < 2 ^ 21, entry t g = 0))) ∧
    (bits d.hotcfg 47 44 ≠ 0 → bit d.hotcfg 61 = false →
      ∃ t : State, exec (.hotnessDecay dk) s = .next t ∧ (still → elsewhere t ∧ (apart → ∀ g < 2 ^ 21,
        bits (entry t g) 63 48 = bits (entry s g) 63 48 / 2 ∧
        ∀ q < 4, bits (entry t g) (12 * q + 11) (12 * q) = bits (entry s g) (12 * q + 11) (12 * q) / 2))) ∧
    (bits d.hotcfg 47 44 = 0 → exec (.hotnessDecay dk) s = .next s) ∧
    (phase ≠ 0 → ends (.migStart dk n) phase 5) ∧
    (phase = 0 → s.migMalformed dk n = true → ends (.migStart dk n) 0 1) ∧
    (phase = 0 → s.migMalformed dk n = false → ends (.migStart dk n) 1 0) ∧
    (phase = 2 → ends (.migCommit dk n) 3 0) ∧ (phase ≠ 2 → ends (.migCommit dk n) phase 5) ∧
    (phase = 3 → ends (.migRelease dk n) 0 0) ∧ (phase ≠ 3 → ends (.migRelease dk n) phase 5) ∧
    (phase = 1 ∨ phase = 2 → ends (.migAbort dk n) 0 4) ∧ (phase = 0 ∨ phase = 3 → exec (.migAbort dk n) s = .next s) ∧
    (phase = 1 → ends (.migCopyError dk n lost) 0 (if lost then 2 else 3)) ∧
    (phase = 2 → ends (.migCopyError dk n true) 0 2 ∧ exec (.migCopyError dk n false) s = .next s) ∧
    (phase = 1 → s.inContextTable dst 4096 = false → s.migOf dst = none → s.routePaused (dk / 16) (paModule dst) = false →
      s.cutOff (dk / 16) (paModule dst) = false → s.paThere dst 4096 = true → s.beyondHbm dst 4096 = false →
      s.eccBad src 4096 = false → s.beyondHbm src 4096 = false →
      ∃ t : State, exec (.migGranuleCopied dk n) s = .next t ∧ t.readBytes (key dst) dst 4096 = s.readBytes (key src) src 4096 ∧
        bits (t.migSlot dk n).stat 31 0 = (i + 1) % 2 ^ 32 ∧
        bits (t.migSlot dk n).stat 63 62 = if 2 ^ (12 + 2 * bits m.ctl 11 8) ≤ 4096 * (i + 1) then 2 else 1)

/-- R19, R56, R67, R207, R210, R412, R428-R436: writes of register space and what their registers then hold; a write by user
software or at no register changes nothing; kept copies of a core are dropped after 1 ms; a boundary of the accounting period counts
a skip while a record is being written and else zeroes the counts and records them under the next record's number, with its time,
interval, die and skips; a sample of the trace unit stores a record for a running slot, or counts what it drops. A ring of
accounting records that lies elsewhere than in HBM and the step at which a record is made are log 26, a trace record dropped and
counted where its place is no HBM of the die is log 27, and a write at an offset without a register is log 61: the model's choices.
-/
def Obligations.RegisterSteps : Prop :=
  ∀ (s : State) (l dk ck k pa : Nat) (a w : Word), Memory.wf s.mem = true → ck < 2 ^ 20 → k < 5 →
    let d := s.die dk
    let c := s.cluster ck
    let at_ := regCore a.toNat
    let running := ((clusterLocs ck).map fun y => ((List.range 5).filter fun j => (s.threadAt y j).st = .running).length).sum
    (∀ x, c.parkPend = some x → c.parked = [] → ∃ t : State, exec (.parkcfgApply ck) s = .next t ∧ (t.cluster ck).parkcfg = x ∧
      (t.cluster ck).parkPend = none ∧ t.mem = s.mem) ∧
    (c.parked ≠ [] → ∃ t : State, exec (.parkcfgApply ck) s = .next t ∧ t.cluster ck = c ∧ t.mem = s.mem) ∧
    (∃ t : State, exec (.exbWrite l w) s = .next t ∧ (t.core l).exb.toNat = min 0x400 (bits w 16 6) * 64 ∧
      (∀ j, t.threadAt l j = s.threadAt l j) ∧ t.mem = s.mem) ∧
    (∃ t : State, exec (.ctxalwWrite l w) s = .next t ∧ t.mem = s.mem ∧
      ∀ i < 64, bit (t.core l).ctxalw i = (bit w i && decide (i < 16 ∨ (32 ≤ i ∧ i < 48) ∨ i = 63))) ∧
    (ctxAllowed (s.core l).ctxalw (bits w 15 0) = true → ∃ t : State, exec (.epcfgWrite dk l w) s = .next t ∧ t.mem = s.mem ∧
      (∀ i < 64, bit (t.die dk).epcfg i = (bit w i && decide (i < 48 ∨ i = 63))) ∧
      (t.die dk).eplo.toNat = bits (s.core l).ctxalw 15 0 ∧ (t.die dk).ephi.toNat = bits (s.core l).ctxalw 47 32) ∧
    (ctxAllowed (s.core l).ctxalw (bits w 15 0) = false → exec (.epcfgWrite dk l w) s = .next s) ∧
    (exec (.registerWrite l true a w) s = .next s) ∧
    (regOff a.toNat % 8 ≠ 0 → exec (.registerWrite l false a w) s = .next s) ∧
    (regOff a.toNat = 0x200000080 → ∃ t : State, exec (.registerWrite l false a w) s = .next t ∧ t.mem = s.mem ∧
      (t.core at_).srstate.toNat = if bits w 31 0 = 0 then 1 else bits w 31 0) ∧
    (regOff a.toNat = 0x200000090 → ∃ t : State, exec (.registerWrite l false a w) s = .next t ∧ t.mem = s.mem ∧
      ∀ i < 64, bit (t.core at_).stkcfg i = (bit w i && decide (4 ≤ i ∧ i < 28))) ∧
    (regOff a.toNat = 0x100000028 → ∃ t : State, exec (.registerWrite l false a w) s = .next t ∧ t.mem = s.mem ∧
      (t.cluster (locClusterKey at_)).trcbase = w) ∧
    (∃ t : State, exec (.trcptrWrite ck) s = .next t ∧ (t.cluster ck).trcptr = 0 ∧ t.mem = s.mem) ∧
    (∃ t : State, exec (.keptCopyDropped l) s = .next t ∧ t.mem = s.mem ∧
      ∀ x, x ∈ t.kept ↔ x ∈ s.kept ∧ ¬ (x.loc = l ∧ x.since + 2500000 ≤ s.now)) ∧
    (bit d.acctcfg 63 = false → exec (.acctBoundary dk) s = .next s) ∧
    (bit d.acctcfg 63 = true → d.acctWriting = true → ∃ t : State, exec (.acctBoundary dk) s = .next t ∧
      (t.die dk).acctSkip = min 255 (d.acctSkip + 1) ∧ (t.die dk).acctSeq = d.acctSeq ∧ (t.die dk).counts = d.counts) ∧
    (bit d.acctcfg 63 = true → d.acctWriting = false → ∃ t : State, exec (.acctBoundary dk) s = .next t ∧ (t.die dk).counts = [] ∧
      (∀ x, s.acctPlace dk d.acctSeq.toNat = some x → (t.die dk).acctSeq = d.acctSeq + 1 ∧ (t.die dk).acctSkip = 0 ∧
        (bit (s.die (paDieKey x)).hotcfg 63 = false → (∀ i < 8, s.migOf (x + 4096 * i) = none) → s.inContextTable x (2 ^ 15) = false →
          let b := t.readBytes (s.keyOf (paModule x) 0) x 20
          leAt b 8 8 = s.now % 2 ^ 64 ∧ leAt b 16 2 = bits d.acctcfg 41 32 ∧ leAt b 18 1 = dk % 16 ∧
          leAt b 19 1 = min 255 d.acctSkip)) ∧
      (s.acctPlace dk d.acctSeq.toNat = none → t.mem = s.mem)) ∧
    (bits c.trccfg 61 57 = 0 → exec (.traceSample ck) s = .next s) ∧
    (bits c.trccfg 61 57 ≠ 0 → bit c.trccfg 63 = true → bits c.trccfg 31 0 = 0 → s.trcPlace ck = none →
      ∃ t : State, exec (.traceSample ck) s = .next t ∧ t.mem = s.mem ∧
        bits (t.cluster ck).trcptr 63 32 = min (2 ^ 32 - 1) (bits c.trcptr 63 32 + running) ∧
        bits (t.cluster ck).trcptr 31 0 = bits c.trcptr 31 0) ∧
    (bits c.trccfg 61 57 ≠ 0 → bit c.trccfg 63 = true → bits c.trccfg 31 0 = 0 → s.trcPlace ck = some pa → (∀ i < 32, s.migOf (pa + i) = none) →
      s.inContextTable pa 32 = false → l ∈ clusterLocs ck → (s.threadAt l k).st = .running → running = 1 →
      ∃ t : State, exec (.traceSample ck) s = .next t ∧ bits (t.cluster ck).trcptr 31 0 = (bits c.trcptr 31 0 + 1) % 2 ^ 32 ∧
        let b := t.readBytes (s.keyOf (paModule pa) 0) pa 32
        leAt b 0 8 = (s.threadAt l k).gtid.toNat ∧ leAt b 8 8 = s.now % 2 ^ 64 ∧ leAt b 16 1 = 1 ∧
        leAt b 17 1 = k + locCore l * 16 ∧ leAt b 20 2 = (s.threadAt l k).pc.toNat)

/-- R207, R436, R187, R158, R174, R265, R387, R67, R70, R81, R432, R91, R93, R97, R429, R412, R327, R435, R19: a supervisor write of
a register of a core, a cluster or a die acts, and the register then reads what its table keeps of the value written: the control
registers of R207 as a `crw` leaves them, the others by their fields; every other register and memory read as before, and no thread
is touched. PARKCFG waits for its step; MXCAPKEY is write-only; CTXALW drops what any but the hallmark core writes; EPCFG refuses a
context outside the range of the writing core. -/
def Obligations.RegisterWrites : Prop :=
  ∀ (s : State) (l k : Nat) (a w : Word), k < 5 →
    let o := regOff a.toNat
    let dk := paDieKey a.toNat
    let at_ := regCore a.toNat
    let c := s.core at_
    let y := s.threadAt at_ k
    let acts := fun (t : State) => exec (.registerWrite l false a w) s = .next t ∧ t.mem = s.mem ∧
      (∀ b, regOff b / 8 ≠ o / 8 ∨ paDieKey b ≠ dk → t.regValue l b = s.regValue l b)
    let holds := fun (v : Nat) => ∃ t : State, acts t ∧ t.regValue l a.toNat = some v ∧ ∀ l j, t.threadAt l j = s.threadAt l j
    (∀ n, ctrlAssigned n = true → threadCtrl n = false → o = 0x200010000 + 8 * n → holds (ctrlTakes n (s.coreCtrl at_ n) w).toNat) ∧
    (o = 0x200000080 → holds (if bits w 31 0 = 0 then 1 else bits w 31 0)) ∧
    (o = 0x200000090 → holds (bits w 27 4 * 16)) ∧
    (o = 0x2000000A0 → holds ((c.prectl &&& ~~~(w &&& 0x0F0F0000)).toNat / 16 * 16 + bits w 3 0)) ∧
    (k < 4 → o = 0x200000300 + 8 * k → ∃ t : State, acts t ∧ t.regValue l a.toNat = some (y.faults.length + if y.ovf = true ∧ bit w 3 = false then 8 else 0)) ∧
    (o = 0x200000400 + 8 * k → bits w 60 59 ∉ [1, 2] → ∃ t : State, acts t ∧
      (t.threadAt at_ k).pc = (if y.st = .stopped then BitVec.ofNat 16 (bits w 15 2 * 4) else y.pc) ∧ (t.threadAt at_ k).st = y.st) ∧
    (o = 0x200000500 → ∃ t : State, acts t ∧ t.regValue l a.toNat = some 0 ∧ (t.core at_).mxcapkey = w) ∧
    (o = 0x200000508 → holds (w &&& 0x8000FFFF0000FFFF).toNat) ∧
    (o = 0x200000600 → holds (bits w 31 0)) ∧
    (o = 0x200000700 → ∃ t : State, exec (.registerWrite l false a w) s = .next t ∧ t.mem = s.mem ∧ t.cores = s.cores ∧ t.clusters = s.clusters ∧
      t.dies = s.dies) ∧
    (o = 0x100000000 → ∃ t : State, acts t ∧ t.regValue l a.toNat = some (2 ^ 63 + bits w 25 17 * 2 ^ 17 + min 64 (bits w 6 0)) ∧
      .parkcfgApply (locClusterKey at_) ∈ t.pending ∧ (t.cluster (locClusterKey at_)).parkcfg = (s.cluster (locClusterKey at_)).parkcfg) ∧
    (o = 0x100000008 → holds (bits w 25 17 * 2 ^ 17 + min 8 (bits w 3 0))) ∧
    (o = 0x100000010 → holds (max 1 (bits w 31 16) * 2 ^ 16 + max 1 (min 64 (bits w 6 0)))) ∧
    (o = 0x100000020 → holds (bits w 63 62 * 2 ^ 62 + (if 10 ≤ bits w 61 57 ∧ bits w 61 57 ≤ 24 then bits w 61 57 * 2 ^ 57 else 0) +
      min 8 (bits w 56 53) * 2 ^ 53 + bits w 31 0)) ∧
    (o = 0x100000028 → holds w.toNat) ∧ (o = 0x100000030 → holds 0) ∧
    (o = 0x800000000 → bit w 62 = false →
      holds (((s.die dk).hotcfg &&& ~~~0x8000F00000001FFF) ||| (w &&& 0x8000F00000001FFF)).toNat) ∧
    (∀ n < 8, (o = 0x800010000 + 32 * n ∨ o = 0x800010008 + 32 * n) → holds (bits w 63 12 * 4096)) ∧
    (o = 0x800020000 → holds (bits w 63 63 * 2 ^ 63 + bits w 15 0)) ∧
    (o = 0x800040000 → holds (bits w 63 63 * 2 ^ 63 + max 1 (min 1000 (bits w 41 32)) * 2 ^ 32 + bits w 15 0)) ∧
    (o = 0x800040008 → holds w.toNat) ∧
    (dk % 16 < 8 →
      (o = 0xA00000000 → ctxAllowed (s.core l).ctxalw (bits w 15 0) = true → holds (bits w 63 63 * 2 ^ 63 + bits w 47 0)) ∧
      (o = 0xA00000000 → ctxAllowed (s.core l).ctxalw (bits w 15 0) = false → exec (.registerWrite l false a w) s = .next s) ∧
      (o = 0xA00000008 ∨ o = 0xA00000010 → holds w.toNat))

/-- R117, R118, R261, R266, R283, R290: a command that has performed completes: its counter's C takes its number, a fault of it
stands in the thread's queue with the counter marked; one with a barrier arrives there first, which counts it, ends the generation
with the last, and counts a stale arrival apart; a copy of one row puts the source's bytes at the destination; a stream fetches its
next chunk or performs the oldest produced one. That a command with a fault completes without an arrival at its barrier is the
reading of log 52. R59, R161, R296, R327, R336, R349, R350, R360, R413: a tile command performs and leaves its tile in the state
that follows, a drain once the products that name its tile have performed (R122), neither while a reconfiguration holds a route
(R410); an exchange performs on both sides; a matrix unit zeroes an accumulator; a sent command with its capability joins the
target's queue, one without it fails; a swage command follows the earlier ones; the one member of a tree gets its own elements;
trees that disagree end their commands (the choice of log 47); a sparse send adds the two largest lanes of each block; a packet
fills a receive or is counted; the timeouts fail what they end. -/
def Obligations.EngineSteps : Prop :=
  (
    ∀ (s : State) (id l k : Nat) (c : Cmd) (o : OpenCmd) (x : Stream) (from_ dest : List (Nat × Nat × Nat)), Memory.wf s.mem = true →
      let y := s.threadAt l k
      let ready := s.cmd id = some c ∧ s.disarmed ∧ s.placeOf c.uid = some (.slot l k) ∧ (y.opens.filter fun z => z.ctr = c.ctr) = [o] ∧
        o.cmd = id
      let completed := fun (t : State) => t.cmd id = none ∧
        (t.threadAt l k).k.get c.ctr.toFin = ⟨(y.k.get c.ctr.toFin).i, o.num⟩
      (ready → c.performed = true → c.fault = none → c.barrier = none → ∃ t : State, exec (.engineCompletion id) s = .next t ∧
        completed t ∧ t.mem = s.mem ∧ (t.threadAt l k).faults = y.faults ∧ (t.threadAt l k).marks = y.marks) ∧
      (∀ f, ready → c.performed = true → c.fault = some f → ∃ t : State, exec (.engineCompletion id) s = .next t ∧
        completed t ∧ t.mem = s.mem ∧ bit (t.threadAt l k).marks f.ctr.toNat = true ∧
        (y.faults.length < 4 → (t.threadAt l k).faults = y.faults ++ [f]) ∧ (4 ≤ y.faults.length → (t.threadAt l k).ovf = true)) ∧
      (∀ b, s.cmd id = some c → c.performed = true → c.fault = none → c.barrier = some b →
        exec (.engineCompletion id) s = .next (s.push (.barrierArrival id))) ∧
      (∀ a b, ready → c.performed = false → c.barrier = none → c.kind = .copy a b → cpRows c.cp = 1 →
        s.quietAt c.copyWho .load b (cpSrcXs c.cp) (cpRowBytes c.cp) = some from_ →
        s.quietAt c.copyWho .store a (cpDstXs c.cp) (cpRowBytes c.cp) = some dest →
        ∃ t : State, exec (.engineCompletion id) s = .next t ∧ completed t ∧ s.Stored t dest (s.bytesAt from_)) ∧
      (∀ va gen pa, s.cmd id = some c → c.performed = true → c.fault = none → c.barrier = some (va, gen) →
        s.quietAt c.copyWho .atomic va 0 64 = some [(pa, 0, 64)] →
        let old := s.readBytes clearKey pa 64
        let word := fun (t : State) (i : Nat) => leAt (t.readBytes clearKey pa 64) (4 * i) 4
        let good := word s 2 ≠ 0 ∧ zeroBytes old 16 48 = true
        let next := (word s 1 + 1) % 2 ^ 32
        ∃ t : State, exec (.barrierArrival id) s = .next t ∧ .engineCompletion id ∈ t.pending ∧ word t 2 = word s 2 ∧
          (good → t.performedWell id) ∧
          (¬ good → ∃ q f, t.cmd id = some q ∧ q.fault = some f ∧ f.cause = 0x0E ∧ f.outc = 0x25) ∧
          (good → word s 0 = gen.toNat → next ≠ word s 2 → word t 0 = word s 0 ∧ word t 1 = next ∧ word t 3 = word s 3) ∧
          (good → word s 0 = gen.toNat → next = word s 2 → word t 0 = (word s 0 + 1) % 2 ^ 32 ∧ word t 1 = 0 ∧ word t 3 = word s 3) ∧
          (¬ good ∨ word s 0 ≠ gen.toNat → word t 0 = word s 0 ∧ word t 1 = word s 1 ∧ word t 3 = min (word s 3 + 1) (2 ^ 32 - 1)) ∧
          ∀ key z, z < pa ∨ pa + 16 ≤ z → t.readByte key z = s.readByte key z) ∧
      (k < 5 → y.stream x.reg = some x → x.write = false → x.ready.length < 4 → x.used + x.ready.length < x.total →
        s.quietAt (x.who l) .load (x.chunkAt (x.used + x.ready.length)) x.xs.toNat 256 = some from_ →
        ∃ t : State, ∃ z, exec (.streamChunkArrival l k x.reg) s = .next t ∧ t.mem = s.mem ∧ (t.threadAt l k).stream x.reg = some z ∧
          z.used = x.used ∧ z.ready = x.ready ++ [vecOfBytes (s.bytesAt from_)]) ∧
      (∀ v more, k < 5 → y.stream x.reg = some x → x.write = true → x.stopped = false → x.ready = v :: more →
        s.quietAt (x.who l) .store (x.chunkAt (x.used - x.ready.length)) x.xs.toNat 256 = some dest →
        ∃ t : State, ∃ z, exec (.streamChunkArrival l k x.reg) s = .next t ∧ s.Stored t dest (toBytes 256 v.toNat) ∧
          (t.threadAt l k).stream x.reg = some z ∧ z.ready = more)) ∧
  (
    ∀ (s : State) (id : Nat) (c : Cmd), s.cmd id = some c → Memory.wf s.mem = true → c.performed = false →
      let performs := fun (i : Instr) (what : State → Option FaultRec → Prop) =>
        ∃ t : State, ∃ q, exec i s = .next t ∧ t.cmd id = some q ∧ q.performed = true ∧ .engineCompletion id ∈ t.pending ∧ what t q.fault
      let fails := fun (i : Instr) (cause outcome : Nat) => ∃ t : State, exec i s = .next t ∧ t.failedWith id cause outcome
      let free := s.watch = none ∧ s.reconfiguring = false
      (∀ n d a w sp, c.kind = .tfill n d a w sp → n < 32 → free → performs (.tileFillComplete id) fun t f =>
        tileState (t.tile c.loc n) = if f = none then 2 else 0) ∧
      (∀ n d a w r, c.kind = .tdrain n d a w r → s.namedBefore c d = true → exec (.tileDrainComplete id) s = .next s) ∧
      (∀ n d a w r, c.kind = .tdrain n d a w r → n < 32 → free → s.namedBefore c d = false → performs (.tileDrainComplete id) fun t f =>
        tileState (t.tile c.loc n) = if f = none ∧ r = true then 0 else 2) ∧
      (∀ n d partner p m e who, c.kind = .tswap n d partner → partner ≠ c.loc → s.swapPartner c.loc n partner = some p → p.id ≠ id →
        s.cmd p.id = some p → p.kind = .tswap m e who → free → performs (.tswapExchange id) fun t f =>
          (∃ q, t.cmd p.id = some q ∧ q.performed = true) ∧
          (tilesAlike d e = false → t.mem = s.mem ∧ ∃ r, f = some r ∧ r.cause = 0x0E ∧ r.outc = 0x22)) ∧
      (∀ n d partner, c.kind = .tswap n d partner → fails (.tswapTimeout id) 0x0E 0x22) ∧
      (∀ ck u l n, c.kind = .mxZero n → s.disarmed → s.nextQueue ck u = some (l, id) → performs (.dispatchServe ck u) fun t f =>
        f = none ∧ t.mem = s.mem ∧ (∀ e ∈ (t.core c.loc).accs, e.1 / 1024 ≠ n) ∧ (t.core l).dq = (s.core l).dq.tail) ∧
      (∀ l cap w a b, c.kind = .mxSend l cap w a b → c.begun = false → s.coreThere l = true →
        s.cutOff (locModule c.loc) (locModule l) = false →
        (capabilityOk (s.core l) c.ctx cap w = true → (s.core l).dq.length < 8 →
          s.routePaused (locModule c.loc) (locModule l) = false → ∃ t : State, exec (.mxSendArrival id) s = .next t ∧
          (t.core l).dq = (s.core l).dq ++ [id] ∧ t.mem = s.mem ∧ ∃ q, t.cmd id = some q ∧ q.begun = true) ∧
        (capabilityOk (s.core l) c.ctx cap w = false → fails (.mxSendArrival id) 0x0E 0x26)) ∧
      (c.kind = .stvMap → (∀ z ∈ s.cmds, z.id < id → sameStv z c = false) →
        performs (.swageCommandStart id) fun t f => f = none ∧ t.mem = s.mem) ∧
      (∀ z ∈ s.cmds, z.id < id → sameStv z c = true → exec (.swageCommandStart id) s = .next s) ∧
      (∀ op n dst src x from_ dest, c.kind = .coll op n dst src → s.otherMembers (teamOf c.gtid) n (rankOf c.gtid) = [] →
        s.treeFor (teamOf c.gtid) n (rankOf c.gtid) = some x → x.root = true → x.children = [] →
        s.collOf (teamOf c.gtid) n (rankOf c.gtid) = some c →
        let bytes := niCount c.ni * Sys2Proof.Float.fmtBytes (niFmt c.ni)
        s.quietAt c.niWho .load src 0 bytes = some from_ → s.quietAt c.niWho .store dst 0 bytes = some dest →
        performs (.collContribution id) fun t f => f = none ∧ s.Stored t dest (s.bytesAt from_)) ∧
      (∀ op n dst src, c.kind = .coll op n dst src → s.collOf (teamOf c.gtid) n (rankOf c.gtid) = some c →
        s.collDisagrees (teamOf c.gtid) n (rankOf c.gtid) = true → fails (.collTimeout id) 0x0E 0x27) ∧
      (∀ rank v bf x, c.kind = .sndz rank v bf x → (s.teams.find? fun t => t.team = teamOf c.gtid) = none →
        fails (.sndzArrival id) 0x0B 0) ∧
      (∀ rank v bf x e, c.kind = .sndz rank v bf x → s.placedAt c.loc (teamOf c.gtid) rank e → entryState e = 1 →
        locModule (entryLoc e) = locModule c.loc → s.watch = none → s.errs = [] →
        let f := if bf then Sys2Proof.Float.bf16 else Sys2Proof.Float.f32
        let n := if bf then 2 else 4
        let start := entryRegion e * 4096 + x.toNat
        let pa := fun (i : Nat) => sp2Pa (locClusterKey (entryLoc e)) (start + i * n)
        let lanes := (List.range 4).flatMap fun b => largestTwo f v n (b * (64 / n)) (64 / n)
        start % n = 0 → start + 256 ≤ 2 ^ 21 → (∀ i ∈ lanes, s.refusal c.niWho (pa i) n = none ∧ s.inContextTable (pa i) n = false) →
        performs (.sndzArrival id) fun t r => r = none ∧
          (∀ i ∈ lanes, t.readBytes clearKey (pa i) n =
            toBytes n (Sys2Proof.Float.combine f false 0 false 0 0 (ofBytes (s.readBytes clearKey (pa i) n)) (lane v n i)).1) ∧
          ∀ key z, (∀ i ∈ lanes, z < pa i ∨ pa i + n ≤ z) → t.readByte key z = s.readByte key z) ∧
      (∀ ep m a len peer x y, c.kind = .ethPut ep m a len peer x y ∨ c.kind = .ethGet ep m a len peer x y →
        fails (.ethTimeout id) 0x0B 1) ∧
      (∀ dk (msg : EthMessage) key roff off len data, dk % 16 < 8 → bit (s.die dk).epcfg 63 = true → bit key 63 = true →
        let count := fun (t : State) (i : Nat) => ((t.module (dk / 16)).telemetry.find? (0x4000 + 64 * (dk % 16) + 8 * i)).getD 0
        (s.receiveFor dk msg.peer msg.number key = none → (msg.peer, msg.number) ∉ (s.die dk).taken → ∃ t : State, exec (.ethPacketArrival dk msg false key roff len off data) s = .next t ∧
          t.mem = s.mem ∧ t.cmds = s.cmds ∧ count t 1 = min (2 ^ 64 - 1) (count s 1 + 1) ∧ count t 3 = min (2 ^ 64 - 1) (count s 3 + 1)) ∧
        (∀ e a size p dest, s.receiveFor dk msg.peer msg.number key = some c → c.kind = .ethRecv e a size p key → msg.total ≤ size →
          msg.total ≤ c.placed + data.length → s.quietAt (c.ethWho e) .store (a + BitVec.ofNat 80 off) 0 data.length = some dest →
          performs (.ethPacketArrival dk msg false key roff len off data) fun t f => f = none ∧ s.Stored t dest data)))

/-- R169, R174, R177, R384, R387, R388, R394, R396: a request for pre-emption sets its bit; a forced stop that is due parks the
thread at its PC and tells PRECTL; PARKRES occupies a slot and sends its continuation, and has no effect on an unusable one (the
choice of log 60); RESUME lets a stopped slot run and DISCARD frees one; an alloy forms once its group is free, or not within its
limit, with the status in ASTAT and the register; a member's inbox leaves a redirection that has ended, with its messages, in order;
a waiting `idle` reads its word again, and goes on when it differs. -/
def Obligations.ThreadSteps : Prop :=
  ∀ (s : State) (l k n : Nat) (f : Forming), Memory.wf s.mem = true → k < 5 →
    let y := s.threadAt l k
    let ck := locClusterKey l
    let here : State := { s with cur := .slot l k, ops := none }
    (k < 4 → ∃ t : State, exec (.preemptRequest l k) s = .next t ∧ t.mem = s.mem ∧ bit (t.core l).prectl k = true ∧
      (∀ i < 64, i ≠ k → bit (t.core l).prectl i = bit (s.core l).prectl i) ∧
      (bit (s.core l).prectl k = false → (t.core l).reqAt.getD k 0 = s.now) ∧ t.threadAt l k = y) ∧
    (s.forcedStopDue l k = some n → y.alloy = 0 → y.forming = none → y.buffer = [] → s.gbarOf y = none →
      ∃ t : State, exec (.forcedStop l k) s = .next t ∧ (t.threadAt l k).st = .free ∧
        (∃ p ∈ (t.cluster ck).parked, p.slot = n ∧ p.uid = y.uid ∧ p.loc = l) ∧ leAt (t.recordAt ck n) 8 2 = y.pc.toNat ∧
        leAt (t.recordAt ck n) 0 8 = y.gtid.toNat ∧ bit (t.core l).prectl k = false ∧ bit (t.core l).prectl (16 + k) = true ∧
        bit (t.core l).prectl (24 + k) = true ∧ bits (t.core l).prectl (38 + 7 * k) (32 + 7 * k) = n ∧
        t.msgs.length = s.msgs.length + 1) ∧
    (s.forcedStopDue l k = none → exec (.forcedStop l k) s = .next s) ∧
    (n < parkUsable (s.cluster ck).parkcfg → s.parkedAt ck n = none → s.reconfiguring = false → ∃ t : State, exec (.parkres l n) s = .next t ∧
      (∃ p ∈ (t.cluster ck).parked, p.slot = n ∧ p.loc = l) ∧ t.msgs.length = s.msgs.length + 1) ∧
    (parkUsable (s.cluster ck).parkcfg ≤ n → exec (.parkres l n) s = .next s) ∧
    (y.st = .stopped → ∃ t : State, exec (.slotctlResume l k) s = .next t ∧ t.threadAt l k = { y with st := .running } ∧
      t.mem = s.mem) ∧
    (y.st ≠ .stopped → exec (.slotctlResume l k) s = .next s) ∧
    (y.st ≠ .free → y.alloy = 0 → y.forming = none → y.buffer = [] → (k = 4 → (s.core l).diverted = false) →
      ∃ t : State, exec (.slotctlDiscard l k) s = .next t ∧ (t.threadAt l k).st = .free ∧ (t.threadAt l k).trigs = [] ∧ t.mem = s.mem) ∧
    (y.st = .free → exec (.slotctlDiscard l k) s = .next s) ∧
    (y.forming = some f → s.groupFree l k f.size = true → ∃ t : State, exec (.alloyFormed l k) s = .next t ∧
      let z := t.threadAt l k
      z.forming = none ∧ z.alloy = f.size ∧ bits z.astat 3 0 = 0 ∧ t.mem = s.mem ∧
      ∀ d, f.dest = some d → d ≠ 0 → bit y.status 3 = false → z.g.get d.toFin = 0) ∧
    (y.forming = some f → s.groupFree l k f.size = false → exec (.alloyFormed l k) s = .next s) ∧
    (y.forming = some f → y.st = .running → f.since + (s.core l).altmo.toNat ≤ s.now → ∃ t : State, exec (.alloyTimeout l k) s = .next t ∧
      let z := t.threadAt l k
      z.forming = none ∧ z.alloy = y.alloy ∧ bits z.astat 3 0 = 1 ∧
      ∀ d, f.dest = some d → d ≠ 0 → bit y.status 3 = false → z.g.get d.toFin = 1) ∧
    (∀ leader slot size, (s.core l).redirect = [⟨leader, slot, size, true⟩] → leader ≠ l →
      let memb := locCore l % size + 1
      let held := fun (x : InMsg) => membOf x.header = memb ∧ (x.via = some (l, slot) ∨ x.via = none)
      let mine := (s.core leader).inbox.filter fun x => membOf x.header = memb && (x.via = some (l, slot) || x.via = none)
      (s.core l).inbox.length + mine.length < 64 →
      ∃ t : State, exec (.alloyMemberFree l) s = .next t ∧ t.mem = s.mem ∧ (t.core l).redirect = [] ∧
        (∀ x, x ∈ (t.core leader).inbox ↔ x ∈ (s.core leader).inbox ∧ ¬ held x) ∧
        (t.core l).inbox.map (·.payload) = (s.core l).inbox.map (·.payload) ++ mine.map (·.payload) ∧
        ∀ x ∈ (t.core l).inbox, x ∈ (s.core l).inbox ∨ membOf x.header = 0) ∧
    ((∀ x ∈ (s.core l).redirect, x.leaving = false) → exec (.alloyMemberFree l) s = .next s) ∧
    (∀ a sel b data, y.st = .running → y.forming = none → y.pc.toNat < (s.core l).exb.toNat → decodeWord here.word = .ok (.idle a sel b) →
      here.settled → sel.toNat ≤ 5 → (here.p a).toNat % 8 = 0 → (sel = 5 → ∀ r ∈ here.posted here.thr.uid, r.scope ≠ some 5) → here.quietRead (here.p a) 0 8 = some data →
      (ofBytes data ≠ (here.g b).toNat → exec (.idleRecheck l k) s = .next { here.adv with cur := s.cur, ops := s.ops }) ∧
      (ofBytes data = (here.g b).toNat → ∃ t : State, exec (.idleRecheck l k) s = .next t ∧ (t.threadAt l k).pc = y.pc ∧
        (t.threadAt l k).st = .running)) ∧
    (y.st ≠ .running → exec (.idleRecheck l k) s = .next s)

/-- R154, R163, R166, R167, R172, R173: a launch message leaves the dispatcher's inbox and, when its descriptor can be read and is
within its limits, stands queued with it; the head of a queue that is not enabled stays; the head of an enabled queue whose
dependence is met has its team known and one message sent for each of its tasks; a die tells the others of its module how many task
slots are free; a rank that moves has its queued messages sent on to a core of the other die that holds its team and code; none of
these while a reconfiguration holds a route (R410). -/
def Obligations.DispatcherSteps : Prop :=
  ∀ (s : State) (dk target : Nat) (n r : Nat) (m : InMsg) (l : Launch) (qd ld : List Byte) (places : List Loc) (e : Word),
    let at_ := dispatcherLoc dk
    let team : BitVec 32 := BitVec.ofNat 32 n
    let rank : BitVec 20 := BitVec.ofNat 20 r
    let first := (s.core at_).pickLaunch
    let sole := fun (i : Instr) => (i = .launchDistribute dk ∨ i = .heldLaunchReread dk) ∧ (s.die dk).launches = [l] ∧
      s.reconfiguring = false ∧
      (tryRead dk l.ctx (l.qd.toNat / 64 * 64) 64).run s = .ok (some qd) s
    (first = none → exec (.launch dk) s = .next s) ∧
    (first = some m → s.reconfiguring = false → (∀ u : State, u = { s with cores := u.cores, pending := u.pending } →
        (tryRead dk m.ctx ((m.payload.getD 1 0).toNat / 64 * 64) 64).run u = .ok (some ld) u) →
      ∃ t : State, exec (.launch dk) s = .next t ∧ (t.core at_).inbox.length + 1 = (s.core at_).inbox.length ∧
        (launchLegal ld = true → (t.die dk).launches = (s.die dk).launches ++ [⟨m.payload.getD 0 0, m.payload.getD 1 0, m.ctx, ld⟩] ∧
          .launchDistribute dk ∈ t.pending) ∧
        (launchLegal ld = false → (t.die dk).launches = (s.die dk).launches)) ∧
    (∀ i, sole i → (leAt qd 5 1).testBit 0 = false → ∃ t : State, exec i s = .next t ∧ (t.die dk).launches = [l] ∧ t.msgs = s.msgs) ∧
    (∀ i, sole i → (leAt qd 5 1).testBit 0 = true → ldDep l.block = false →
      ldTeam l.block = n → 0 < n → n < 2 ^ 32 → ldRegsz l.block = 0 →
      ∃ t : State, exec i s = .next t ∧ (t.die dk).launches = [] ∧ (∀ x ∈ s.msgs, x ∈ t.msgs) ∧
        (∃ x ∈ t.teams, x.team = team ∧ x.plt.toNat = ldPlt l.block ∧ x.ctx = l.ctx ∧ (ldRank0 l.block, ldTsize l.block, ldNomig l.block) ∈ x.ranks) ∧
        ∀ j < ldTsize l.block, ∃ x ∈ t.msgs, s.nextId ≤ x.id ∧ x.rank = some (team, BitVec.ofNat 20 (ldRank0 l.block + j)) ∧
          hidxOf x.header = ldHidx l.block % 2 ^ 12 ∧ .messageArrival x.id ∈ t.pending ∧
          x.target = mkLoc 0 (dk / 16) (dk % 16) (placeOfRank l.block j / 16) (placeOfRank l.block j % 16)) ∧
    (∃ t : State, exec (.freeSlotPublish dk) s = .next t ∧ t.mem = s.mem ∧ t.cores = s.cores ∧
      ∀ d < 12, d ≠ dk % 16 → s.dieOn (dk / 16) d = true →
        (t.die (dk / 16 * 16 + d)).heard.find? (dk % 16) = some (s.freeSlots dk)) ∧
    ((s.teams.find? fun x => x.team = team) = none → exec (.teamMigration dk target n r) s = .next s) ∧
    (∀ x, (s.teams.find? fun x => x.team = team) = some x → (placement at_ team rank).run s = .ok (some e) s →
      let from_ := entryLoc e
      (teamCores dk target x from_).run s = .ok places s →
      (entryState e ≠ 1 ∨ places = [] ∨ s.rankMoves dk target x rank from_ = false →
        exec (.teamMigration dk target n r) s = .next s) ∧
      (entryState e = 1 → places ≠ [] → s.reconfiguring = false → s.rankMoves dk target x rank from_ = true →
        s.parkedOfRank team rank = [] →
        ∃ t : State, exec (.teamMigration dk target n r) s = .next t ∧
          (∀ z ∈ (t.core from_).inbox, ofRank team rank z.gtid = false) ∧
          ∀ z ∈ (s.core from_).inbox, ofRank team rank z.gtid = true →
            ∃ w ∈ t.msgs, w.target ∈ places ∧ w.gtid = z.gtid ∧ w.ctx = z.ctx ∧ w.payload = z.payload))

/-- R40, R403-R410: a flit in order is accepted, its acknowledgement frees the flits it covers, its slots come back and a NAK has
the rest sent again; a bad one is asked for again; a NAK or a missing acknowledgement sends the rest again; a lane that fails
narrows, drops or spares the width; a retrain leads to its width under a new key, and a link that was down comes up at the widest
width for the lanes healthy at both ends; a spare ring takes a lost wavelength; a circuit switch is announced, goes dark, trains,
comes up and is swapped in; a module without a route becomes unreachable, and one that rejoins has empty TLBs and walk caches. That
a first training takes the widest width and that a dark link's timeout ends its announcement are log 25, and that routes are formed
anew is log 24: the model's choices. -/
def Obligations.LinkSteps : Prop :=
  ∀ (s : State) (m p lane n id : Nat) (seq ack : BitVec 12) (vc : BitVec 4) (nak : Bool) (cred : BitVec 16) (data : List Byte) (c : Cmd)
    (pre post : List Flit) (f : Flit),
    let x := s.port m p
    let after := fun (i : Instr) (what : State → Link → Prop) =>
      ∃ t : State, exec i s = .next t ∧ t.mem = s.mem ∧ t.cores = s.cores ∧ what t (t.port m p)
    let stays := fun (i : Instr) => exec i s = .next s
    let count := fun (t : State) (k : Nat) => ((t.module m).telemetry.find? (0x2000 + 32 * p + 8 * k)).getD 0
    let more := fun (t : State) (k j : Nat) => j ≠ 0 → count t k = min (2 ^ 64 - 1) (count s k + j)
    let covers := x.replay = pre ++ f :: post ∧ f.seq = ack ∧ ∀ z ∈ pre, z.seq ≠ ack
    let uncovered := ∀ z ∈ x.replay, z.seq ≠ ack
    let fresh := fabricPort p = true ∧ lane < 8 ∧ x.erased lane = false ∧ (s.farEnd m p).erased lane = false ∧ x.ocs ≠ 2
    let trains := fabricPort p = true ∧ (s.module m).bootFail = 0 ∧ x.state ≠ 2 ∧ x.ocs < 2
    let arrives := fun (q : BitVec 12) => Instr.flitReceive m p q ⟨vc, ack, nak, cred, data⟩
    let again := fun (t : State) (l : List Flit) => ∀ z ∈ l,
      .flitReceive x.peerModule x.peerPort z.seq z.rest true ∈ t.pending
    (x.state = 2 → x.waiting = [] →
      (covers → after (arrives x.rxSeq true) fun t y => y.rxSeq = x.rxSeq + 1 ∧ y.replay = post ∧ y.slots = x.slots + cred.toNat ∧
        y.owed = x.owed + 1 ∧ (nak = true → more t 0 post.length ∧ again t post)) ∧
      (uncovered → after (arrives x.rxSeq true) fun t y => y.rxSeq = x.rxSeq + 1 ∧ y.replay = x.replay ∧
        y.slots = x.slots + cred.toNat ∧ (nak = true → more t 0 x.replay.length ∧ again t x.replay))) ∧
    (x.state = 2 → (seq ≠ x.rxSeq → stays (arrives seq true)) ∧
      after (arrives seq false) fun t y => y = x ∧ .nakReceive x.peerModule x.peerPort (x.rxSeq - 1) ∈ t.pending) ∧
    (x.state ≠ 2 → (∀ good, stays (arrives seq good)) ∧ stays (.nakReceive m p ack) ∧ stays (.ackTimeout m p)) ∧
    (x.state = 2 → (covers → after (.nakReceive m p ack) fun t y => y.replay = post ∧ more t 0 post.length ∧ again t post) ∧
      (uncovered → after (.nakReceive m p ack) fun t y => y.replay = x.replay ∧ more t 0 x.replay.length ∧ again t x.replay) ∧
      after (.ackTimeout m p) fun t y => y = { x with acked := s.now } ∧ more t 0 x.replay.length ∧ again t x.replay) ∧
    (fresh → x.state = 2 → s.healthy m p ≤ x.lanes → after (.laneFailure m p lane) fun t y => y.erased lane = true ∧ more t 2 1 ∧
      (x.lanes = 8 → s.healthy m p = 8 → y.state = 2 ∧ y.width = x.width) ∧
      (x.lanes = 8 → s.healthy m p ≠ 8 → y.state = 1 ∧ y.retrain = some 4) ∧
      (x.lanes = 4 → y.state = 1 ∧ y.retrain = some 2) ∧ (x.lanes = 2 → y.state = 0 ∧ y.width = 3 ∧ y.retrain = none)) ∧
    (fabricPort p = false ∨ 8 ≤ lane ∨ x.erased lane = true → stays (.laneFailure m p lane)) ∧
    (trains → x.waiting = [] → x.retrain = some n → after (.retrainComplete m p) fun t y => y.state = 2 ∧ y.width = lanesWidth n ∧
      y.retrain = none ∧ y.key = x.key + 1 ∧ y.replay = x.replay ∧ more t 1 1 ∧ again t x.replay) ∧
    (∀ a b u, trains → x.retrain = none → s.otherEnd m p false = (some (a, b), u) → (a, b) ≠ (m, p) → (s.module a).bootFail = 0 →
      let w := widestFor (x.healthyWith (s.port a b))
      w ≠ 0 → after (.retrainComplete m p) fun t y => y.state = 2 ∧ y.width = lanesWidth w ∧ y.key = x.key + 1 ∧
        (t.port a b).state = 2 ∧ (t.port a b).width = lanesWidth w) ∧
    ((s.module m).bootFail ≠ 0 ∨ x.state = 2 → stays (.retrainComplete m p)) ∧
    stays (.heaterRetune m p lane false) ∧
    (globalPort p = true → lane < 8 → x.erased lane = false → x.spareUsed = false →
      after (.heaterRetune m p lane true) fun _ y => y.tuning = some lane ∧ y.erased lane = true) ∧
    (x.tuning = some lane → lane < 8 → after (.spareTuned m p) fun t y => y.tuning = none ∧ y.erased lane = false ∧
      bit y.stat 51 = true ∧ bits y.stat 50 48 = lane ∧ more t 3 1) ∧
    (x.tuning = none → stays (.spareTuned m p)) ∧
    (globalPort p = true → x.state = 2 → x.ocs = 0 → after (.ocsAnnounce m p) fun _ y => y = { x with ocs := 1 }) ∧
    (let z := s.port x.peerModule x.peerPort
      let empty := x.ocs = 1 ∧ x.replay = [] ∧ z.ocs ≠ 0 ∧ z.replay = []
      (empty → after (.ocsQuiesced m p) fun _ y => y.ocs = 2 ∧ y.darkAt = s.now ∧ y.state = 3 ∧ y.width = x.width) ∧
      (¬ empty → stays (.ocsQuiesced m p))) ∧
    (x.ocs = 2 → x.state ≠ 1 → after (.ocsRelock m p) fun t y => y.ocs = 2 ∧ y.state = 1 ∧ y.width = x.width ∧ y.retrain = none ∧
      .ocsRelock m p ∈ t.pending) ∧
    (∀ a b u, x.ocs = 2 → x.state = 1 → s.otherEnd m p true = (some (a, b), u) → (a, b) ≠ (m, p) → (s.module a).bootFail = 0 →
      let w := widestFor (x.healthyWith (s.port a b))
      w ≠ 0 → after (.ocsRelock m p) fun _ y => y.ocs = 3 ∧ y.state = 2 ∧ y.width = lanesWidth w ∧ y.key = x.key + 1 ∧ y.retrain = none) ∧
    (x.ocs = 2 → x.state = 1 → widestFor (x.healthyWith x) = 0 → after (.ocsRelock m p) fun _ y => y.ocs = 3 ∧ y.state = 0) ∧
    (x.ocs = 3 → x.waiting = [] → after (.ocsTableSwap m p) fun t y => y = { x with ocs := 0 } ∧ (t.module m).routes = []) ∧
    (x.ocs = 2 → after (.ocsDarkTimeout m p) fun _ y => y = { x with ocs := 0 }) ∧
    (m ∉ s.unreachable → s.unrouted m = true → s.reqs = [] → ∃ t : State, exec (.declaredUnreachable m) s = .next t ∧
      t.unreachable = m :: s.unreachable ∧ t.mem = s.mem ∧ t.cores = s.cores ∧
      (s.cmd id = some c → c.lostSend m = true → t.failedWith id 0x0B 1)) ∧
    (m ∈ s.unreachable ∨ s.unrouted m = false → stays (.declaredUnreachable m)) ∧
    ∃ t : State, exec (.moduleRejoin m) s = .next t ∧ m ∉ t.unreachable ∧ (∀ y ∈ s.unreachable, y ≠ m → y ∈ t.unreachable) ∧
      t.mem = s.mem ∧ t.cores = s.cores ∧ (∀ z ∈ t.tlbs, locModule (z.1 / 8) = m → z.2 = []) ∧
      (∀ z ∈ s.tlbs, locModule (z.1 / 8) ≠ m → z ∈ t.tlbs) ∧ ∀ z ∈ t.walks, z.1 / 64 = m → z.2 = []

/-- R22, R48, R178, R346, R388, R414-R426: the host's writes of BAR 2 fill the mailbox and submit its request; the hallmark core's
requests end with their status: ASSIGN with a key slot and the entry of the context written, or 0x81 when none is free, RETIRE with
the entry not valid, no key left and its regions and tape freed, both once no access of the context is in flight, of which the late
stores perform first (log 80); SWITCH with the clusters of the context cleared or its spilled entries gone and kept copies and trees
dropped; QUOTE and HEALTH with their reports (what the hallmark core measures and signs, and the place of the identity key, are the
model's, log 17; what a quote, a reset, a key slot and the steps of failure leave open, logs 28, 29, 30, 62, 80 and 93, is the
model's choice); a reset clears the module's cores and scratchpads and keeps its HBM; scrubbing takes the errors it can correct; a
hard parity error stops the slot; a failed unit and a retired channel are out of use. -/
def Obligations.TrustAndFailureSteps : Prop :=
  ∀ (s : State) (m dk l k chan : Nat), Memory.wf s.mem = true → k < 5 →
    let x := s.module m
    let ctx : BitVec 16 := BitVec.ofNat 16 (x.arg 8).toNat
    let entry := x.ctxtbl.toNat + 16 * ctx.toNat
    let own := s.keyOf m 255
    let ends := fun (i : Instr) (stat : Word) (what : State → Prop) =>
      ∃ t : State, exec i s = .next t ∧ (t.module m).mbstat = stat ∧ what t
    let flushed := fun (t : State) => ∀ z ∈ t.tlbs, ∀ y ∈ z.2, y.ctx ≠ ctx
    let nonce := [16, 24, 32, 40].flatMap fun o => toBytes 8 (x.arg o).toNat
    let y := s.threadAt l k
    let count := fun (t : State) (d i : Nat) => ((t.module (d / 16)).telemetry.find? (0x1000 + 256 * (d % 16) + 8 * i)).getD 0
    let takes := fun (pa n : Nat) => s.homeCheck false pa n = none ∧ s.homeLost pa n = false ∧ ∀ j < n, s.migOf (pa + j) = none
    let report := fun (t : State) (pa off n : Nat) => t.readBytes (s.keyOf (paModule pa) 0) (pa + off) n
    let asked := fun (n : Nat) => x.bootFail ≠ 1 ∧ x.mbstat = 2 ∧ bits (x.arg 0) 7 0 = n
    let busy := s.ctxInFlight m ctx = true
    let drained := (s.shootdown ctx).drainAll fun z => !(s.cutOff m (locModule z))
    let homed := x.ctxtbl.toNat % 64 = 0 ∧ paModule entry = m ∧ s.migOf entry = none ∧ s.migOf (entry + 8) = none
    let free := s.watch = none ∧ s.reconfiguring = false
    let dropped := fun (t : State) => (∀ z ∈ t.kept, locModule z.loc ≠ m) ∧ ∀ ck, ck / 2 ^ 10 = m → (t.cluster ck).trees = []
    (
      (asked 1 → x.freeKeys = [] → ends (.assign m) 0x81 fun t => t.mem = s.mem) ∧
      (asked 1 → x.freeKeys ≠ [] → busy → ends (.assign m) 2 fun t => flushed t ∧ t.mem = drained.mem) ∧
      (asked 1 → x.freeKeys ≠ [] → ¬ busy → ends (.assign m) 1 fun t => flushed t ∧ ∃ i ∈ x.freeKeys,
        (t.module m).keys.find? i = some ⟨some ctx, ((x.keys.find? i).map (·.gen)).getD 0 + 1⟩ ∧
        (homed → leAt (t.readBytes own entry 8) 0 8 = bits (x.arg 16) 63 16 * 2 ^ 16 + 1 ∧
          leAt (t.readBytes own (entry + 8) 8) 0 8 = bits (x.arg 24) 0 0 * 2 ^ 8 + i)) ∧
      (∀ a b, asked 2 → s.contextEntry m ctx = some (a, b) → busy → ends (.retire m) 2 fun t => flushed t ∧
        (homed → bit (BitVec.ofNat 64 (leAt (t.readBytes own entry 8) 0 8) : Word) 0 = false)) ∧
      (∀ a b, asked 2 → s.contextEntry m ctx = some (a, b) → ¬ busy → ends (.retire m) 1 fun t => flushed t ∧
        (homed → bit (BitVec.ofNat 64 (leAt (t.readBytes own entry 8) 0 8) : Word) 0 = false) ∧
        (∀ z ∈ (t.module m).keys, z.2.ctx ≠ some ctx) ∧
        (∀ d, d / 16 = m → ∀ z ∈ (t.die d).regions, z.ctx ≠ ctx) ∧
        ∀ ck, ck / 2 ^ 10 = m → ∀ z ∈ (t.cluster ck).tape, z.ctx ≠ ctx) ∧
      (asked 3 → free → bit (x.arg 16) 0 = true → ends (.switch m) 1 fun t => dropped t ∧ ∀ z ∈ (t.module m).spilled, z.2.ctx ≠ ctx) ∧
      (asked 3 → free → bit (x.arg 16) 0 = false → ends (.switch m) 1 fun t => dropped t ∧ ∀ ck ∈ moduleClusters m, s.holdsCluster ctx ck = true →
        (t.cluster ck).tape = [] ∧ (t.cluster ck).parked = [] ∧
        ∀ z, locKind z = 0 → locClusterKey z = ck → (t.core z).accs = [] ∧ (t.core z).exb = 0 ∧ (t.core z).hand = []) ∧
      (asked 4 → (∃ o ∈ [16, 24, 32, 40], x.arg o ≠ 0) → ends (.quote m) 1 fun t => takes (x.arg 48).toNat (256 + 17088) →
        let at_ := report t (x.arg 48).toNat
        at_ 0 32 = nonce ∧ at_ 64 32 = (t.module m).chain m ctx ∧ leAt (at_ 96 2) 0 2 = ctx.toNat ∧
        leAt (at_ 98 8) 0 8 = x.health.toNat) ∧
      (asked 4 → (∀ o ∈ [16, 24, 32, 40], x.arg o = 0) → ends (.quote m) 1 fun t =>
        ∀ i < 8, (t.module m).mbResp.getD i 0 = BitVec.ofNat 64 (leAt (secretBytes (bootSecret m 0 3) 64) (8 * i) 8)) ∧
      (asked 5 → ends (.health m) 1 fun t => takes (x.arg 8).toNat (2048 + 17088) →
        let at_ := report t (x.arg 8).toNat
        at_ 0 32 = nonce ∧ leAt (at_ 72 8) 0 8 = x.health.toNat ∧ leAt (at_ 80 8) 0 8 = s.now % 2 ^ 64 ∧
        ∀ d < 12, leAt (at_ (88 + 8 * d) 8) 0 8 = if bit x.health (40 + d) = true then (s.die (m * 16 + d)).clmap.toNat else 0)) ∧
    (∀ e ∈ [(Instr.assign m, 1), (.retire m, 2), (.switch m, 3), (.quote m, 4), (.health m, 5)], ¬ asked e.2 → exec e.1 s = .next s) ∧
    (∀ w rest e, s.host = (m, 0x80, w) :: rest → bit w 0 = true → x.mbstat ≠ 2 → x.bootFail ≠ 1 →
      (bits (x.mbReq.getD 0 0) 7 0, e) ∈ [(1, Event.assign m), (2, .retire m), (3, .switch m), (4, .quote m), (5, .health m)] →
      s.hostTurn.host = rest ∧ (s.hostTurn.module m).mbstat = 2 ∧ (s.hostTurn.module m).mbTaken = x.mbReq ∧ s.hostTurn.pending = s.pending ++ [e] ∧ s.hostTurn.mem = s.mem) ∧
    (∀ o w rest, s.host = (m, 8 * o, w) :: rest → o < 8 → s.hostTurn.host = rest ∧ s.hostTurn.mem = s.mem ∧
      s.hostTurn.hostRead m 2 (8 * o) = some w.toNat) ∧
    (∃ t : State, exec (.moduleReset m) s = .next t ∧ (∀ z, locModule z = m → t.core z = Core.reset z) ∧
      (∀ key pa, paKind pa = 1 → paModule pa = m → t.readByte key pa = 0) ∧
      (∀ key pa, paKind pa ≠ 1 → t.readByte key pa = s.readByte key pa) ∧
      (∀ z, z ≠ m → (t.module z).health = (s.module z).health ∧ (t.module z).ctxtbl = (s.module z).ctxtbl ∧
        (t.module z).keys = (s.module z).keys ∧ (t.module z).mbstat = (s.module z).mbstat) ∧
      (∀ z ∈ (t.module m).keys, z.2.ctx = none) ∧
      (∀ c ∈ t.cmds, locModule c.loc ≠ m) ∧ (∀ r ∈ t.reqs, locModule r.loc ≠ m) ∧
      (((t.module m).bootFail, (t.module m).mbstat) ∈ [(0, (1 : Word)), (1, 0xE1), (2, 0xE2)])) ∧
    (∃ t : State, exec (.sramScrub dk) s = .next t ∧ t.mem = s.mem ∧
      (∀ e ∈ t.softs, e ∈ s.softs ∧ ¬ (e.2 = false ∧ e.1.scrubbed = some dk)) ∧
      ∀ e, e ∈ t.errs ↔ e ∈ s.errs ∧ ¬ (e.2 = false ∧ paDieKey e.1 = dk ∧ paKind e.1 = 1)) ∧
    (∃ t : State, exec (.hbmPatrolScrub dk) s = .next t ∧ t.mem = s.mem ∧
      ∀ e, e ∈ t.errs ↔ e ∈ s.errs ∧ ¬ (e.2 = false ∧ paDieKey e.1 = dk ∧ paKind e.1 = 0)) ∧
    (y.st = .running → ∃ t : State, exec (.registerParityError l k false) s = .next t ∧ t.cores = s.cores ∧ t.mem = s.mem ∧
      count t (locDieKey l) 2 = min (2 ^ 64 - 1) (count s (locDieKey l) 2 + 1)) ∧
    (y.st = .running → ∃ t : State, exec (.registerParityError l k true) s = .next t ∧ (t.threadAt l k).st = .stopped ∧
      bits (t.threadAt l k).ecause 15 0 = 0x1109 ∧ t.mem = s.mem ∧
      count t (locDieKey l) 3 = min (2 ^ 64 - 1) (count s (locDieKey l) 3 + 1)) ∧
    (y.st ≠ .running → exec (.registerParityError l k true) s = .next s) ∧
    (locKind l = 0 → ∃ t : State, exec (.unitFailure l 0) s = .next t ∧ t.core l = Core.reset l ∧ t.coreThere l = false ∧
      ∀ c ∈ t.cmds, c.loc ≠ l) ∧
    (∃ t : State, exec (.unitFailure l 1) s = .next t ∧
      t.clusterOn (locClusterKey l / 1024) (locClusterKey l / 64 % 16) (locClusterKey l % 64) = false) ∧
    (∃ t : State, exec (.unitFailure l 2) s = .next t ∧ t.dieOn (locDieKey l / 16) (locDieKey l % 16) = false) ∧
    (chan < 64 → chan ∉ (s.die dk).retired → chan ∉ (s.die dk).gone → ∃ t : State, exec (.hbmChannelRetired dk chan) s = .next t ∧
      chan ∈ (t.die dk).retired ∧ t.mem = s.mem ∧ bits (t.module (dk / 16)).health 39 32 = t.hbmRetired (dk / 16))

/-- R7, R48, R52, R67, R70, R81, R91, R93, R157, R158, R172, R174, R175, R187, R308, R348, R390, R403, R412, R417, R418, R424, R425,
R429, R432: what reset leaves. Every register that the spec gives a reset value holds it: SAFEDL, MXFMT, ALTMO, SRSTATE, REMCFG,
TMIGCFG, HBMSIZE, ACCTCFG with an interval of 1,000 µs, HEALTH with all dies, MBSTAT; every slot is free, every core runs from an
empty code region, scratchpads read zero, and nothing is in flight, held or parked. The registers without a reset value of the
spec's are zero, CTXTBL is the start of the module's HBM, COREMAP and CLMAP show every core and cluster there: the model's choices,
logs 6, 7, 9 and 16. -/
def Obligations.ResetState : Prop :=
  (∀ l k, let y := State.reset.threadAt l k
    y.st = .free ∧ y.alloy = 0 ∧ y.pc = 0 ∧ (∀ r : Fin 32, y.g.get r = 0 ∧ y.v.get r = 0) ∧ (∀ r : Fin 8, y.p.get r = 0 ∧ y.q.get r = 0 ∧
      y.k.get r = ⟨0, 0⟩) ∧ [y.status, y.epc, y.ecause, y.eaddr, y.ctxcfg, y.gtid, y.astat] = List.replicate 7 0 ∧ y.ctxid = 0 ∧
      y.prio = 0 ∧ (∀ r : Fin 7, y.mx.get r = 0) ∧ (∀ r : Fin 5, y.cp.get r = 0) ∧ (∀ r : Fin 4, y.ni.get r = 0) ∧
      (∀ r : Fin 2, y.stv.get r = 0) ∧ y.faults = [] ∧ y.ovf = false ∧ y.marks = 0 ∧ y.trigs = [] ∧ y.streams = [] ∧ y.opens = []) ∧
  (∀ l, let c := State.reset.core l
    c.exb = 0 ∧ c.safedl = 65536 ∧ c.mxfmt = 0x808 ∧ c.altmo = 4096 ∧ c.prectl = 0 ∧ c.srstate = 0x9E3779B9 ^^^ BitVec.ofNat 32 (l % 2 ^ 24) ∧
    [c.evec, c.ovlv, c.htbase, c.mxsca, c.mxscb, c.mxprog, c.vfmt, c.vfstat, c.fstat, c.tapeb, c.tapel, c.tapep, c.tstat, c.pcmteam,
      c.ctxalw, c.stkcfg, c.mxcapkey, c.mxcapctl] = List.replicate 18 0 ∧ (∀ r : Fin 8, c.winp.get r = 0) ∧
    (∀ r : Fin 16, c.pcm.get r = 0) ∧ c.inbox = [] ∧ c.diverted = false ∧ c.redirect = [] ∧ c.accs = [] ∧ c.hand = [] ∧ c.dq = [] ∧
    ∀ n, State.reset.tile l n = (0, 0)) ∧
  (∀ ck, let c := State.reset.cluster ck
    c.remcfg = 0x640040 ∧ c.coremap = 0xFFFF ∧ [c.parkcfg, c.ovfcfg, c.trccfg, c.trcbase, c.trcptr] = List.replicate 5 0 ∧ c.parked = [] ∧
    c.tape = [] ∧ c.trees = [] ∧ c.fails = []) ∧
  (∀ dk, let d := State.reset.die dk
    d.hotcfg = 0 ∧ d.tmigcfg = 0x2010 ∧ d.hbmsize = 128000000000 ∧ d.clmap = 0xFFFFFFFFFFFFFFFF ∧ bits d.acctcfg 41 32 = 1000 ∧
    bit d.acctcfg 63 = false ∧ bits d.acctcfg 15 0 = 0 ∧ [d.acctbase, d.epcfg, d.epptb, d.epwtb] = List.replicate 4 0 ∧
    (∀ i < 8, d.slotOf i = ⟨0, 0, 0, 0⟩) ∧ d.regions = [] ∧ d.launches = [] ∧ d.counts = [] ∧ d.acctSeq = 0) ∧
  (∀ m, let x := State.reset.module m
    bits x.health 51 40 = 0xFFF ∧ bits x.health 39 0 = 0 ∧ bit x.health 63 = false ∧ x.mbstat = 1 ∧ x.ctxtbl.toNat = m * 2 ^ 54 % 2 ^ 64 ∧
    x.keys = [] ∧ x.mbReq = Vector.replicate 8 0 ∧ x.mbTaken = Vector.replicate 8 0 ∧ x.mbResp = Vector.replicate 8 0 ∧ x.strays = [] ∧ ∀ p, (x.link p).state = 0) ∧
  (∀ key pa, paKind pa = 1 → State.reset.readByte key pa = 0) ∧
  State.reset.tlbs = [] ∧ State.reset.walks = [] ∧ State.reset.kept = [] ∧ State.reset.cmds = [] ∧ State.reset.reqs = [] ∧
  State.reset.msgs = [] ∧ State.reset.invals = [] ∧ State.reset.released = [] ∧ State.reset.unreachable = [] ∧ State.reset.errs = [] ∧ State.reset.softs = [] ∧
  State.reset.mem = []

/-- The state after reset is well kept. -/
def Obligations.ResetInvariant : Prop :=
  State.reset.Inv = true

/-- R54, R56, R130, R157, R161, R177, R203, R214, R245, R354, R381, R395, R423, R435 (logs 1, 63, 80, 90, 94): when the next turn is
a thread's whose slot can issue and that is not to be stopped, and the four bytes at the PC decode to an instruction (or to none:
then it is the undefined word), a step is that instruction in the state of the thread's turn, and one ck passes: its stores that
have not performed perform first, unless it is one that need not wait for them, and those that a `gbar` has ordered with them; a
plain store itself may perform later, while fewer than 32 are outstanding; one that waits for the unit leaves the thread where it
is, one of the unit enters the dispatch queue behind others, and so does a vector memory form, or waits for its thread's commands
there, or takes a place; one at which the thread would leave waits for what it has queued. At or beyond EXB of the core that it
fetches from it traps OVERLAY, then a match of the PC-match table acts, and a word that cannot be read traps ACCESS, each once
nothing of the thread is queued. An instruction that has issued and waits for an answer goes on without these tests. A forced stop
that is due comes before any. A turn of another agent runs its step. -/
def Obligations.StepRunsDecoded : Prop :=
  ∀ (s : State) (l k : Nat) (rest : List Turn) (e : Event),
    let rests : State := { s with turns := rest }
    let u := rests.turnOf l k
    let pc := u.pc.toNat
    let at_ := u.fetchLoc l k pc
    let bytes := (List.range 4).map fun j => u.readByte clearKey (sp1Pa at_ (pc + j))
    let word : BitVec 32 := BitVec.ofNat 32 (ofBytes bytes)
    let v := (u.eccCorrect (sp1Pa at_ pc) 4).spendExempt
    let becomes := fun (t : State) => step s = .next t.tick
    let barrier := fun (x : State) => bit (x.thr.cp.get 3) 31 = true
    let ran := fun (x : State) (i : Instr) (t : State) =>
      let w := if leavesReleased i = true ∧ ¬ barrier x then x else x.performReleased
      let y := (w.choose 2).2
      (plainStore i = true ∧ (exec i (y.drain l k) = .next t ∨ (y.thr.buffer.length < 32 ∧
        ∃ z : State, exec i (y.mapThr fun z => { z with defer := some [] }) = .next z ∧ y.late z = some t))) ∨
      (plainStore i = false ∧ (∀ b, i ≠ .gbar b) ∧ exec i (if passesStores i = true ∧ ¬ barrier w then w else w.drain l k) = .next t) ∨
      ((∃ b, i = .gbar b) ∧ ((w.thr.buffer = [] ∧ exec i w = .next t) ∨ exec i (y.release l k) = .next t ∨ exec i (y.drain l k) = .next t))
    let settles := fun (x t : State) => becomes (if x.queuedUnits x.thr.uid ≠ [] ∧ x.leaves t = true then x.unissued else t)
    let issues := fun (x : State) (i : Instr) => ∃ t : State, ran x i t ∧ settles x t
    let runs := fun (i : Instr) =>
      let behind := vectorMemory i = true ∧ v.cr.dq ≠ []
      let free := v.awaitsUnit i = false ∧ v.queues i = false
      (v.awaitsUnit i = true → becomes v.unissued) ∧
      (v.awaitsUnit i = false → v.queues i = true → ∃ t : State, v.queueUnit i = .next t ∧ becomes t) ∧
      (free → ¬ behind → issues v i) ∧
      (free → behind → (∀ t, v.enqueueForm i = some t → settles v t) ∧
        (v.enqueueForm i = none → v.queuedBefore = true → becomes v.unissued) ∧
        (v.enqueueForm i = none → v.queuedBefore = false →
          ∃ t w : State, ran v i t ∧ v.holdPlace i (.next t) = .next w ∧ settles v w))
    let stops := fun (t : State) => becomes (if u.queuedUnits u.thr.uid = [] then t else u)
    (s.turns = .issue l k :: rest → rests.canIssue l k = true → rests.forcedStopDue l k ≠ none →
      ∃ t : State, exec (.forcedStop l k) rests = .next t ∧ becomes t) ∧
    (s.turns = .issue l k :: rest → rests.canIssue l k = true → rests.forcedStopDue l k = none →
      (∀ w, u.thr.issuedAt u.pc = some w → issues u.spendExempt (instrOfWord w)) ∧
      (u.thr.issuedAt u.pc = none →
        (pc < (u.core at_).exb.toNat → u.pcMatch l k = none → u.eccBad (sp1Pa at_ pc) 4 = false →
          (∀ i, decodeWord word = .ok i → runs i) ∧ (∀ x, decodeWord word = .error x → runs (.undefinedWord word))) ∧
        (pc < (u.core at_).exb.toNat → u.pcMatch l k = none → u.eccBad (sp1Pa at_ pc) 4 = true →
          stops ((u.eccFail (sp1Pa at_ pc) 4).spendExempt.takeTrap l k (trapInfo 0x09 0x10 (u.pc.zeroExtend 80)))) ∧
        (∀ i x, pc < (u.core at_).exb.toNat → u.pcMatch l k = some (i, x) → stops (u.actOnMatch l k i x)) ∧
        ((u.core at_).exb.toNat ≤ pc → stops (u.spendExempt.takeTrap l k (trapInfo 0x08 0 (u.pc.zeroExtend 80)))))) ∧
    (s.turns = .issue l k :: rest → rests.canIssue l k = false → becomes rests) ∧
    (s.turns = .event e :: rest → ∃ t : State, exec e.instr rests = .next t ∧ becomes t)

/-- R199 and the encoding tables: words written out from the encodings stand for the instructions of the tables, with their
operands, and the zero word and a word of `eret` with its reserved bit 0 set for none. -/
def Obligations.WordsDecode : Prop :=
  decodeWord 0x04642800 = .ok (.add 3 4 5) ∧ decodeWord 0x08630008 = .ok (.addi 3 3 8) ∧
  decodeWord 0x7C000066 = .ok (.waitkImm 0 1 6) ∧ decodeWord 0x94020000 = .ok .eret ∧
  decodeWord 0x94203C08 = .ok (.tlbiCtx 7 4) ∧ decodeWord 0x94031B04 = .ok (.idle 3 3 4) ∧
  decodeWord 0xC418C000 = .ok (.lbk 3) ∧ decodeWord 0xD4100C00 = .ok (.gbar 6) ∧
  decodeWord 0xDC001807 = .ok (.trc 3 7) ∧ decodeWord 0x98051802 = .ok (.rpt 5 3) ∧
  decodeWord 0x04642801 = .ok (.sub 3 4 5) ∧ decodeWord 0 = .error .zeroWord ∧ decodeWord 0x94020001 = .error .reserved

/-- Encoding a well-formed instruction and decoding the word gives the instruction back, with every operand, for every row of the
opcode table that a word encodes. -/
def Obligations.DecodeEncode : Prop :=
  ∀ i : Instr, i.encoded = true → i.wellFormed = true → decodeWord (encode i) = .ok i

/-- R204, R380: every row of the opcode table has a next state in every state: nothing stops the machine. That the steps of other
agents always answer is the model's reading (log 14). -/
def Obligations.EveryStepAnswers : Prop :=
  (∀ (i : Instr) (s : State), ∃ t : State, exec i s = .next t) ∧ ∀ s : State, ∃ t : State, step s = .next t

/-- Every step keeps memory in its canonical form, no trial of a command under way (R116), the units listed in order, each core's
code boundary legal (R52) and each PC on a word of SP1 (R201). -/
def Obligations.StepKeepsInvariant : Prop :=
  ∀ s t : State, s.Inv = true → step s = .next t → t.Inv = true

/-- R74, R75: in a well-kept memory a byte written under a key reads back under that key, every other byte of the same protected
unit reads under it as it did before, and every byte of another unit reads under every key as before. -/
def Obligations.MemoryLaws : Prop :=
  ∀ (s : State) (key : Nat × Nat) (pa : Nat) (b : Byte), Memory.wf s.mem = true →
    let t := s.writeByte key pa b
    Memory.wf t.mem = true ∧ t.readByte key pa = b ∧ (∀ y, y ≠ pa → t.readByte key y = s.readByte key y) ∧
    ∀ k y, y / 64 ≠ pa / 64 → t.readByte k y = s.readByte k y

/-- R286, R290, R291: a copy command that performs moves its rows in ascending order, each row read whole at its source and written
whole at its destination: `cp.copy` row by row, `cp.fill` with byte x of its value at addresses x modulo 8 (log 22), `cp.rows` from
the row that an index names, `cp.scat` to it, or, with ADD, element by element the sum rounded once; an index of all ones moves
nothing; every other byte is as it was, and the command completes. R59, R62, R63, R294, R296: a fill reads its rows and writes them
to the tile, which is ready after it; a drain writes the tile's rows to memory; an exchange gives each of two tiles of one shape the
other's rows, and both commands have performed. A sparse row expands group by group: a value goes to the position that its two bits
name, the second one where both name the same, and the other elements of the group are zero. -/
def Obligations.EngineEffects : Prop :=
  (
    ∀ (s : State) (id l k : Nat) (c : Cmd) (o : OpenCmd) (a b idx : Ptr) (v : Word) (from_ dest ix : Nat → List (Nat × Nat × Nat)),
      Memory.wf s.mem = true → s.cmd id = some c → s.disarmed → s.placeOf c.uid = some (.slot l k) →
      ((s.threadAt l k).opens.filter fun z => z.ctr = c.ctr) = [o] → o.cmd = id → c.performed = false → c.barrier = none →
      let n := cpRows c.cp
      let m := cpRowBytes c.cp
      let ib := cpIndexBytes c.cp
      let target := fun (r : Nat) => addPtr a (r * cpDstStride c.cp)
      let source := fun (r : Nat) => addPtr b (r * cpSrcStride c.cp)
      let reads := fun (r : Nat) (va : Ptr) => s.quietAt c.copyWho .load va (cpSrcXs c.cp) m = some (from_ r)
      let writes := fun (r : Nat) (va : Ptr) => s.quietAt c.copyWho .store va (cpDstXs c.cp) m = some (dest r)
      let index := fun (r : Nat) => ofBytes (s.bytesAt (ix r))
      let live := fun (r : Nat) => index r ≠ 2 ^ (8 * ib) - 1
      let indexed := (∀ r < n, s.quietAt c.copyWho .load (idx + BitVec.ofNat 80 (ib * r)) 0 ib = some (ix r)) ∧ itemsApart n live dest ix
      let ends := fun (t : State) => t.cmd id = none ∧ (t.threadAt l k).k.get c.ctr.toFin = ⟨((s.threadAt l k).k.get c.ctr.toFin).i, o.num⟩ ∧
        (t.threadAt l k).faults = (s.threadAt l k).faults
      let leaves := fun (live : Nat → Prop) (data : Nat → List Byte) => ∃ t : State, exec (.engineCompletion id) s = .next t ∧ ends t ∧
        s.StoredItems t n live dest data
      (c.kind = .copy a b → (∀ r < n, reads r (source r) ∧ writes r (target r)) → itemsApart n (fun _ => True) dest from_ →
        leaves (fun _ => True) fun r => s.bytesAt (from_ r)) ∧
      (c.kind = .fill a v → (∀ r < n, writes r (target r)) → itemsApart n (fun _ => True) dest (fun _ => []) →
        leaves (fun _ => True) fun r => (List.range m).map fun i => BitVec.ofNat 8 (v.toNat / 2 ^ (8 * (((target r).toNat + i) % 8)))) ∧
      (c.kind = .rows a b idx → indexed → (∀ r < n, live r → reads r (source (index r)) ∧ writes r (target r)) → itemsApart n live dest from_ →
        leaves live fun r => s.bytesAt (from_ r)) ∧
      (c.kind = .scat a b idx → cpAdd c.cp = false → indexed → (∀ r < n, live r → reads r (source r) ∧ writes r (target (index r))) →
        itemsApart n live dest from_ → leaves live fun r => s.bytesAt (from_ r)) ∧
      (∀ (f : Sys2Proof.Float.Fmt) (pa : Nat → Nat), c.kind = .scat a b idx → cpAdd c.cp = true → n = 1 → indexed → live 0 → cpMode c.cp < 4 →
        addFmt (cpFmt c.cp) = true → Sys2Proof.Float.fmtOf (cpFmt c.cp) = some f → reads 0 (source 0) →
        let e := Sys2Proof.Float.fmtBytes (cpFmt c.cp)
        m % e = 0 → (target (index 0)).toNat % e = 0 →
        (∀ j < m / e, s.quietAt c.copyWho .atomic (target (index 0) + BitVec.ofNat 80 (e * j)) (cpDstXs c.cp) e = some [(pa j, 0, e)]) →
        (∀ i < m / e, ∀ j < m / e, i ≠ j → pa i + e ≤ pa j ∨ pa j + e ≤ pa i) →
        let sum := fun (j : Nat) => toBytes e (Sys2Proof.Float.combine f c.inf8 (cpMode c.cp) (cpSat c.cp) 0 0
          (ofBytes (s.readBytes clearKey (pa j) e)) (leAt (s.bytesAt (from_ 0)) (e * j) e)).1
        ∃ t : State, exec (.engineCompletion id) s = .next t ∧ ends t ∧
          s.StoredItems t (m / e) (fun _ => True) (fun j => [(pa j, 0, e)]) sum)) ∧
  (
    (∀ (s : State) (id n m : Nat) (c p : Cmd) (a : Ptr) (w : Word) (d g : Word × Word) (sparse : Bool) (from_ dest : Nat → List (Nat × Nat × Nat)),
      Memory.wf s.mem = true → s.cmd id = some c → c.performed = false → s.watch = none → s.reconfiguring = false → n < 32 → m < 32 →
      let rows := tileRows d
      let e := Sys2Proof.Float.fmtBytes (tileFmt d)
      let at_ := fun (r : Nat) => addPtr a (r * w.toInt)
      let inTile := fun (x : Cmd) (on : Loc) (y : Word × Word) (r n : Nat) =>
        s.quietTile x.copyWho on y (tileBase y + r * tilePitch y) n
      let whole := tileRowBytes d
      let always := fun (_ : Nat) => True
      let performs := fun (i : Instr) (what : State → Prop) => ∃ t : State, exec i s = .next t ∧ t.performedWell id ∧
        .engineCompletion id ∈ t.pending ∧ what t
      (c.kind = .tfill n d a w sparse → (sparse = true → tileCols d % 8 = 0) →
        (∀ r < rows, inTile c c.loc d r (if sparse then tileCols d * e else whole) = some (dest r) ∧
          s.quietAt c.copyWho .load (at_ r) 0 (if sparse then tileCols d / 2 * e + tileCols d / 8 else whole) = some (from_ r)) →
        itemsApart rows always dest from_ →
        performs (.tileFillComplete id) fun t => tileState (t.tile c.loc n) = 2 ∧ s.StoredItems t rows always dest fun r =>
          if sparse then expandRow e (tileCols d) (s.bytesAt (from_ r)) else s.bytesAt (from_ r)) ∧
      (c.kind = .tdrain n d a w sparse → s.namedBefore c d = false →
        (∀ r < rows, inTile c c.loc d r whole = some (from_ r) ∧ s.quietAt c.copyWho .store (at_ r) 0 whole = some (dest r)) →
        itemsApart rows always dest from_ →
        performs (.tileDrainComplete id) fun t => tileState (t.tile c.loc n) = (if sparse then 0 else 2) ∧
          s.StoredItems t rows always dest fun r => s.bytesAt (from_ r)) ∧
      (c.kind = .tswap n d p.loc → p.loc ≠ c.loc → s.swapPartner c.loc n p.loc = some p → p.id ≠ id → s.cmd p.id = some p →
        p.kind = .tswap m g c.loc → tilesAlike d g = true →
        (∀ r < rows, inTile c c.loc d r whole = some (dest r) ∧ inTile p c.loc d r whole = some (dest r) ∧
          inTile p p.loc g r whole = some (from_ r) ∧ inTile c p.loc g r whole = some (from_ r)) →
        (∀ i < rows, ∀ j < rows, placesApart (dest i) (from_ j) ∧
          (i ≠ j → placesApart (dest i) (dest j) ∧ placesApart (from_ i) (from_ j))) →
        performs (.tswapExchange id) fun t => t.performedWell p.id ∧ tileState (t.tile c.loc n) = 2 ∧ tileState (t.tile p.loc m) = 2 ∧
          s.StoredItems t (2 * rows) always (fun i => if i < rows then dest i else from_ (i - rows))
            fun i => s.bytesAt (if i < rows then from_ i else dest (i - rows)))) ∧
    ∀ (e cols g q j : Nat) (row : List Byte), cols % 8 = 0 → row.length = cols / 2 * e + cols / 8 → g < cols / 4 → q < 4 → j < e →
      let nibble := leAt row (cols / 2 * e + g / 2) 1 / 16 ^ (g % 2) % 16
      let value := fun (i : Nat) => row.getD ((2 * g + i) * e + j) 0
      (expandRow e cols row).length = cols * e ∧
      (expandRow e cols row).getD ((4 * g + q) * e + j) 0 = if q = nibble / 4 then value 1 else if q = nibble % 4 then value 0 else 0)

/-- R183, R187, R193, R316, R317, R320: what a product adds. Integer elements: the sum of products, modulo 2^36, with IOV outside
the range. Finite floating-point elements: the exact sum of products, times the two scales of a scaled product, is added to the
element and the whole rounded once. An element goes through its blocks in ascending order. The operands of a block lie where R316
puts them, of B by columns or, transposed, by rows. R183, R187, R320, R321: `mx.ld` writes the rows it moves as accumulator bits: an
A36 image as it stands, an integer with its sign, a number of another format exactly; `mx.st` writes rows, and `mx.hand` a slot of
the hand-off queue, each element rounded to the format, an integer narrowed by wrapping or clamping. A command of the three whose
products and moves overlap others may start in one step and perform in a later one. -/
def Obligations.MatrixEffects : Prop :=
  (
    (∀ (w : Word) (z : Block) (sc b : Bool) (i j : Nat) (us vs : List Nat) (f g : Sys2Proof.Float.Fmt) (gen : BitVec 32) (x : Acc),
      mxAFmt w ≤ 1 → mxBFmt w ≤ 1 → Sys2Proof.Float.fmtOf (mxAFmt w) = some f → Sys2Proof.Float.fmtOf (mxBFmt w) = some g →
      (∀ u ∈ us, u < 256) → (∀ u ∈ vs, u < 256) →
      z.a[i]? = some (us.map (Sys2Proof.Float.unpack f b)) → z.b[j]? = some (vs.map (Sys2Proof.Float.unpack g b)) →
      let int := fun (h : Sys2Proof.Float.Fmt) (u : Nat) => if h.kind = .int ∧ 128 ≤ u then (u : Int) - 256 else u
      let y := (us.zip vs).foldl (fun (t : Int) p => t + int f p.1 * int g p.2) x.toInt
      macElement w sc z i j gen x = (BitVec.ofInt 36 y, if -(2 ^ 35) ≤ y ∧ y < 2 ^ 35 then 0 else 32, gen)) ∧
    (∀ (w : Word) (z : Block) (sc : Bool) (i j : Nat) (us vs : List (Bool × Nat × Int)) (p q y : Bool × Nat × Int) (gen : BitVec 32) (x : Acc),
      mxInteger w = false →
      let val := fun (t : Bool × Nat × Int) => Sys2Proof.Float.Val.fin t.1 t.2.1 t.2.2 false
      let num := fun (t : Bool × Nat × Int) => number t.1 t.2.1 t.2.2
      z.a[i]? = some (us.map val) → z.b[j]? = some (vs.map val) → (sc = true → z.sa[i]? = some (val p) ∧ z.sb[j]? = some (val q)) →
      Sys2Proof.Float.unpack Sys2Proof.Float.a36 false x.toNat = val y →
      let d := (us.zip vs).foldl (fun (t : Rat) r => t + num r.1 * num r.2) 0
      ∃ t, num t = num y + (if sc then num p * num q * d else d) ∧
        let r := Sys2Proof.Float.roundDraw Sys2Proof.Float.a36 false (mxMode w) (mxSat w) gen (val t)
        macElement w sc z i j gen x = (BitVec.ofNat 36 r.1, r.2.1, r.2.2)) ∧
    (∀ (s : State) (c : Cmd) (sc tr : Bool) (a b : Word) (ta tb : Option (Word × Word)) (n : Nat) (f g : Sys2Proof.Float.Fmt)
        (pa pb qa : Nat → List (Nat × Nat × Nat)) (qb : List (Nat × Nat × Nat)),
      Sys2Proof.Float.fmtOf (mxAFmt c.mxfmt) = some f → Sys2Proof.Float.fmtOf (mxBFmt c.mxfmt) = some g → f.bits = 8 ∨ f.bits = 16 →
      g.bits = 8 ∨ g.bits = 16 →
      let r := c.mx
      let ea := f.bits / 8
      let eb := g.bits / 8
      let wa := c.pipeWho false
      let wb := c.pipeWho true
      let by_ := fun (base : Ptr) (row : Nat) (stride : Int) (col e : Nat) => addPtr base (row * stride + ((col * e : Nat) : Int))
      let strideA : Int := sextInt 64 (r.get 1).toNat
      let strideB : Int := sextInt 64 (r.get 3).toNat
      let rowA := fun (i : Nat) => match ta with
        | some d => s.quietTile wa c.site d (tileBase d + i * tilePitch d + 32 * n * ea) (32 * ea)
        | none => s.quietAt wa .load (by_ (r.get 0) (bits a 63 32 + i) strideA (bits a 31 0 + 32 * n) ea) (bits (r.get 6) 2 0) (32 * ea)
      let rowB := fun (i : Nat) => match tb with
        | some d => s.quietTile wb c.site d (tileBase d + (if tr then i else 32 * n + i) * tilePitch d + (if tr then 32 * n else 0) * eb) (32 * eb)
        | none => s.quietAt wb .load
            (if tr then by_ (r.get 2) (bits b 63 32 + i) strideB (bits b 31 0 + 32 * n) eb
            else by_ (r.get 2) (bits b 31 0 + (32 * n + i)) strideB (bits b 63 32 + 0) eb) (bits (r.get 6) 6 4) (32 * eb)
      let scaleA : Ptr := BitVec.ofNat 80 (bits (r.get 0) 79 64 * 2 ^ 64 + c.mxsca.toNat)
      let scaleB : Ptr := BitVec.ofNat 80 (bits (r.get 2) 79 64 * 2 ^ 64 + c.mxscb.toNat)
      let bf := Sys2Proof.Float.unpack Sys2Proof.Float.bf16 false
      (∀ i < 32, rowA i = some (pa i) ∧ rowB i = some (pb i)) →
      (sc = true → (∀ i < 32, s.quietAt wa .load (by_ scaleA (bits a 63 32 + i) (sextInt 32 (bits (r.get 5) 31 0)) (bits a 31 0 / 32 + n) 2) 0 2 =
          some (qa i)) ∧
        s.quietAt wb .load (by_ scaleB (bits b 31 0 / 32 + n) (sextInt 32 (bits (r.get 5) 63 32)) (bits b 63 32) 2) 0 64 = some qb) →
      ∃ z, (readBlock memRead c sc tr a b ta tb n).run s = .ok z s ∧
        (∀ i < 32, ∀ k < 32, (z.a.getD i []).getD k (.inf false) = Sys2Proof.Float.unpack f (mxInf8 c.mxfmt) (leAt (s.bytesAt (pa i)) (ea * k) ea) ∧
          (z.b.getD i []).getD k (.inf false) =
            Sys2Proof.Float.unpack g (mxInf8 c.mxfmt) (if tr then leAt (s.bytesAt (pb i)) (eb * k) eb else leAt (s.bytesAt (pb k)) (eb * i) eb)) ∧
        (sc = true → ∀ i < 32, z.sa.getD i (.inf false) = bf (leAt (s.bytesAt (qa i)) 0 2) ∧
          z.sb.getD i (.inf false) = bf (leAt (s.bytesAt qb) (2 * i) 2))) ∧
    ∀ (s : State) (id l k n : Nat) (c : Cmd) (o : OpenCmd) (sc tr k64 half : Bool) (a b : Word) (ta tb : Option (Word × Word)) (ks : List Block),
      Memory.wf s.mem = true → s.cmd id = some c → s.disarmed → s.placeOf c.uid = some (.slot l k) →
      ((s.threadAt l k).opens.filter fun z => z.ctr = c.ctr) = [o] → o.cmd = id → c.performed = false → c.begun = true → c.barrier = none →
      c.kind = .mac sc tr k64 n a b ta tb half → s.softAt (.acc c.loc n) = none → SMap.rising 0 (s.core c.loc).accs = true → mxMode c.mxfmt < 4 →
      let u := if k64 then s else s.mapCore c.loc fun x => x.setPart n false
      (readBlocks c sc tr a b ta tb ((if k64 then 2 else 1) - (if half then 1 else 0)) (if half then 1 else 0)).run u = .ok (ks, none) u →
      ∃ t : State, exec (.engineCompletion id) s = .next t ∧ t.cmd id = none ∧ t.mem = s.mem ∧
        (∀ i < 32, ∀ j < 32, (t.core c.loc).acc n i j =
          ks.foldl (fun x z => (macElement c.mxfmt sc z i j 0 x).1) ((s.core c.loc).acc n i j)) ∧
        ∀ m, m ≠ n → ∀ i < 32, ∀ j < 32, (t.core c.loc).acc m i j = (s.core c.loc).acc m i j) ∧
  (
    (∀ (s : State) (id l k n : Nat) (c : Cmd) (o : OpenCmd) (a : Ptr) (places : Nat → List (Nat × Nat × Nat)),
      Memory.wf s.mem = true → s.cmd id = some c → s.disarmed → s.placeOf c.uid = some (.slot l k) →
      ((s.threadAt l k).opens.filter fun z => z.ctr = c.ctr) = [o] → o.cmd = id → c.performed = false → c.barrier = none →
      s.softAt (.acc c.loc n) = none → SMap.rising 0 (s.core c.loc).accs = true → mxFirstRow c.mx + mxRowsMoved c.mx ≤ 32 → mxMode c.mxfmt < 4 →
      moveFmt (mxDFmt c.mx) = true →
      let fmt := mxDFmt c.mx
      let e := Sys2Proof.Float.fmtBytes fmt
      let first := mxFirstRow c.mx
      let rows := mxRowsMoved c.mx
      let quiet := fun (kind : AccessKind) => ∀ r < rows,
        s.quietAt (c.pipeWho false) kind (addPtr a (r * mxStride c.mx)) (bits (c.mx.get 6) 10 8) (32 * e) = some (places r)
      let code := fun (i j : Nat) => (codeOfAcc fmt (mxInf8 c.mxfmt) (mxMode c.mxfmt) (mxSat c.mxfmt) 0 ((s.core c.loc).acc n i j)).1
      (c.kind = .mxLd n a → c.begun = true → quiet .load → ∃ t : State, exec (.engineCompletion id) s = .next t ∧ t.cmd id = none ∧ t.mem = s.mem ∧
        ∀ m i j, i < 32 → j < 32 → (t.core c.loc).acc m i j = if m = n ∧ first ≤ i ∧ i < first + rows
          then (accOfCode fmt (mxInf8 c.mxfmt) (leAt (s.bytesAt (places (i - first))) (e * j) e)).1 else (s.core c.loc).acc m i j) ∧
      (c.kind = .mxSt n a → c.begun = true → quiet .store → itemsApart rows (fun _ => True) places (fun _ => []) →
        ∃ t : State, exec (.engineCompletion id) s = .next t ∧ t.cmd id = none ∧ (t.core c.loc).accs = (s.core c.loc).accs ∧
          s.StoredItems t rows (fun _ => True) places fun r => (List.range 32).flatMap fun j => toBytes e (code (first + r) j)) ∧
      (∀ ck u q, c.kind = .mxHand n → s.nextQueue ck u = some (q, id) →
        ∃ t : State, exec (.dispatchServe ck u) s = .next t ∧ t.performedWell id ∧ t.mem = s.mem ∧ (t.core c.loc).hand = (s.core c.loc).hand ++
          [⟨c.uid, c.gtid, fmt, (List.range 1024).map fun z => code (z / 32) (z % 32)⟩]) ∧
      (∀ ck u q, c.kind.overlaps = true → s.nextQueue ck u = some (q, id) → s.reconfiguring = false → s.watch = none →
        ∃ t : State, ∃ x, exec (.dispatchServe ck u) s = .next t ∧ (t.core q).dq = (s.core q).dq.tail ∧ .engineCompletion id ∈ t.pending ∧
          t.cmd id = some x ∧ (x.performed = true ∨ (x.begun = true ∧ t.mem = s.mem ∧ (t.core c.loc).accs = (s.core c.loc).accs)))) ∧
    (∀ (fmt code : Nat) (f : Sys2Proof.Float.Fmt) (b neg : Bool) (m : Nat) (e : Int), moveFmt fmt = true → fmt ≠ 5 → fmt ≠ 0xE →
      Sys2Proof.Float.fmtOf fmt = some f → code < 2 ^ f.bits → Sys2Proof.Float.unpack f b code = .fin neg m e false →
      ∃ n g, Sys2Proof.Float.unpack Sys2Proof.Float.a36 false (accOfCode fmt b code).1.toNat = .fin neg n g false ∧ number neg n g = number neg m e ∧
        (accOfCode fmt b code).2 = 0) ∧
    ∀ (code mode : Nat) (b sat : Bool) (gen : BitVec 32) (x : Acc), code < 2 ^ 36 →
      let y : Int := if sat then max (-(2 ^ 31) : Int) (min (2 ^ 31 - 1 : Int) x.toInt) else x.toInt
      (accOfCode 0xE b code).1.toNat = code ∧ codeOfAcc 0xE b mode sat gen x = (x.toNat, 0, gen) ∧
      (code < 2 ^ 32 → (accOfCode 5 b code).1.toInt = (code : Int) - if 2 ^ 31 ≤ code then 2 ^ 32 else 0) ∧
      codeOfAcc 5 b mode sat gen x = ((y % 2 ^ 32).toNat, if -(2 ^ 31) ≤ x.toInt ∧ x.toInt < 2 ^ 31 then 0 else 32, gen) ∧
      ∀ fmt f, fmt ≠ 5 → fmt ≠ 0xE → Sys2Proof.Float.fmtOf fmt = some f →
        (codeOfAcc fmt b mode sat gen x).1 = (Sys2Proof.Float.roundDraw f b mode sat gen (Sys2Proof.Float.unpack Sys2Proof.Float.a36 false x.toNat)).1)

/-- R194, R358, R360, R362, R365-R370: a swage command that starts with nothing of its thread and map before it reads its map, works
on the amplitudes and writes the map back. Named by the map that it leaves, the amplitudes are these: those of a basis state after
`stv.init`; as they were after `stv.swap`, `stv.prob` and `stv.amp`; each group formed by the chain of fused products after
`stv.gate`; scaled, or zero, after `stv.fix`; scaled by one over the root of their sum of squares, where that is not zero, after
`stv.norm`. A result is the sum of squared magnitudes in order of positions, or one amplitude. No other byte changes. A target is
exchanged with the free qubit at the highest local position. R331, R332, R337: a transfer that performs reads its list and moves its
items: `nmc` the local elements to the buffer of each participant, `ngt` a remote element to each local one, `nsc` each local
element to a remote one, or, with ADD, the sum rounded once, `na2a` each local row to a remote one; the source is the local buffer
or a hand-off slot; an entry of all ones moves nothing; every other byte is as it was. That a list entry is used by its low bits is
log 108's choice. A recorded transfer first lays its lists down in the tape region, entries before further participants, and
completes its header (R441). R343-R345: a replay that performs gives each destination element the sum of its old value and its
contributions in recorded order, rounded to ACC at each addition and once to storage: of an `nmc`, the local elements, from every
participant; of an `nsc` or `na2a`, the local elements, each from its remote one; of an `ngt`, each remote element once, from every
local one that its entries name. A status record of participants skipped holds their number and a bit for each. -/
def Obligations.FabricEffects : Prop :=
  (
    (∀ (s : State) (id : Nat) (c : Cmd) (m : StvMap) (place : Nat → List (Nat × Nat × Nat)) (mp rp : List (Nat × Nat × Nat)) (dst : Ptr),
      Memory.wf s.mem = true → s.cmd id = some c → c.performed = false → s.swageBehind c = false →
      let base : Ptr := BitVec.ofNat 80 ((stvMapVa c.stv).toNat / 64 * 64)
      let w := s.stvWho c
      let all := 2 ^ m.n
      let e := stvBytes m.fmt
      let f := if m.fmt = 0x0C then Sys2Proof.Float.f32 else Sys2Proof.Float.f64
      let f64 := Sys2Proof.Float.f64
      locModule w.loc = locModule c.loc → s.member (locModule c.loc) = true →
      s.quietAt w .load base 0 64 = some mp → s.quietAt w .store base 0 64 = some mp → m = StvMap.ofBytes (s.bytesAt mp) →
      stvMapBad c (s.bytesAt mp) = false →
      (∀ y < all, s.ampAt c m .load (m.index y) = some (place y) ∧ s.ampAt c m .store (m.index y) = some (place y) ∧ placesApart (place y) mp ∧
        ∀ z < all, y ≠ z → placesApart (place y) (place z)) →
      let amp := fun (x : Nat) => s.bytesAt (place (m.place x))
      let part := fun (b : List Byte) (i : Nat) => Sys2Proof.Float.unpack f false (leAt b (e / 2 * i) (e / 2))
      let code := fun (h : Sys2Proof.Float.Fmt) (v : Sys2Proof.Float.Val) => (Sys2Proof.Float.round h false 0 false 0 v).1
      let fma := fun (h : Sys2Proof.Float.Fmt) (x y z : Sys2Proof.Float.Val) => Sys2Proof.Float.unpack h false (code h (Sys2Proof.Float.fma 0 z x y).1)
      let both := fun (x y : Nat) => toBytes (e / 2) x ++ toBytes (e / 2) y
      let sum := fun (mask value : Nat) => (List.range all).foldl (fun (t : Sys2Proof.Float.Val) y =>
        let a := s.bytesAt (place y)
        if Nat.land (m.index y) mask = value then fma f64 (part a 1) (part a 1) (fma f64 (part a 0) (part a 0) t) else t) (.fin false 0 0 false)
      let scaled := fun (b : List Byte) (v : Sys2Proof.Float.Val) =>
        both (code f (Sys2Proof.Float.mul (part b 0) v).1) (code f (Sys2Proof.Float.mul (part b 1) v).1)
      let result := fun (n : Nat) => s.quietAt w .store dst 0 n = some rp ∧ placesApart rp mp ∧ ∀ y < all, placesApart rp (place y)
      let leaves := fun (new : Nat → List Byte) (map : StvMap) (res : Option (List Byte)) =>
        ∃ t : State, exec (.swageCommandStart id) s = .next t ∧ t.performedWell id ∧ .engineCompletion id ∈ t.pending ∧
          s.StoredItems t (all + 2) (fun y => y ≤ all ∨ res.isSome = true) (fun y => if y < all then place y else if y = all then mp else rp)
            fun y => if y < all then new (map.index y) else if y = all then map.toBytes else res.getD []
      (∀ i, c.kind = .stvInit i → leaves (fun x => both (if x = i.toNat % all then code f (.fin false 1 0 false) else 0) 0) m none) ∧
      (∀ q r, c.kind = .stvSwap q r → q < m.n → r < m.n → q ≠ r → leaves amp (m.exchanged q r) none) ∧
      (∀ plan u fmt, c.kind = .stvGate plan u fmt → planOk plan m.n = true → tooFew m plan = false →
        let ts := planTargets plan
        let d := 2 ^ ts.length
        let bit_ := fun (x : Nat) (b : Bool) (v : Nat) => if x.testBit v = b then 2 ^ v else 0
        let row := fun (x : Nat) => ((ts.zipIdx).map fun p => if x.testBit p.1 then 2 ^ p.2 else 0).sum
        let entry := fun (i k j : Nat) => Sys2Proof.Float.unpack f false (leAt u ((i * d + k) * e + e / 2 * j) (e / 2))
        let old := fun (x k : Nat) => amp (spread (x - (ts.map (bit_ x true)).sum) ts k)
        let formed := fun (x : Nat) => (List.range d).foldl (fun (t : Sys2Proof.Float.Val × Sys2Proof.Float.Val) k =>
          let re := entry (row x) k 0
          let im := entry (row x) k 1
          let a := old x k
          (fma f im.negate (part a 1) (fma f re (part a 0) t.1), fma f im (part a 0) (fma f re (part a 1) t.2)))
          (.fin false 0 0 false, .fin false 0 0 false)
        let matches_ := fun (x : Nat) => ((planControls plan).zipIdx).all fun p => x.testBit p.1 = (leAt plan 6 1).testBit p.2
        leaves (fun x => if matches_ x then both (code f (formed x).1) (code f (formed x).2) else amp x)
          ((m.exchanges (ts ++ planControls plan) ts).foldl (fun y p => y.exchanged p.1 p.2) m) none) ∧
      (∀ mask value, c.kind = .stvProb dst mask value → result 8 → leaves amp m (some (toBytes 8 (code f64 (sum (mask.toNat % all) (value.toNat % all)))))) ∧
      (∀ mask value (v : Word), c.kind = .stvFix mask value v → leaves (fun x => if Nat.land x (mask.toNat % all) = value.toNat % all
        then scaled (amp x) (Sys2Proof.Float.unpack f64 false v.toNat) else both 0 0) m none) ∧
      (c.kind = .stvNorm dst → result 8 →
        leaves (fun x => if (sum 0 0).isZero then amp x
          else scaled (amp x) (Sys2Proof.Float.unpack f64 false (code f64 (Sys2Proof.Float.rsqrt (sum 0 0)).1))) m (some (toBytes 8 (code f64 (sum 0 0))))) ∧
      (∀ i, c.kind = .stvAmp dst i → result e → leaves amp m (some (amp (i.toNat % all))))) ∧
    ∀ (m : StvMap) (used : List Nat) (t r : Nat), m.pos.length = m.n → m.pos.Nodup → t < m.n → r < m.n → m.local_ ≤ m.pos.getD t 0 → r ∉ used →
      m.pos.getD r 0 < m.local_ → (∀ z < m.n, z ∉ used → m.pos.getD z 0 < m.local_ → m.pos.getD z 0 ≤ m.pos.getD r 0) →
      m.exchanges used [t] = [(t, r)]) ∧
  (
    (∀ (s u : State) (id l k kind : Nat) (c : Cmd) (o : OpenCmd) (x : Word) (lb : Ptr) (tape : Option (Nat × BitVec 16)) (hand : Option (List Nat))
      (from_ dest lst : Nat → List (Nat × Nat × Nat)),
      Memory.wf u.mem = true → s.cmd id = some c → u.cmd id = some c → u.disarmed → u.placeOf c.uid = some (.slot l k) →
      ((u.threadAt l k).opens.filter fun z => z.ctr = c.ctr) = [o] → o.cmd = id → c.performed = false → c.barrier = none →
      c.kind = .transfer kind x lb tape hand →
      let r := c.ni
      let e := Sys2Proof.Float.fmtBytes (niFmt r)
      let cnt := niCount r
      let w := c.niWho
      let glb := niGlb r
      let entry := fun (i : Nat) => ofBytes (s.bytesAt (lst i))
      let live := fun (i : Nat) => entry i ≠ 2 ^ 64 - 1
      let rank := fun (i : Nat) => entry i / 2 ^ 32 % 2 ^ 20
      let index := fun (i : Nat) => if glb then entry i else entry i % 2 ^ 32
      let laid := fun (n : Nat) => match tape with
        | some z => (layDown c kind z.1 z.2 ((List.range n).map entry)).run s = .ok () u
        | none => u = s
      let listed := laid cnt ∧ ∀ i < cnt, s.quietAt w .load (niIdx r + BitVec.ofNat 80 (8 * i)) 0 8 = some (lst i)
      let far := fun (access : AccessKind) (i n : Nat) (p : List (Nat × Nat × Nat)) => u.farAt c w c.loc access glb lb x (rank i) (index i * n) n p
      let sourced := fun (i off n : Nat) => match hand with
        | some codes => codes.length = cnt * (niRwm1 r + 1) ∧ from_ i = []
        | none => u.quietAt w .load (lb + BitVec.ofNat 80 off) 0 n = some (from_ i)
      let data := fun (i off n : Nat) => match hand with
        | some codes => ((codes.drop (off / e)).take (n / e)).flatMap fun z => toBytes e z
        | none => u.bytesAt (from_ i)
      let leaves := fun (n : Nat) (live : Nat → Prop) (dest : Nat → List (Nat × Nat × Nat)) (data : Nat → List Byte) =>
        ∃ t : State, exec (.engineCompletion id) s = .next t ∧ t.cmd id = none ∧ (t.threadAt l k).faults = (u.threadAt l k).faults ∧
          (t.threadAt l k).k.get c.ctr.toFin = ⟨((u.threadAt l k).k.get c.ctr.toFin).i, o.num⟩ ∧ u.StoredItems t n live dest data
      0 < e →
      (kind = 1 → niRwm1 r = 0 → laid (niPart r) → (∀ i < niPart r, s.quietAt w .load (niList r + BitVec.ofNat 80 (4 * i)) 0 4 = some (lst i) ∧
          u.farAt c w c.loc .store false lb x (entry i % 2 ^ 20) 0 (e * cnt) (dest i) ∧ sourced i 0 (e * cnt)) →
        itemsApart (niPart r) (fun _ => True) dest from_ → leaves (niPart r) (fun _ => True) dest fun i => data i 0 (e * cnt)) ∧
      (kind = 2 → listed → (∀ i < cnt, live i → far .load i e (from_ i) ∧ u.quietAt w .store (lb + BitVec.ofNat 80 (i * e)) 0 e = some (dest i)) →
        itemsApart cnt live dest from_ → leaves cnt live dest fun i => u.bytesAt (from_ i)) ∧
      (∀ n, (kind = 3 ∧ niRwm1 r = 0 ∨ kind = 5) → n = (niRwm1 r + 1) * e → listed →
        (∀ i < cnt, live i → far .store i n (dest i) ∧ sourced i (i * n) n) → itemsApart cnt live dest from_ →
        leaves cnt live dest fun i => data i (i * n) n) ∧
      ∀ (f : Sys2Proof.Float.Fmt) (pa : Nat → Nat), kind = 4 → niRwm1 r = 0 → listed → niMode r < 4 → addFmt (niFmt r) = true →
        Sys2Proof.Float.fmtOf (niFmt r) = some f →
        (∀ i < cnt, live i → far .atomic i e [(pa i, 0, e)] ∧ sourced i (i * e) e ∧ pa i % e = 0 ∧
          (glb = true → (BitVec.ofNat 80 (bits lb 79 64 * 2 ^ 64 + x.toNat) + BitVec.ofNat 80 (index i * e)).toNat % e = 0)) →
        itemsApart cnt live (fun i => [(pa i, 0, e)]) from_ →
        leaves cnt live (fun i => [(pa i, 0, e)]) fun i => toBytes e (Sys2Proof.Float.combine f c.inf8 (niMode r) (niSat r) 0 0
          (ofBytes (u.readBytes clearKey (pa i) e)) (ofBytes (data i (i * e) e))).1) ∧
    (∀ (s : State) (c : Cmd) (kind slot : Nat) (gen : BitVec 16) (got : List Nat) (t : TapeEntry),
      (∀ x ∈ got, x < 2 ^ 64) → got.length ≤ niCount c.ni ∨ kind = 1 →
      (s.cluster (locClusterKey c.loc)).tape.find? (fun z => z.slot = slot && z.gen = gen) = some t →
      let n := if kind = 1 then 0 else niCount c.ni
      let ranks := if kind = 1 then got.map (· % 2 ^ 20) else if niGlb c.ni then [] else distinctRanks got
      ∃ (b : List Byte) (v : State), b.length = 8 * n + 4 * (ranks.length - 8) ∧
        (∀ i < n, leAt b (8 * i) 8 = if i < got.length then got.getD i 0 else 2 ^ 64 - 1) ∧
        (∀ i < ranks.length - 8, leAt b (8 * n + 4 * i) 4 = ranks.getD (8 + i) 0) ∧
        (v.cluster (locClusterKey c.loc)).tape = ((s.cluster (locClusterKey c.loc)).tape.map fun z =>
          if z.slot = slot ∧ z.gen = gen then
            { z with reading := false, npart := ranks.length, ranks := ranks.take 8, list := if b = [] then 0 else z.list, units := (b.length + 63) / 64 }
          else z) ∧
        (layDown c kind slot gen got).run s =
          if b = [] then .ok () v else (memWrite c.niWho (t.tapeb.zeroExtend 80 + BitVec.ofNat 80 (64 * t.list)) b 0).run v) ∧
    ∀ (got : List Nat) (x : Nat), distinctRanks [] = [] ∧
      distinctRanks (got ++ [x]) = distinctRanks got ++ if x = 2 ^ 64 - 1 ∨ x / 2 ^ 32 % 2 ^ 20 ∈ distinctRanks got then [] else [x / 2 ^ 32 % 2 ^ 20]) ∧
  (
    (∀ (s : State) (id l k ck acc srnd : Nat) (c : Cmd) (o : OpenCmd) (y : TapeEntry) (delta : Word) (f : Sys2Proof.Float.Fmt)
      (py : Nat → Nat) (cs : Nat → Nat → List (Nat × Nat × Nat)) (lb : List Byte),
      Memory.wf s.mem = true → s.cmd id = some c → s.disarmed → s.placeOf c.uid = some (.slot l k) →
      ((s.threadAt l k).opens.filter fun z => z.ctr = c.ctr) = [o] → o.cmd = id → c.performed = false → c.barrier = none →
      c.kind = .treplay ck y delta acc srnd 0 → srnd % 8 < 4 → Sys2Proof.Float.fmtOf y.fmt = some f → replayFmt y.fmt = true →
      let e := Sys2Proof.Float.fmtBytes y.fmt
      let w := c.tapeWho ck
      let near : Ptr := y.l + delta.signExtend 80
      let x := y.x + delta
      let wide := y.rwm1 + 1
      let entry := fun (i : Nat) => leAt lb (8 * i) 8
      let live := fun (i : Nat) => entry i ≠ 2 ^ 64 - 1
      let rank := fun (i : Nat) => entry i / 2 ^ 32 % 2 ^ 20
      let index := fun (i : Nat) => if y.glb then entry i else entry i % 2 ^ 32
      let lists := fun (n : Nat) => y.list ≠ 0 ∧
        (memRead w (y.tapeb.zeroExtend 80 + BitVec.ofNat 80 (64 * y.list)) (8 * n + 4 * (y.npart - 8)) 0).run s = .ok lb s
      let listed := lists y.count
      let all := if y.list = 0 then y.ranks else y.ranks ++ (List.range (y.npart - 8)).map fun i => leAt lb (4 * i) 4 % 2 ^ 20
      let a := if acc = 0x0A then Sys2Proof.Float.f32 else Sys2Proof.Float.a36
      let value := fun (b : List Byte) => Sys2Proof.Float.unpack f c.inf8 (ofBytes b)
      let formed := fun (old : List Byte) (parts : List (List Byte)) => toBytes e (Sys2Proof.Float.round f c.inf8 (srnd % 8) (srnd.testBit 3) 0
        (parts.foldl (fun v b => Sys2Proof.Float.unpack a false (Sys2Proof.Float.round a false 0 false 0 (Sys2Proof.Float.add 0 v (value b)).1).1)
          (value old))).1
      let local_ := fun (access : AccessKind) (i : Nat) => s.quietAt w access (near + BitVec.ofNat 80 (i * e)) 0 e
      let own := fun (z : Nat) => local_ .atomic z = some [(py z, 0, e)] ∧ (near + BitVec.ofNat 80 (z * e)).toNat % e = 0
      let apart := fun (n : Nat) (live : Nat → Prop) (m : Nat → Nat) => ∀ i < n, ∀ j < n, live i → live j → i ≠ j →
        placesApart [(py i, 0, e)] [(py j, 0, e)] ∧ ∀ p < m j, placesApart [(py i, 0, e)] (cs j p)
      let leaves := fun (n : Nat) (live : Nat → Prop) (parts : Nat → List (List Byte)) =>
        ∃ t : State, exec (.engineCompletion id) s = .next t ∧ t.cmd id = none ∧ (t.threadAt l k).faults = (s.threadAt l k).faults ∧
          (t.threadAt l k).k.get c.ctr.toFin = ⟨((s.threadAt l k).k.get c.ctr.toFin).i, o.num⟩ ∧
          s.StoredItems t n live (fun i => [(py i, 0, e)]) fun i => formed (s.readBytes clearKey (py i) e) (parts i)
      (y.kind = 1 → y.list = 0 ∨ lists 0 → y.glb = false →
        (∀ j < y.count, own j ∧ ∀ p < all.length, s.farAt c w (ck * 16) .load false near x (all.getD p 0) (j * e) e (cs j p)) →
        apart y.count (fun _ => True) (fun _ => all.length) →
        leaves y.count (fun _ => True) fun j => (List.range all.length).map fun p => s.bytesAt (cs j p)) ∧
      ((y.kind = 3 ∨ y.kind = 4) ∧ wide = 1 ∨ y.kind = 5 → listed →
        let lives := fun (z : Nat) => live (z / wide)
        (∀ z < y.count * wide, lives z → own z ∧
          s.farAt c w (ck * 16) .load y.glb near x (rank (z / wide)) (index (z / wide) * (wide * e) + z % wide * e) e (cs z 0)) →
        apart (y.count * wide) lives (fun _ => 1) → leaves (y.count * wide) lives fun z => [s.bytesAt (cs z 0)]) ∧
      (y.kind = 2 → listed →
        let same := fun (i j : Nat) => entry j ≠ 2 ^ 64 - 1 ∧ index i = index j ∧ (y.glb = true ∨ rank i = rank j)
        let first := fun (i : Nat) => live i ∧ ∀ j < i, ¬ same i j
        let named := fun (i : Nat) => (List.range y.count).filter fun j =>
          decide (entry j ≠ 2 ^ 64 - 1) && decide (index i = index j) && (y.glb || decide (rank i = rank j))
        (∀ i < y.count, live i → local_ .load i = some (cs i 0)) →
        (∀ i < y.count, first i → s.farAt c w (ck * 16) .atomic y.glb near x (rank i) (index i * e) e [(py i, 0, e)] ∧ py i % e = 0 ∧
          (y.glb = true → (BitVec.ofNat 80 (bits near 79 64 * 2 ^ 64 + x.toNat) + BitVec.ofNat 80 (index i * e)).toNat % e = 0)) →
        (∀ i < y.count, ∀ j < y.count, first i → (first j → i ≠ j → placesApart [(py i, 0, e)] [(py j, 0, e)]) ∧
          (live j → placesApart [(py i, 0, e)] (cs j 0))) →
        leaves y.count first fun i => (named i).map fun j => s.bytesAt (cs j 0))) ∧
    ∀ (skipped : List Nat) (n : Nat), skipped.Nodup → (∀ p ∈ skipped, p < n) →
      let b := statusBytes skipped n
      (skipped = [] → b = List.replicate 8 0) ∧
      (skipped ≠ [] → b.length = 8 + 8 * ((n + 63) / 64) ∧ leAt b 0 2 = 1 ∧ leAt b 2 2 = skipped.length % 2 ^ 16 ∧ leAt b 4 4 = 0 ∧
        ∀ p < n, (leAt b (8 + p / 8) 1).testBit (p % 8) = decide (p ∈ skipped)))
end

