-- ==== Sys2Proof/Laws/State.lean ====
section
/-! SUPPORT. What each update of the state leaves as it was, field by field, and what it sets. -/

namespace Sys2Proof.Machine

/-! ### `setCore` -/

@[simp] theorem State.setCore_clusters (s : State) (l : Loc) (c : Core) : (s.setCore l c).clusters = s.clusters := rfl
@[simp] theorem State.setCore_dies (s : State) (l : Loc) (c : Core) : (s.setCore l c).dies = s.dies := rfl
@[simp] theorem State.setCore_modules (s : State) (l : Loc) (c : Core) : (s.setCore l c).modules = s.modules := rfl
@[simp] theorem State.setCore_mem (s : State) (l : Loc) (c : Core) : (s.setCore l c).mem = s.mem := rfl
@[simp] theorem State.setCore_keys (s : State) (l : Loc) (c : Core) : (s.setCore l c).keys = s.keys := rfl
@[simp] theorem State.setCore_errs (s : State) (l : Loc) (c : Core) : (s.setCore l c).errs = s.errs := rfl
@[simp] theorem State.setCore_softs (s : State) (l : Loc) (c : Core) : (s.setCore l c).softs = s.softs := rfl
@[simp] theorem State.setCore_tlbs (s : State) (l : Loc) (c : Core) : (s.setCore l c).tlbs = s.tlbs := rfl
@[simp] theorem State.setCore_walks (s : State) (l : Loc) (c : Core) : (s.setCore l c).walks = s.walks := rfl
@[simp] theorem State.setCore_domain (s : State) (l : Loc) (c : Core) : (s.setCore l c).domain = s.domain := rfl
@[simp] theorem State.setCore_unreachable (s : State) (l : Loc) (c : Core) : (s.setCore l c).unreachable = s.unreachable := rfl
@[simp] theorem State.setCore_cmds (s : State) (l : Loc) (c : Core) : (s.setCore l c).cmds = s.cmds := rfl
@[simp] theorem State.setCore_reqs (s : State) (l : Loc) (c : Core) : (s.setCore l c).reqs = s.reqs := rfl
@[simp] theorem State.setCore_msgs (s : State) (l : Loc) (c : Core) : (s.setCore l c).msgs = s.msgs := rfl
@[simp] theorem State.setCore_invals (s : State) (l : Loc) (c : Core) : (s.setCore l c).invals = s.invals := rfl
@[simp] theorem State.setCore_kept (s : State) (l : Loc) (c : Core) : (s.setCore l c).kept = s.kept := rfl
@[simp] theorem State.setCore_released (s : State) (l : Loc) (c : Core) : (s.setCore l c).released = s.released := rfl
@[simp] theorem State.setCore_teams (s : State) (l : Loc) (c : Core) : (s.setCore l c).teams = s.teams := rfl
@[simp] theorem State.setCore_host (s : State) (l : Loc) (c : Core) : (s.setCore l c).host = s.host := rfl
@[simp] theorem State.setCore_now (s : State) (l : Loc) (c : Core) : (s.setCore l c).now = s.now := rfl
@[simp] theorem State.setCore_cur (s : State) (l : Loc) (c : Core) : (s.setCore l c).cur = s.cur := rfl
@[simp] theorem State.setCore_focus (s : State) (l : Loc) (c : Core) : (s.setCore l c).focus = s.focus := rfl
@[simp] theorem State.setCore_turns (s : State) (l : Loc) (c : Core) : (s.setCore l c).turns = s.turns := rfl
@[simp] theorem State.setCore_pending (s : State) (l : Loc) (c : Core) : (s.setCore l c).pending = s.pending := rfl
@[simp] theorem State.setCore_nextId (s : State) (l : Loc) (c : Core) : (s.setCore l c).nextId = s.nextId := rfl
@[simp] theorem State.setCore_fresh (s : State) (l : Loc) (c : Core) : (s.setCore l c).fresh = s.fresh := rfl
@[simp] theorem State.setCore_ops (s : State) (l : Loc) (c : Core) : (s.setCore l c).ops = s.ops := rfl
@[simp] theorem State.setCore_watch (s : State) (l : Loc) (c : Core) : (s.setCore l c).watch = s.watch := rfl

/-! ### `setCluster` -/

@[simp] theorem State.setCluster_cores (s : State) (k : Nat) (c : Cluster) : (s.setCluster k c).cores = s.cores := rfl
@[simp] theorem State.setCluster_dies (s : State) (k : Nat) (c : Cluster) : (s.setCluster k c).dies = s.dies := rfl
@[simp] theorem State.setCluster_modules (s : State) (k : Nat) (c : Cluster) : (s.setCluster k c).modules = s.modules := rfl
@[simp] theorem State.setCluster_mem (s : State) (k : Nat) (c : Cluster) : (s.setCluster k c).mem = s.mem := rfl
@[simp] theorem State.setCluster_keys (s : State) (k : Nat) (c : Cluster) : (s.setCluster k c).keys = s.keys := rfl
@[simp] theorem State.setCluster_errs (s : State) (k : Nat) (c : Cluster) : (s.setCluster k c).errs = s.errs := rfl
@[simp] theorem State.setCluster_softs (s : State) (k : Nat) (c : Cluster) : (s.setCluster k c).softs = s.softs := rfl
@[simp] theorem State.setCluster_tlbs (s : State) (k : Nat) (c : Cluster) : (s.setCluster k c).tlbs = s.tlbs := rfl
@[simp] theorem State.setCluster_walks (s : State) (k : Nat) (c : Cluster) : (s.setCluster k c).walks = s.walks := rfl
@[simp] theorem State.setCluster_domain (s : State) (k : Nat) (c : Cluster) : (s.setCluster k c).domain = s.domain := rfl
@[simp] theorem State.setCluster_unreachable (s : State) (k : Nat) (c : Cluster) : (s.setCluster k c).unreachable = s.unreachable := rfl
@[simp] theorem State.setCluster_cmds (s : State) (k : Nat) (c : Cluster) : (s.setCluster k c).cmds = s.cmds := rfl
@[simp] theorem State.setCluster_reqs (s : State) (k : Nat) (c : Cluster) : (s.setCluster k c).reqs = s.reqs := rfl
@[simp] theorem State.setCluster_msgs (s : State) (k : Nat) (c : Cluster) : (s.setCluster k c).msgs = s.msgs := rfl
@[simp] theorem State.setCluster_invals (s : State) (k : Nat) (c : Cluster) : (s.setCluster k c).invals = s.invals := rfl
@[simp] theorem State.setCluster_kept (s : State) (k : Nat) (c : Cluster) : (s.setCluster k c).kept = s.kept := rfl
@[simp] theorem State.setCluster_released (s : State) (k : Nat) (c : Cluster) : (s.setCluster k c).released = s.released := rfl
@[simp] theorem State.setCluster_teams (s : State) (k : Nat) (c : Cluster) : (s.setCluster k c).teams = s.teams := rfl
@[simp] theorem State.setCluster_host (s : State) (k : Nat) (c : Cluster) : (s.setCluster k c).host = s.host := rfl
@[simp] theorem State.setCluster_now (s : State) (k : Nat) (c : Cluster) : (s.setCluster k c).now = s.now := rfl
@[simp] theorem State.setCluster_cur (s : State) (k : Nat) (c : Cluster) : (s.setCluster k c).cur = s.cur := rfl
@[simp] theorem State.setCluster_focus (s : State) (k : Nat) (c : Cluster) : (s.setCluster k c).focus = s.focus := rfl
@[simp] theorem State.setCluster_turns (s : State) (k : Nat) (c : Cluster) : (s.setCluster k c).turns = s.turns := rfl
@[simp] theorem State.setCluster_pending (s : State) (k : Nat) (c : Cluster) : (s.setCluster k c).pending = s.pending := rfl
@[simp] theorem State.setCluster_nextId (s : State) (k : Nat) (c : Cluster) : (s.setCluster k c).nextId = s.nextId := rfl
@[simp] theorem State.setCluster_fresh (s : State) (k : Nat) (c : Cluster) : (s.setCluster k c).fresh = s.fresh := rfl
@[simp] theorem State.setCluster_ops (s : State) (k : Nat) (c : Cluster) : (s.setCluster k c).ops = s.ops := rfl
@[simp] theorem State.setCluster_watch (s : State) (k : Nat) (c : Cluster) : (s.setCluster k c).watch = s.watch := rfl

/-! ### `setDie` -/

@[simp] theorem State.setDie_cores (s : State) (k : Nat) (d : Die) : (s.setDie k d).cores = s.cores := rfl
@[simp] theorem State.setDie_clusters (s : State) (k : Nat) (d : Die) : (s.setDie k d).clusters = s.clusters := rfl
@[simp] theorem State.setDie_modules (s : State) (k : Nat) (d : Die) : (s.setDie k d).modules = s.modules := rfl
@[simp] theorem State.setDie_mem (s : State) (k : Nat) (d : Die) : (s.setDie k d).mem = s.mem := rfl
@[simp] theorem State.setDie_keys (s : State) (k : Nat) (d : Die) : (s.setDie k d).keys = s.keys := rfl
@[simp] theorem State.setDie_errs (s : State) (k : Nat) (d : Die) : (s.setDie k d).errs = s.errs := rfl
@[simp] theorem State.setDie_softs (s : State) (k : Nat) (d : Die) : (s.setDie k d).softs = s.softs := rfl
@[simp] theorem State.setDie_tlbs (s : State) (k : Nat) (d : Die) : (s.setDie k d).tlbs = s.tlbs := rfl
@[simp] theorem State.setDie_walks (s : State) (k : Nat) (d : Die) : (s.setDie k d).walks = s.walks := rfl
@[simp] theorem State.setDie_domain (s : State) (k : Nat) (d : Die) : (s.setDie k d).domain = s.domain := rfl
@[simp] theorem State.setDie_unreachable (s : State) (k : Nat) (d : Die) : (s.setDie k d).unreachable = s.unreachable := rfl
@[simp] theorem State.setDie_cmds (s : State) (k : Nat) (d : Die) : (s.setDie k d).cmds = s.cmds := rfl
@[simp] theorem State.setDie_reqs (s : State) (k : Nat) (d : Die) : (s.setDie k d).reqs = s.reqs := rfl
@[simp] theorem State.setDie_msgs (s : State) (k : Nat) (d : Die) : (s.setDie k d).msgs = s.msgs := rfl
@[simp] theorem State.setDie_invals (s : State) (k : Nat) (d : Die) : (s.setDie k d).invals = s.invals := rfl
@[simp] theorem State.setDie_kept (s : State) (k : Nat) (d : Die) : (s.setDie k d).kept = s.kept := rfl
@[simp] theorem State.setDie_released (s : State) (k : Nat) (d : Die) : (s.setDie k d).released = s.released := rfl
@[simp] theorem State.setDie_teams (s : State) (k : Nat) (d : Die) : (s.setDie k d).teams = s.teams := rfl
@[simp] theorem State.setDie_host (s : State) (k : Nat) (d : Die) : (s.setDie k d).host = s.host := rfl
@[simp] theorem State.setDie_now (s : State) (k : Nat) (d : Die) : (s.setDie k d).now = s.now := rfl
@[simp] theorem State.setDie_cur (s : State) (k : Nat) (d : Die) : (s.setDie k d).cur = s.cur := rfl
@[simp] theorem State.setDie_focus (s : State) (k : Nat) (d : Die) : (s.setDie k d).focus = s.focus := rfl
@[simp] theorem State.setDie_turns (s : State) (k : Nat) (d : Die) : (s.setDie k d).turns = s.turns := rfl
@[simp] theorem State.setDie_pending (s : State) (k : Nat) (d : Die) : (s.setDie k d).pending = s.pending := rfl
@[simp] theorem State.setDie_nextId (s : State) (k : Nat) (d : Die) : (s.setDie k d).nextId = s.nextId := rfl
@[simp] theorem State.setDie_fresh (s : State) (k : Nat) (d : Die) : (s.setDie k d).fresh = s.fresh := rfl
@[simp] theorem State.setDie_ops (s : State) (k : Nat) (d : Die) : (s.setDie k d).ops = s.ops := rfl
@[simp] theorem State.setDie_watch (s : State) (k : Nat) (d : Die) : (s.setDie k d).watch = s.watch := rfl

/-! ### `setModule` -/

@[simp] theorem State.setModule_cores (s : State) (k : Nat) (m : Module) : (s.setModule k m).cores = s.cores := rfl
@[simp] theorem State.setModule_clusters (s : State) (k : Nat) (m : Module) : (s.setModule k m).clusters = s.clusters := rfl
@[simp] theorem State.setModule_dies (s : State) (k : Nat) (m : Module) : (s.setModule k m).dies = s.dies := rfl
@[simp] theorem State.setModule_mem (s : State) (k : Nat) (m : Module) : (s.setModule k m).mem = s.mem := rfl
@[simp] theorem State.setModule_keys (s : State) (k : Nat) (m : Module) : (s.setModule k m).keys = s.keys := rfl
@[simp] theorem State.setModule_errs (s : State) (k : Nat) (m : Module) : (s.setModule k m).errs = s.errs := rfl
@[simp] theorem State.setModule_softs (s : State) (k : Nat) (m : Module) : (s.setModule k m).softs = s.softs := rfl
@[simp] theorem State.setModule_tlbs (s : State) (k : Nat) (m : Module) : (s.setModule k m).tlbs = s.tlbs := rfl
@[simp] theorem State.setModule_walks (s : State) (k : Nat) (m : Module) : (s.setModule k m).walks = s.walks := rfl
@[simp] theorem State.setModule_domain (s : State) (k : Nat) (m : Module) : (s.setModule k m).domain = s.domain := rfl
@[simp] theorem State.setModule_unreachable (s : State) (k : Nat) (m : Module) : (s.setModule k m).unreachable = s.unreachable := rfl
@[simp] theorem State.setModule_cmds (s : State) (k : Nat) (m : Module) : (s.setModule k m).cmds = s.cmds := rfl
@[simp] theorem State.setModule_reqs (s : State) (k : Nat) (m : Module) : (s.setModule k m).reqs = s.reqs := rfl
@[simp] theorem State.setModule_msgs (s : State) (k : Nat) (m : Module) : (s.setModule k m).msgs = s.msgs := rfl
@[simp] theorem State.setModule_invals (s : State) (k : Nat) (m : Module) : (s.setModule k m).invals = s.invals := rfl
@[simp] theorem State.setModule_kept (s : State) (k : Nat) (m : Module) : (s.setModule k m).kept = s.kept := rfl
@[simp] theorem State.setModule_released (s : State) (k : Nat) (m : Module) : (s.setModule k m).released = s.released := rfl
@[simp] theorem State.setModule_teams (s : State) (k : Nat) (m : Module) : (s.setModule k m).teams = s.teams := rfl
@[simp] theorem State.setModule_host (s : State) (k : Nat) (m : Module) : (s.setModule k m).host = s.host := rfl
@[simp] theorem State.setModule_now (s : State) (k : Nat) (m : Module) : (s.setModule k m).now = s.now := rfl
@[simp] theorem State.setModule_cur (s : State) (k : Nat) (m : Module) : (s.setModule k m).cur = s.cur := rfl
@[simp] theorem State.setModule_focus (s : State) (k : Nat) (m : Module) : (s.setModule k m).focus = s.focus := rfl
@[simp] theorem State.setModule_turns (s : State) (k : Nat) (m : Module) : (s.setModule k m).turns = s.turns := rfl
@[simp] theorem State.setModule_pending (s : State) (k : Nat) (m : Module) : (s.setModule k m).pending = s.pending := rfl
@[simp] theorem State.setModule_nextId (s : State) (k : Nat) (m : Module) : (s.setModule k m).nextId = s.nextId := rfl
@[simp] theorem State.setModule_fresh (s : State) (k : Nat) (m : Module) : (s.setModule k m).fresh = s.fresh := rfl
@[simp] theorem State.setModule_ops (s : State) (k : Nat) (m : Module) : (s.setModule k m).ops = s.ops := rfl
@[simp] theorem State.setModule_watch (s : State) (k : Nat) (m : Module) : (s.setModule k m).watch = s.watch := rfl

/-! ### `mapCore` -/

@[simp] theorem State.mapCore_clusters (s : State) (l : Loc) (f : Core → Core) : (s.mapCore l f).clusters = s.clusters := rfl
@[simp] theorem State.mapCore_dies (s : State) (l : Loc) (f : Core → Core) : (s.mapCore l f).dies = s.dies := rfl
@[simp] theorem State.mapCore_modules (s : State) (l : Loc) (f : Core → Core) : (s.mapCore l f).modules = s.modules := rfl
@[simp] theorem State.mapCore_mem (s : State) (l : Loc) (f : Core → Core) : (s.mapCore l f).mem = s.mem := rfl
@[simp] theorem State.mapCore_keys (s : State) (l : Loc) (f : Core → Core) : (s.mapCore l f).keys = s.keys := rfl
@[simp] theorem State.mapCore_errs (s : State) (l : Loc) (f : Core → Core) : (s.mapCore l f).errs = s.errs := rfl
@[simp] theorem State.mapCore_softs (s : State) (l : Loc) (f : Core → Core) : (s.mapCore l f).softs = s.softs := rfl
@[simp] theorem State.mapCore_tlbs (s : State) (l : Loc) (f : Core → Core) : (s.mapCore l f).tlbs = s.tlbs := rfl
@[simp] theorem State.mapCore_walks (s : State) (l : Loc) (f : Core → Core) : (s.mapCore l f).walks = s.walks := rfl
@[simp] theorem State.mapCore_domain (s : State) (l : Loc) (f : Core → Core) : (s.mapCore l f).domain = s.domain := rfl
@[simp] theorem State.mapCore_unreachable (s : State) (l : Loc) (f : Core → Core) : (s.mapCore l f).unreachable = s.unreachable := rfl
@[simp] theorem State.mapCore_cmds (s : State) (l : Loc) (f : Core → Core) : (s.mapCore l f).cmds = s.cmds := rfl
@[simp] theorem State.mapCore_reqs (s : State) (l : Loc) (f : Core → Core) : (s.mapCore l f).reqs = s.reqs := rfl
@[simp] theorem State.mapCore_msgs (s : State) (l : Loc) (f : Core → Core) : (s.mapCore l f).msgs = s.msgs := rfl
@[simp] theorem State.mapCore_invals (s : State) (l : Loc) (f : Core → Core) : (s.mapCore l f).invals = s.invals := rfl
@[simp] theorem State.mapCore_kept (s : State) (l : Loc) (f : Core → Core) : (s.mapCore l f).kept = s.kept := rfl
@[simp] theorem State.mapCore_released (s : State) (l : Loc) (f : Core → Core) : (s.mapCore l f).released = s.released := rfl
@[simp] theorem State.mapCore_teams (s : State) (l : Loc) (f : Core → Core) : (s.mapCore l f).teams = s.teams := rfl
@[simp] theorem State.mapCore_host (s : State) (l : Loc) (f : Core → Core) : (s.mapCore l f).host = s.host := rfl
@[simp] theorem State.mapCore_now (s : State) (l : Loc) (f : Core → Core) : (s.mapCore l f).now = s.now := rfl
@[simp] theorem State.mapCore_cur (s : State) (l : Loc) (f : Core → Core) : (s.mapCore l f).cur = s.cur := rfl
@[simp] theorem State.mapCore_focus (s : State) (l : Loc) (f : Core → Core) : (s.mapCore l f).focus = s.focus := rfl
@[simp] theorem State.mapCore_turns (s : State) (l : Loc) (f : Core → Core) : (s.mapCore l f).turns = s.turns := rfl
@[simp] theorem State.mapCore_pending (s : State) (l : Loc) (f : Core → Core) : (s.mapCore l f).pending = s.pending := rfl
@[simp] theorem State.mapCore_nextId (s : State) (l : Loc) (f : Core → Core) : (s.mapCore l f).nextId = s.nextId := rfl
@[simp] theorem State.mapCore_fresh (s : State) (l : Loc) (f : Core → Core) : (s.mapCore l f).fresh = s.fresh := rfl
@[simp] theorem State.mapCore_ops (s : State) (l : Loc) (f : Core → Core) : (s.mapCore l f).ops = s.ops := rfl
@[simp] theorem State.mapCore_watch (s : State) (l : Loc) (f : Core → Core) : (s.mapCore l f).watch = s.watch := rfl

/-! ### `mapCluster` -/

@[simp] theorem State.mapCluster_cores (s : State) (k : Nat) (f : Cluster → Cluster) : (s.mapCluster k f).cores = s.cores := rfl
@[simp] theorem State.mapCluster_dies (s : State) (k : Nat) (f : Cluster → Cluster) : (s.mapCluster k f).dies = s.dies := rfl
@[simp] theorem State.mapCluster_modules (s : State) (k : Nat) (f : Cluster → Cluster) : (s.mapCluster k f).modules = s.modules := rfl
@[simp] theorem State.mapCluster_mem (s : State) (k : Nat) (f : Cluster → Cluster) : (s.mapCluster k f).mem = s.mem := rfl
@[simp] theorem State.mapCluster_keys (s : State) (k : Nat) (f : Cluster → Cluster) : (s.mapCluster k f).keys = s.keys := rfl
@[simp] theorem State.mapCluster_errs (s : State) (k : Nat) (f : Cluster → Cluster) : (s.mapCluster k f).errs = s.errs := rfl
@[simp] theorem State.mapCluster_softs (s : State) (k : Nat) (f : Cluster → Cluster) : (s.mapCluster k f).softs = s.softs := rfl
@[simp] theorem State.mapCluster_tlbs (s : State) (k : Nat) (f : Cluster → Cluster) : (s.mapCluster k f).tlbs = s.tlbs := rfl
@[simp] theorem State.mapCluster_walks (s : State) (k : Nat) (f : Cluster → Cluster) : (s.mapCluster k f).walks = s.walks := rfl
@[simp] theorem State.mapCluster_domain (s : State) (k : Nat) (f : Cluster → Cluster) : (s.mapCluster k f).domain = s.domain := rfl
@[simp] theorem State.mapCluster_unreachable (s : State) (k : Nat) (f : Cluster → Cluster) : (s.mapCluster k f).unreachable = s.unreachable := rfl
@[simp] theorem State.mapCluster_cmds (s : State) (k : Nat) (f : Cluster → Cluster) : (s.mapCluster k f).cmds = s.cmds := rfl
@[simp] theorem State.mapCluster_reqs (s : State) (k : Nat) (f : Cluster → Cluster) : (s.mapCluster k f).reqs = s.reqs := rfl
@[simp] theorem State.mapCluster_msgs (s : State) (k : Nat) (f : Cluster → Cluster) : (s.mapCluster k f).msgs = s.msgs := rfl
@[simp] theorem State.mapCluster_invals (s : State) (k : Nat) (f : Cluster → Cluster) : (s.mapCluster k f).invals = s.invals := rfl
@[simp] theorem State.mapCluster_kept (s : State) (k : Nat) (f : Cluster → Cluster) : (s.mapCluster k f).kept = s.kept := rfl
@[simp] theorem State.mapCluster_released (s : State) (k : Nat) (f : Cluster → Cluster) : (s.mapCluster k f).released = s.released := rfl
@[simp] theorem State.mapCluster_teams (s : State) (k : Nat) (f : Cluster → Cluster) : (s.mapCluster k f).teams = s.teams := rfl
@[simp] theorem State.mapCluster_host (s : State) (k : Nat) (f : Cluster → Cluster) : (s.mapCluster k f).host = s.host := rfl
@[simp] theorem State.mapCluster_now (s : State) (k : Nat) (f : Cluster → Cluster) : (s.mapCluster k f).now = s.now := rfl
@[simp] theorem State.mapCluster_cur (s : State) (k : Nat) (f : Cluster → Cluster) : (s.mapCluster k f).cur = s.cur := rfl
@[simp] theorem State.mapCluster_focus (s : State) (k : Nat) (f : Cluster → Cluster) : (s.mapCluster k f).focus = s.focus := rfl
@[simp] theorem State.mapCluster_turns (s : State) (k : Nat) (f : Cluster → Cluster) : (s.mapCluster k f).turns = s.turns := rfl
@[simp] theorem State.mapCluster_pending (s : State) (k : Nat) (f : Cluster → Cluster) : (s.mapCluster k f).pending = s.pending := rfl
@[simp] theorem State.mapCluster_nextId (s : State) (k : Nat) (f : Cluster → Cluster) : (s.mapCluster k f).nextId = s.nextId := rfl
@[simp] theorem State.mapCluster_fresh (s : State) (k : Nat) (f : Cluster → Cluster) : (s.mapCluster k f).fresh = s.fresh := rfl
@[simp] theorem State.mapCluster_ops (s : State) (k : Nat) (f : Cluster → Cluster) : (s.mapCluster k f).ops = s.ops := rfl
@[simp] theorem State.mapCluster_watch (s : State) (k : Nat) (f : Cluster → Cluster) : (s.mapCluster k f).watch = s.watch := rfl

/-! ### `mapDie` -/

@[simp] theorem State.mapDie_cores (s : State) (k : Nat) (f : Die → Die) : (s.mapDie k f).cores = s.cores := rfl
@[simp] theorem State.mapDie_clusters (s : State) (k : Nat) (f : Die → Die) : (s.mapDie k f).clusters = s.clusters := rfl
@[simp] theorem State.mapDie_modules (s : State) (k : Nat) (f : Die → Die) : (s.mapDie k f).modules = s.modules := rfl
@[simp] theorem State.mapDie_mem (s : State) (k : Nat) (f : Die → Die) : (s.mapDie k f).mem = s.mem := rfl
@[simp] theorem State.mapDie_keys (s : State) (k : Nat) (f : Die → Die) : (s.mapDie k f).keys = s.keys := rfl
@[simp] theorem State.mapDie_errs (s : State) (k : Nat) (f : Die → Die) : (s.mapDie k f).errs = s.errs := rfl
@[simp] theorem State.mapDie_softs (s : State) (k : Nat) (f : Die → Die) : (s.mapDie k f).softs = s.softs := rfl
@[simp] theorem State.mapDie_tlbs (s : State) (k : Nat) (f : Die → Die) : (s.mapDie k f).tlbs = s.tlbs := rfl
@[simp] theorem State.mapDie_walks (s : State) (k : Nat) (f : Die → Die) : (s.mapDie k f).walks = s.walks := rfl
@[simp] theorem State.mapDie_domain (s : State) (k : Nat) (f : Die → Die) : (s.mapDie k f).domain = s.domain := rfl
@[simp] theorem State.mapDie_unreachable (s : State) (k : Nat) (f : Die → Die) : (s.mapDie k f).unreachable = s.unreachable := rfl
@[simp] theorem State.mapDie_cmds (s : State) (k : Nat) (f : Die → Die) : (s.mapDie k f).cmds = s.cmds := rfl
@[simp] theorem State.mapDie_reqs (s : State) (k : Nat) (f : Die → Die) : (s.mapDie k f).reqs = s.reqs := rfl
@[simp] theorem State.mapDie_msgs (s : State) (k : Nat) (f : Die → Die) : (s.mapDie k f).msgs = s.msgs := rfl
@[simp] theorem State.mapDie_invals (s : State) (k : Nat) (f : Die → Die) : (s.mapDie k f).invals = s.invals := rfl
@[simp] theorem State.mapDie_kept (s : State) (k : Nat) (f : Die → Die) : (s.mapDie k f).kept = s.kept := rfl
@[simp] theorem State.mapDie_released (s : State) (k : Nat) (f : Die → Die) : (s.mapDie k f).released = s.released := rfl
@[simp] theorem State.mapDie_teams (s : State) (k : Nat) (f : Die → Die) : (s.mapDie k f).teams = s.teams := rfl
@[simp] theorem State.mapDie_host (s : State) (k : Nat) (f : Die → Die) : (s.mapDie k f).host = s.host := rfl
@[simp] theorem State.mapDie_now (s : State) (k : Nat) (f : Die → Die) : (s.mapDie k f).now = s.now := rfl
@[simp] theorem State.mapDie_cur (s : State) (k : Nat) (f : Die → Die) : (s.mapDie k f).cur = s.cur := rfl
@[simp] theorem State.mapDie_focus (s : State) (k : Nat) (f : Die → Die) : (s.mapDie k f).focus = s.focus := rfl
@[simp] theorem State.mapDie_turns (s : State) (k : Nat) (f : Die → Die) : (s.mapDie k f).turns = s.turns := rfl
@[simp] theorem State.mapDie_pending (s : State) (k : Nat) (f : Die → Die) : (s.mapDie k f).pending = s.pending := rfl
@[simp] theorem State.mapDie_nextId (s : State) (k : Nat) (f : Die → Die) : (s.mapDie k f).nextId = s.nextId := rfl
@[simp] theorem State.mapDie_fresh (s : State) (k : Nat) (f : Die → Die) : (s.mapDie k f).fresh = s.fresh := rfl
@[simp] theorem State.mapDie_ops (s : State) (k : Nat) (f : Die → Die) : (s.mapDie k f).ops = s.ops := rfl
@[simp] theorem State.mapDie_watch (s : State) (k : Nat) (f : Die → Die) : (s.mapDie k f).watch = s.watch := rfl

/-! ### `mapModule` -/

@[simp] theorem State.mapModule_cores (s : State) (k : Nat) (f : Module → Module) : (s.mapModule k f).cores = s.cores := rfl
@[simp] theorem State.mapModule_clusters (s : State) (k : Nat) (f : Module → Module) : (s.mapModule k f).clusters = s.clusters := rfl
@[simp] theorem State.mapModule_dies (s : State) (k : Nat) (f : Module → Module) : (s.mapModule k f).dies = s.dies := rfl
@[simp] theorem State.mapModule_mem (s : State) (k : Nat) (f : Module → Module) : (s.mapModule k f).mem = s.mem := rfl
@[simp] theorem State.mapModule_keys (s : State) (k : Nat) (f : Module → Module) : (s.mapModule k f).keys = s.keys := rfl
@[simp] theorem State.mapModule_errs (s : State) (k : Nat) (f : Module → Module) : (s.mapModule k f).errs = s.errs := rfl
@[simp] theorem State.mapModule_softs (s : State) (k : Nat) (f : Module → Module) : (s.mapModule k f).softs = s.softs := rfl
@[simp] theorem State.mapModule_tlbs (s : State) (k : Nat) (f : Module → Module) : (s.mapModule k f).tlbs = s.tlbs := rfl
@[simp] theorem State.mapModule_walks (s : State) (k : Nat) (f : Module → Module) : (s.mapModule k f).walks = s.walks := rfl
@[simp] theorem State.mapModule_domain (s : State) (k : Nat) (f : Module → Module) : (s.mapModule k f).domain = s.domain := rfl
@[simp] theorem State.mapModule_unreachable (s : State) (k : Nat) (f : Module → Module) : (s.mapModule k f).unreachable = s.unreachable := rfl
@[simp] theorem State.mapModule_cmds (s : State) (k : Nat) (f : Module → Module) : (s.mapModule k f).cmds = s.cmds := rfl
@[simp] theorem State.mapModule_reqs (s : State) (k : Nat) (f : Module → Module) : (s.mapModule k f).reqs = s.reqs := rfl
@[simp] theorem State.mapModule_msgs (s : State) (k : Nat) (f : Module → Module) : (s.mapModule k f).msgs = s.msgs := rfl
@[simp] theorem State.mapModule_invals (s : State) (k : Nat) (f : Module → Module) : (s.mapModule k f).invals = s.invals := rfl
@[simp] theorem State.mapModule_kept (s : State) (k : Nat) (f : Module → Module) : (s.mapModule k f).kept = s.kept := rfl
@[simp] theorem State.mapModule_released (s : State) (k : Nat) (f : Module → Module) : (s.mapModule k f).released = s.released := rfl
@[simp] theorem State.mapModule_teams (s : State) (k : Nat) (f : Module → Module) : (s.mapModule k f).teams = s.teams := rfl
@[simp] theorem State.mapModule_host (s : State) (k : Nat) (f : Module → Module) : (s.mapModule k f).host = s.host := rfl
@[simp] theorem State.mapModule_now (s : State) (k : Nat) (f : Module → Module) : (s.mapModule k f).now = s.now := rfl
@[simp] theorem State.mapModule_cur (s : State) (k : Nat) (f : Module → Module) : (s.mapModule k f).cur = s.cur := rfl
@[simp] theorem State.mapModule_focus (s : State) (k : Nat) (f : Module → Module) : (s.mapModule k f).focus = s.focus := rfl
@[simp] theorem State.mapModule_turns (s : State) (k : Nat) (f : Module → Module) : (s.mapModule k f).turns = s.turns := rfl
@[simp] theorem State.mapModule_pending (s : State) (k : Nat) (f : Module → Module) : (s.mapModule k f).pending = s.pending := rfl
@[simp] theorem State.mapModule_nextId (s : State) (k : Nat) (f : Module → Module) : (s.mapModule k f).nextId = s.nextId := rfl
@[simp] theorem State.mapModule_fresh (s : State) (k : Nat) (f : Module → Module) : (s.mapModule k f).fresh = s.fresh := rfl
@[simp] theorem State.mapModule_ops (s : State) (k : Nat) (f : Module → Module) : (s.mapModule k f).ops = s.ops := rfl
@[simp] theorem State.mapModule_watch (s : State) (k : Nat) (f : Module → Module) : (s.mapModule k f).watch = s.watch := rfl

/-! ### `setThreadAt` -/

@[simp] theorem State.setThreadAt_clusters (s : State) (l : Loc) (k : Nat) (t : Thread) : (s.setThreadAt l k t).clusters = s.clusters := rfl
@[simp] theorem State.setThreadAt_dies (s : State) (l : Loc) (k : Nat) (t : Thread) : (s.setThreadAt l k t).dies = s.dies := rfl
@[simp] theorem State.setThreadAt_modules (s : State) (l : Loc) (k : Nat) (t : Thread) : (s.setThreadAt l k t).modules = s.modules := rfl
@[simp] theorem State.setThreadAt_mem (s : State) (l : Loc) (k : Nat) (t : Thread) : (s.setThreadAt l k t).mem = s.mem := rfl
@[simp] theorem State.setThreadAt_keys (s : State) (l : Loc) (k : Nat) (t : Thread) : (s.setThreadAt l k t).keys = s.keys := rfl
@[simp] theorem State.setThreadAt_errs (s : State) (l : Loc) (k : Nat) (t : Thread) : (s.setThreadAt l k t).errs = s.errs := rfl
@[simp] theorem State.setThreadAt_softs (s : State) (l : Loc) (k : Nat) (t : Thread) : (s.setThreadAt l k t).softs = s.softs := rfl
@[simp] theorem State.setThreadAt_tlbs (s : State) (l : Loc) (k : Nat) (t : Thread) : (s.setThreadAt l k t).tlbs = s.tlbs := rfl
@[simp] theorem State.setThreadAt_walks (s : State) (l : Loc) (k : Nat) (t : Thread) : (s.setThreadAt l k t).walks = s.walks := rfl
@[simp] theorem State.setThreadAt_domain (s : State) (l : Loc) (k : Nat) (t : Thread) : (s.setThreadAt l k t).domain = s.domain := rfl
@[simp] theorem State.setThreadAt_unreachable (s : State) (l : Loc) (k : Nat) (t : Thread) : (s.setThreadAt l k t).unreachable = s.unreachable := rfl
@[simp] theorem State.setThreadAt_cmds (s : State) (l : Loc) (k : Nat) (t : Thread) : (s.setThreadAt l k t).cmds = s.cmds := rfl
@[simp] theorem State.setThreadAt_reqs (s : State) (l : Loc) (k : Nat) (t : Thread) : (s.setThreadAt l k t).reqs = s.reqs := rfl
@[simp] theorem State.setThreadAt_msgs (s : State) (l : Loc) (k : Nat) (t : Thread) : (s.setThreadAt l k t).msgs = s.msgs := rfl
@[simp] theorem State.setThreadAt_invals (s : State) (l : Loc) (k : Nat) (t : Thread) : (s.setThreadAt l k t).invals = s.invals := rfl
@[simp] theorem State.setThreadAt_kept (s : State) (l : Loc) (k : Nat) (t : Thread) : (s.setThreadAt l k t).kept = s.kept := rfl
@[simp] theorem State.setThreadAt_released (s : State) (l : Loc) (k : Nat) (t : Thread) : (s.setThreadAt l k t).released = s.released := rfl
@[simp] theorem State.setThreadAt_teams (s : State) (l : Loc) (k : Nat) (t : Thread) : (s.setThreadAt l k t).teams = s.teams := rfl
@[simp] theorem State.setThreadAt_host (s : State) (l : Loc) (k : Nat) (t : Thread) : (s.setThreadAt l k t).host = s.host := rfl
@[simp] theorem State.setThreadAt_now (s : State) (l : Loc) (k : Nat) (t : Thread) : (s.setThreadAt l k t).now = s.now := rfl
@[simp] theorem State.setThreadAt_cur (s : State) (l : Loc) (k : Nat) (t : Thread) : (s.setThreadAt l k t).cur = s.cur := rfl
@[simp] theorem State.setThreadAt_focus (s : State) (l : Loc) (k : Nat) (t : Thread) : (s.setThreadAt l k t).focus = s.focus := rfl
@[simp] theorem State.setThreadAt_turns (s : State) (l : Loc) (k : Nat) (t : Thread) : (s.setThreadAt l k t).turns = s.turns := rfl
@[simp] theorem State.setThreadAt_pending (s : State) (l : Loc) (k : Nat) (t : Thread) : (s.setThreadAt l k t).pending = s.pending := rfl
@[simp] theorem State.setThreadAt_nextId (s : State) (l : Loc) (k : Nat) (t : Thread) : (s.setThreadAt l k t).nextId = s.nextId := rfl
@[simp] theorem State.setThreadAt_fresh (s : State) (l : Loc) (k : Nat) (t : Thread) : (s.setThreadAt l k t).fresh = s.fresh := rfl
@[simp] theorem State.setThreadAt_ops (s : State) (l : Loc) (k : Nat) (t : Thread) : (s.setThreadAt l k t).ops = s.ops := rfl
@[simp] theorem State.setThreadAt_watch (s : State) (l : Loc) (k : Nat) (t : Thread) : (s.setThreadAt l k t).watch = s.watch := rfl

/-! ### `mapThreadAt` -/

@[simp] theorem State.mapThreadAt_clusters (s : State) (l : Loc) (k : Nat) (f : Thread → Thread) : (s.mapThreadAt l k f).clusters = s.clusters := rfl
@[simp] theorem State.mapThreadAt_dies (s : State) (l : Loc) (k : Nat) (f : Thread → Thread) : (s.mapThreadAt l k f).dies = s.dies := rfl
@[simp] theorem State.mapThreadAt_modules (s : State) (l : Loc) (k : Nat) (f : Thread → Thread) : (s.mapThreadAt l k f).modules = s.modules := rfl
@[simp] theorem State.mapThreadAt_mem (s : State) (l : Loc) (k : Nat) (f : Thread → Thread) : (s.mapThreadAt l k f).mem = s.mem := rfl
@[simp] theorem State.mapThreadAt_keys (s : State) (l : Loc) (k : Nat) (f : Thread → Thread) : (s.mapThreadAt l k f).keys = s.keys := rfl
@[simp] theorem State.mapThreadAt_errs (s : State) (l : Loc) (k : Nat) (f : Thread → Thread) : (s.mapThreadAt l k f).errs = s.errs := rfl
@[simp] theorem State.mapThreadAt_softs (s : State) (l : Loc) (k : Nat) (f : Thread → Thread) : (s.mapThreadAt l k f).softs = s.softs := rfl
@[simp] theorem State.mapThreadAt_tlbs (s : State) (l : Loc) (k : Nat) (f : Thread → Thread) : (s.mapThreadAt l k f).tlbs = s.tlbs := rfl
@[simp] theorem State.mapThreadAt_walks (s : State) (l : Loc) (k : Nat) (f : Thread → Thread) : (s.mapThreadAt l k f).walks = s.walks := rfl
@[simp] theorem State.mapThreadAt_domain (s : State) (l : Loc) (k : Nat) (f : Thread → Thread) : (s.mapThreadAt l k f).domain = s.domain := rfl
@[simp] theorem State.mapThreadAt_unreachable (s : State) (l : Loc) (k : Nat) (f : Thread → Thread) : (s.mapThreadAt l k f).unreachable = s.unreachable := rfl
@[simp] theorem State.mapThreadAt_cmds (s : State) (l : Loc) (k : Nat) (f : Thread → Thread) : (s.mapThreadAt l k f).cmds = s.cmds := rfl
@[simp] theorem State.mapThreadAt_reqs (s : State) (l : Loc) (k : Nat) (f : Thread → Thread) : (s.mapThreadAt l k f).reqs = s.reqs := rfl
@[simp] theorem State.mapThreadAt_msgs (s : State) (l : Loc) (k : Nat) (f : Thread → Thread) : (s.mapThreadAt l k f).msgs = s.msgs := rfl
@[simp] theorem State.mapThreadAt_invals (s : State) (l : Loc) (k : Nat) (f : Thread → Thread) : (s.mapThreadAt l k f).invals = s.invals := rfl
@[simp] theorem State.mapThreadAt_kept (s : State) (l : Loc) (k : Nat) (f : Thread → Thread) : (s.mapThreadAt l k f).kept = s.kept := rfl
@[simp] theorem State.mapThreadAt_released (s : State) (l : Loc) (k : Nat) (f : Thread → Thread) : (s.mapThreadAt l k f).released = s.released := rfl
@[simp] theorem State.mapThreadAt_teams (s : State) (l : Loc) (k : Nat) (f : Thread → Thread) : (s.mapThreadAt l k f).teams = s.teams := rfl
@[simp] theorem State.mapThreadAt_host (s : State) (l : Loc) (k : Nat) (f : Thread → Thread) : (s.mapThreadAt l k f).host = s.host := rfl
@[simp] theorem State.mapThreadAt_now (s : State) (l : Loc) (k : Nat) (f : Thread → Thread) : (s.mapThreadAt l k f).now = s.now := rfl
@[simp] theorem State.mapThreadAt_cur (s : State) (l : Loc) (k : Nat) (f : Thread → Thread) : (s.mapThreadAt l k f).cur = s.cur := rfl
@[simp] theorem State.mapThreadAt_focus (s : State) (l : Loc) (k : Nat) (f : Thread → Thread) : (s.mapThreadAt l k f).focus = s.focus := rfl
@[simp] theorem State.mapThreadAt_turns (s : State) (l : Loc) (k : Nat) (f : Thread → Thread) : (s.mapThreadAt l k f).turns = s.turns := rfl
@[simp] theorem State.mapThreadAt_pending (s : State) (l : Loc) (k : Nat) (f : Thread → Thread) : (s.mapThreadAt l k f).pending = s.pending := rfl
@[simp] theorem State.mapThreadAt_nextId (s : State) (l : Loc) (k : Nat) (f : Thread → Thread) : (s.mapThreadAt l k f).nextId = s.nextId := rfl
@[simp] theorem State.mapThreadAt_fresh (s : State) (l : Loc) (k : Nat) (f : Thread → Thread) : (s.mapThreadAt l k f).fresh = s.fresh := rfl
@[simp] theorem State.mapThreadAt_ops (s : State) (l : Loc) (k : Nat) (f : Thread → Thread) : (s.mapThreadAt l k f).ops = s.ops := rfl
@[simp] theorem State.mapThreadAt_watch (s : State) (l : Loc) (k : Nat) (f : Thread → Thread) : (s.mapThreadAt l k f).watch = s.watch := rfl

/-! ### `count` -/

@[simp] theorem State.count_cores (s : State) (m off n : Nat) : (s.count m off n).cores = s.cores := rfl
@[simp] theorem State.count_clusters (s : State) (m off n : Nat) : (s.count m off n).clusters = s.clusters := rfl
@[simp] theorem State.count_dies (s : State) (m off n : Nat) : (s.count m off n).dies = s.dies := rfl
@[simp] theorem State.count_mem (s : State) (m off n : Nat) : (s.count m off n).mem = s.mem := rfl
@[simp] theorem State.count_keys (s : State) (m off n : Nat) : (s.count m off n).keys = s.keys := rfl
@[simp] theorem State.count_errs (s : State) (m off n : Nat) : (s.count m off n).errs = s.errs := rfl
@[simp] theorem State.count_softs (s : State) (m off n : Nat) : (s.count m off n).softs = s.softs := rfl
@[simp] theorem State.count_tlbs (s : State) (m off n : Nat) : (s.count m off n).tlbs = s.tlbs := rfl
@[simp] theorem State.count_walks (s : State) (m off n : Nat) : (s.count m off n).walks = s.walks := rfl
@[simp] theorem State.count_domain (s : State) (m off n : Nat) : (s.count m off n).domain = s.domain := rfl
@[simp] theorem State.count_unreachable (s : State) (m off n : Nat) : (s.count m off n).unreachable = s.unreachable := rfl
@[simp] theorem State.count_cmds (s : State) (m off n : Nat) : (s.count m off n).cmds = s.cmds := rfl
@[simp] theorem State.count_reqs (s : State) (m off n : Nat) : (s.count m off n).reqs = s.reqs := rfl
@[simp] theorem State.count_msgs (s : State) (m off n : Nat) : (s.count m off n).msgs = s.msgs := rfl
@[simp] theorem State.count_invals (s : State) (m off n : Nat) : (s.count m off n).invals = s.invals := rfl
@[simp] theorem State.count_kept (s : State) (m off n : Nat) : (s.count m off n).kept = s.kept := rfl
@[simp] theorem State.count_released (s : State) (m off n : Nat) : (s.count m off n).released = s.released := rfl
@[simp] theorem State.count_teams (s : State) (m off n : Nat) : (s.count m off n).teams = s.teams := rfl
@[simp] theorem State.count_host (s : State) (m off n : Nat) : (s.count m off n).host = s.host := rfl
@[simp] theorem State.count_now (s : State) (m off n : Nat) : (s.count m off n).now = s.now := rfl
@[simp] theorem State.count_cur (s : State) (m off n : Nat) : (s.count m off n).cur = s.cur := rfl
@[simp] theorem State.count_focus (s : State) (m off n : Nat) : (s.count m off n).focus = s.focus := rfl
@[simp] theorem State.count_turns (s : State) (m off n : Nat) : (s.count m off n).turns = s.turns := rfl
@[simp] theorem State.count_pending (s : State) (m off n : Nat) : (s.count m off n).pending = s.pending := rfl
@[simp] theorem State.count_nextId (s : State) (m off n : Nat) : (s.count m off n).nextId = s.nextId := rfl
@[simp] theorem State.count_fresh (s : State) (m off n : Nat) : (s.count m off n).fresh = s.fresh := rfl
@[simp] theorem State.count_ops (s : State) (m off n : Nat) : (s.count m off n).ops = s.ops := rfl
@[simp] theorem State.count_watch (s : State) (m off n : Nat) : (s.count m off n).watch = s.watch := rfl

/-! ### `countDie` -/

@[simp] theorem State.countDie_cores (s : State) (d e n : Nat) : (s.countDie d e n).cores = s.cores := rfl
@[simp] theorem State.countDie_clusters (s : State) (d e n : Nat) : (s.countDie d e n).clusters = s.clusters := rfl
@[simp] theorem State.countDie_dies (s : State) (d e n : Nat) : (s.countDie d e n).dies = s.dies := rfl
@[simp] theorem State.countDie_mem (s : State) (d e n : Nat) : (s.countDie d e n).mem = s.mem := rfl
@[simp] theorem State.countDie_keys (s : State) (d e n : Nat) : (s.countDie d e n).keys = s.keys := rfl
@[simp] theorem State.countDie_errs (s : State) (d e n : Nat) : (s.countDie d e n).errs = s.errs := rfl
@[simp] theorem State.countDie_softs (s : State) (d e n : Nat) : (s.countDie d e n).softs = s.softs := rfl
@[simp] theorem State.countDie_tlbs (s : State) (d e n : Nat) : (s.countDie d e n).tlbs = s.tlbs := rfl
@[simp] theorem State.countDie_walks (s : State) (d e n : Nat) : (s.countDie d e n).walks = s.walks := rfl
@[simp] theorem State.countDie_domain (s : State) (d e n : Nat) : (s.countDie d e n).domain = s.domain := rfl
@[simp] theorem State.countDie_unreachable (s : State) (d e n : Nat) : (s.countDie d e n).unreachable = s.unreachable := rfl
@[simp] theorem State.countDie_cmds (s : State) (d e n : Nat) : (s.countDie d e n).cmds = s.cmds := rfl
@[simp] theorem State.countDie_reqs (s : State) (d e n : Nat) : (s.countDie d e n).reqs = s.reqs := rfl
@[simp] theorem State.countDie_msgs (s : State) (d e n : Nat) : (s.countDie d e n).msgs = s.msgs := rfl
@[simp] theorem State.countDie_invals (s : State) (d e n : Nat) : (s.countDie d e n).invals = s.invals := rfl
@[simp] theorem State.countDie_kept (s : State) (d e n : Nat) : (s.countDie d e n).kept = s.kept := rfl
@[simp] theorem State.countDie_released (s : State) (d e n : Nat) : (s.countDie d e n).released = s.released := rfl
@[simp] theorem State.countDie_teams (s : State) (d e n : Nat) : (s.countDie d e n).teams = s.teams := rfl
@[simp] theorem State.countDie_host (s : State) (d e n : Nat) : (s.countDie d e n).host = s.host := rfl
@[simp] theorem State.countDie_now (s : State) (d e n : Nat) : (s.countDie d e n).now = s.now := rfl
@[simp] theorem State.countDie_cur (s : State) (d e n : Nat) : (s.countDie d e n).cur = s.cur := rfl
@[simp] theorem State.countDie_focus (s : State) (d e n : Nat) : (s.countDie d e n).focus = s.focus := rfl
@[simp] theorem State.countDie_turns (s : State) (d e n : Nat) : (s.countDie d e n).turns = s.turns := rfl
@[simp] theorem State.countDie_pending (s : State) (d e n : Nat) : (s.countDie d e n).pending = s.pending := rfl
@[simp] theorem State.countDie_nextId (s : State) (d e n : Nat) : (s.countDie d e n).nextId = s.nextId := rfl
@[simp] theorem State.countDie_fresh (s : State) (d e n : Nat) : (s.countDie d e n).fresh = s.fresh := rfl
@[simp] theorem State.countDie_ops (s : State) (d e n : Nat) : (s.countDie d e n).ops = s.ops := rfl
@[simp] theorem State.countDie_watch (s : State) (d e n : Nat) : (s.countDie d e n).watch = s.watch := rfl

/-! ### `push` -/

@[simp] theorem State.push_cores (s : State) (e : Event) : (s.push e).cores = s.cores := rfl
@[simp] theorem State.push_clusters (s : State) (e : Event) : (s.push e).clusters = s.clusters := rfl
@[simp] theorem State.push_dies (s : State) (e : Event) : (s.push e).dies = s.dies := rfl
@[simp] theorem State.push_modules (s : State) (e : Event) : (s.push e).modules = s.modules := rfl
@[simp] theorem State.push_mem (s : State) (e : Event) : (s.push e).mem = s.mem := rfl
@[simp] theorem State.push_keys (s : State) (e : Event) : (s.push e).keys = s.keys := rfl
@[simp] theorem State.push_errs (s : State) (e : Event) : (s.push e).errs = s.errs := rfl
@[simp] theorem State.push_softs (s : State) (e : Event) : (s.push e).softs = s.softs := rfl
@[simp] theorem State.push_tlbs (s : State) (e : Event) : (s.push e).tlbs = s.tlbs := rfl
@[simp] theorem State.push_walks (s : State) (e : Event) : (s.push e).walks = s.walks := rfl
@[simp] theorem State.push_domain (s : State) (e : Event) : (s.push e).domain = s.domain := rfl
@[simp] theorem State.push_unreachable (s : State) (e : Event) : (s.push e).unreachable = s.unreachable := rfl
@[simp] theorem State.push_cmds (s : State) (e : Event) : (s.push e).cmds = s.cmds := rfl
@[simp] theorem State.push_reqs (s : State) (e : Event) : (s.push e).reqs = s.reqs := rfl
@[simp] theorem State.push_msgs (s : State) (e : Event) : (s.push e).msgs = s.msgs := rfl
@[simp] theorem State.push_invals (s : State) (e : Event) : (s.push e).invals = s.invals := rfl
@[simp] theorem State.push_kept (s : State) (e : Event) : (s.push e).kept = s.kept := rfl
@[simp] theorem State.push_released (s : State) (e : Event) : (s.push e).released = s.released := rfl
@[simp] theorem State.push_teams (s : State) (e : Event) : (s.push e).teams = s.teams := rfl
@[simp] theorem State.push_host (s : State) (e : Event) : (s.push e).host = s.host := rfl
@[simp] theorem State.push_now (s : State) (e : Event) : (s.push e).now = s.now := rfl
@[simp] theorem State.push_cur (s : State) (e : Event) : (s.push e).cur = s.cur := rfl
@[simp] theorem State.push_focus (s : State) (e : Event) : (s.push e).focus = s.focus := rfl
@[simp] theorem State.push_turns (s : State) (e : Event) : (s.push e).turns = s.turns := rfl
@[simp] theorem State.push_nextId (s : State) (e : Event) : (s.push e).nextId = s.nextId := rfl
@[simp] theorem State.push_fresh (s : State) (e : Event) : (s.push e).fresh = s.fresh := rfl
@[simp] theorem State.push_ops (s : State) (e : Event) : (s.push e).ops = s.ops := rfl
@[simp] theorem State.push_watch (s : State) (e : Event) : (s.push e).watch = s.watch := rfl

/-! ### `mapCmd` -/

@[simp] theorem State.mapCmd_cores (s : State) (id : Nat) (f : Cmd → Cmd) : (s.mapCmd id f).cores = s.cores := rfl
@[simp] theorem State.mapCmd_clusters (s : State) (id : Nat) (f : Cmd → Cmd) : (s.mapCmd id f).clusters = s.clusters := rfl
@[simp] theorem State.mapCmd_dies (s : State) (id : Nat) (f : Cmd → Cmd) : (s.mapCmd id f).dies = s.dies := rfl
@[simp] theorem State.mapCmd_modules (s : State) (id : Nat) (f : Cmd → Cmd) : (s.mapCmd id f).modules = s.modules := rfl
@[simp] theorem State.mapCmd_mem (s : State) (id : Nat) (f : Cmd → Cmd) : (s.mapCmd id f).mem = s.mem := rfl
@[simp] theorem State.mapCmd_keys (s : State) (id : Nat) (f : Cmd → Cmd) : (s.mapCmd id f).keys = s.keys := rfl
@[simp] theorem State.mapCmd_errs (s : State) (id : Nat) (f : Cmd → Cmd) : (s.mapCmd id f).errs = s.errs := rfl
@[simp] theorem State.mapCmd_softs (s : State) (id : Nat) (f : Cmd → Cmd) : (s.mapCmd id f).softs = s.softs := rfl
@[simp] theorem State.mapCmd_tlbs (s : State) (id : Nat) (f : Cmd → Cmd) : (s.mapCmd id f).tlbs = s.tlbs := rfl
@[simp] theorem State.mapCmd_walks (s : State) (id : Nat) (f : Cmd → Cmd) : (s.mapCmd id f).walks = s.walks := rfl
@[simp] theorem State.mapCmd_domain (s : State) (id : Nat) (f : Cmd → Cmd) : (s.mapCmd id f).domain = s.domain := rfl
@[simp] theorem State.mapCmd_unreachable (s : State) (id : Nat) (f : Cmd → Cmd) : (s.mapCmd id f).unreachable = s.unreachable := rfl
@[simp] theorem State.mapCmd_reqs (s : State) (id : Nat) (f : Cmd → Cmd) : (s.mapCmd id f).reqs = s.reqs := rfl
@[simp] theorem State.mapCmd_msgs (s : State) (id : Nat) (f : Cmd → Cmd) : (s.mapCmd id f).msgs = s.msgs := rfl
@[simp] theorem State.mapCmd_invals (s : State) (id : Nat) (f : Cmd → Cmd) : (s.mapCmd id f).invals = s.invals := rfl
@[simp] theorem State.mapCmd_kept (s : State) (id : Nat) (f : Cmd → Cmd) : (s.mapCmd id f).kept = s.kept := rfl
@[simp] theorem State.mapCmd_released (s : State) (id : Nat) (f : Cmd → Cmd) : (s.mapCmd id f).released = s.released := rfl
@[simp] theorem State.mapCmd_teams (s : State) (id : Nat) (f : Cmd → Cmd) : (s.mapCmd id f).teams = s.teams := rfl
@[simp] theorem State.mapCmd_host (s : State) (id : Nat) (f : Cmd → Cmd) : (s.mapCmd id f).host = s.host := rfl
@[simp] theorem State.mapCmd_now (s : State) (id : Nat) (f : Cmd → Cmd) : (s.mapCmd id f).now = s.now := rfl
@[simp] theorem State.mapCmd_cur (s : State) (id : Nat) (f : Cmd → Cmd) : (s.mapCmd id f).cur = s.cur := rfl
@[simp] theorem State.mapCmd_focus (s : State) (id : Nat) (f : Cmd → Cmd) : (s.mapCmd id f).focus = s.focus := rfl
@[simp] theorem State.mapCmd_turns (s : State) (id : Nat) (f : Cmd → Cmd) : (s.mapCmd id f).turns = s.turns := rfl
@[simp] theorem State.mapCmd_pending (s : State) (id : Nat) (f : Cmd → Cmd) : (s.mapCmd id f).pending = s.pending := rfl
@[simp] theorem State.mapCmd_nextId (s : State) (id : Nat) (f : Cmd → Cmd) : (s.mapCmd id f).nextId = s.nextId := rfl
@[simp] theorem State.mapCmd_fresh (s : State) (id : Nat) (f : Cmd → Cmd) : (s.mapCmd id f).fresh = s.fresh := rfl
@[simp] theorem State.mapCmd_ops (s : State) (id : Nat) (f : Cmd → Cmd) : (s.mapCmd id f).ops = s.ops := rfl
@[simp] theorem State.mapCmd_watch (s : State) (id : Nat) (f : Cmd → Cmd) : (s.mapCmd id f).watch = s.watch := rfl

/-! ### `mapReq` -/

@[simp] theorem State.mapReq_cores (s : State) (id : Nat) (f : Req → Req) : (s.mapReq id f).cores = s.cores := rfl
@[simp] theorem State.mapReq_clusters (s : State) (id : Nat) (f : Req → Req) : (s.mapReq id f).clusters = s.clusters := rfl
@[simp] theorem State.mapReq_dies (s : State) (id : Nat) (f : Req → Req) : (s.mapReq id f).dies = s.dies := rfl
@[simp] theorem State.mapReq_modules (s : State) (id : Nat) (f : Req → Req) : (s.mapReq id f).modules = s.modules := rfl
@[simp] theorem State.mapReq_mem (s : State) (id : Nat) (f : Req → Req) : (s.mapReq id f).mem = s.mem := rfl
@[simp] theorem State.mapReq_keys (s : State) (id : Nat) (f : Req → Req) : (s.mapReq id f).keys = s.keys := rfl
@[simp] theorem State.mapReq_errs (s : State) (id : Nat) (f : Req → Req) : (s.mapReq id f).errs = s.errs := rfl
@[simp] theorem State.mapReq_softs (s : State) (id : Nat) (f : Req → Req) : (s.mapReq id f).softs = s.softs := rfl
@[simp] theorem State.mapReq_tlbs (s : State) (id : Nat) (f : Req → Req) : (s.mapReq id f).tlbs = s.tlbs := rfl
@[simp] theorem State.mapReq_walks (s : State) (id : Nat) (f : Req → Req) : (s.mapReq id f).walks = s.walks := rfl
@[simp] theorem State.mapReq_domain (s : State) (id : Nat) (f : Req → Req) : (s.mapReq id f).domain = s.domain := rfl
@[simp] theorem State.mapReq_unreachable (s : State) (id : Nat) (f : Req → Req) : (s.mapReq id f).unreachable = s.unreachable := rfl
@[simp] theorem State.mapReq_cmds (s : State) (id : Nat) (f : Req → Req) : (s.mapReq id f).cmds = s.cmds := rfl
@[simp] theorem State.mapReq_msgs (s : State) (id : Nat) (f : Req → Req) : (s.mapReq id f).msgs = s.msgs := rfl
@[simp] theorem State.mapReq_invals (s : State) (id : Nat) (f : Req → Req) : (s.mapReq id f).invals = s.invals := rfl
@[simp] theorem State.mapReq_kept (s : State) (id : Nat) (f : Req → Req) : (s.mapReq id f).kept = s.kept := rfl
@[simp] theorem State.mapReq_released (s : State) (id : Nat) (f : Req → Req) : (s.mapReq id f).released = s.released := rfl
@[simp] theorem State.mapReq_teams (s : State) (id : Nat) (f : Req → Req) : (s.mapReq id f).teams = s.teams := rfl
@[simp] theorem State.mapReq_host (s : State) (id : Nat) (f : Req → Req) : (s.mapReq id f).host = s.host := rfl
@[simp] theorem State.mapReq_now (s : State) (id : Nat) (f : Req → Req) : (s.mapReq id f).now = s.now := rfl
@[simp] theorem State.mapReq_cur (s : State) (id : Nat) (f : Req → Req) : (s.mapReq id f).cur = s.cur := rfl
@[simp] theorem State.mapReq_focus (s : State) (id : Nat) (f : Req → Req) : (s.mapReq id f).focus = s.focus := rfl
@[simp] theorem State.mapReq_turns (s : State) (id : Nat) (f : Req → Req) : (s.mapReq id f).turns = s.turns := rfl
@[simp] theorem State.mapReq_pending (s : State) (id : Nat) (f : Req → Req) : (s.mapReq id f).pending = s.pending := rfl
@[simp] theorem State.mapReq_nextId (s : State) (id : Nat) (f : Req → Req) : (s.mapReq id f).nextId = s.nextId := rfl
@[simp] theorem State.mapReq_fresh (s : State) (id : Nat) (f : Req → Req) : (s.mapReq id f).fresh = s.fresh := rfl
@[simp] theorem State.mapReq_ops (s : State) (id : Nat) (f : Req → Req) : (s.mapReq id f).ops = s.ops := rfl
@[simp] theorem State.mapReq_watch (s : State) (id : Nat) (f : Req → Req) : (s.mapReq id f).watch = s.watch := rfl

/-! ### `mapMsg` -/

@[simp] theorem State.mapMsg_cores (s : State) (id : Nat) (f : Msg → Msg) : (s.mapMsg id f).cores = s.cores := rfl
@[simp] theorem State.mapMsg_clusters (s : State) (id : Nat) (f : Msg → Msg) : (s.mapMsg id f).clusters = s.clusters := rfl
@[simp] theorem State.mapMsg_dies (s : State) (id : Nat) (f : Msg → Msg) : (s.mapMsg id f).dies = s.dies := rfl
@[simp] theorem State.mapMsg_modules (s : State) (id : Nat) (f : Msg → Msg) : (s.mapMsg id f).modules = s.modules := rfl
@[simp] theorem State.mapMsg_mem (s : State) (id : Nat) (f : Msg → Msg) : (s.mapMsg id f).mem = s.mem := rfl
@[simp] theorem State.mapMsg_keys (s : State) (id : Nat) (f : Msg → Msg) : (s.mapMsg id f).keys = s.keys := rfl
@[simp] theorem State.mapMsg_errs (s : State) (id : Nat) (f : Msg → Msg) : (s.mapMsg id f).errs = s.errs := rfl
@[simp] theorem State.mapMsg_softs (s : State) (id : Nat) (f : Msg → Msg) : (s.mapMsg id f).softs = s.softs := rfl
@[simp] theorem State.mapMsg_tlbs (s : State) (id : Nat) (f : Msg → Msg) : (s.mapMsg id f).tlbs = s.tlbs := rfl
@[simp] theorem State.mapMsg_walks (s : State) (id : Nat) (f : Msg → Msg) : (s.mapMsg id f).walks = s.walks := rfl
@[simp] theorem State.mapMsg_domain (s : State) (id : Nat) (f : Msg → Msg) : (s.mapMsg id f).domain = s.domain := rfl
@[simp] theorem State.mapMsg_unreachable (s : State) (id : Nat) (f : Msg → Msg) : (s.mapMsg id f).unreachable = s.unreachable := rfl
@[simp] theorem State.mapMsg_cmds (s : State) (id : Nat) (f : Msg → Msg) : (s.mapMsg id f).cmds = s.cmds := rfl
@[simp] theorem State.mapMsg_reqs (s : State) (id : Nat) (f : Msg → Msg) : (s.mapMsg id f).reqs = s.reqs := rfl
@[simp] theorem State.mapMsg_invals (s : State) (id : Nat) (f : Msg → Msg) : (s.mapMsg id f).invals = s.invals := rfl
@[simp] theorem State.mapMsg_kept (s : State) (id : Nat) (f : Msg → Msg) : (s.mapMsg id f).kept = s.kept := rfl
@[simp] theorem State.mapMsg_released (s : State) (id : Nat) (f : Msg → Msg) : (s.mapMsg id f).released = s.released := rfl
@[simp] theorem State.mapMsg_teams (s : State) (id : Nat) (f : Msg → Msg) : (s.mapMsg id f).teams = s.teams := rfl
@[simp] theorem State.mapMsg_host (s : State) (id : Nat) (f : Msg → Msg) : (s.mapMsg id f).host = s.host := rfl
@[simp] theorem State.mapMsg_now (s : State) (id : Nat) (f : Msg → Msg) : (s.mapMsg id f).now = s.now := rfl
@[simp] theorem State.mapMsg_cur (s : State) (id : Nat) (f : Msg → Msg) : (s.mapMsg id f).cur = s.cur := rfl
@[simp] theorem State.mapMsg_focus (s : State) (id : Nat) (f : Msg → Msg) : (s.mapMsg id f).focus = s.focus := rfl
@[simp] theorem State.mapMsg_turns (s : State) (id : Nat) (f : Msg → Msg) : (s.mapMsg id f).turns = s.turns := rfl
@[simp] theorem State.mapMsg_pending (s : State) (id : Nat) (f : Msg → Msg) : (s.mapMsg id f).pending = s.pending := rfl
@[simp] theorem State.mapMsg_nextId (s : State) (id : Nat) (f : Msg → Msg) : (s.mapMsg id f).nextId = s.nextId := rfl
@[simp] theorem State.mapMsg_fresh (s : State) (id : Nat) (f : Msg → Msg) : (s.mapMsg id f).fresh = s.fresh := rfl
@[simp] theorem State.mapMsg_ops (s : State) (id : Nat) (f : Msg → Msg) : (s.mapMsg id f).ops = s.ops := rfl
@[simp] theorem State.mapMsg_watch (s : State) (id : Nat) (f : Msg → Msg) : (s.mapMsg id f).watch = s.watch := rfl

/-! ### `performed` -/

@[simp] theorem State.performed_cores (s : State) (id : Nat) (f : Option FaultRec) : (s.performed id f).cores = s.cores := rfl
@[simp] theorem State.performed_clusters (s : State) (id : Nat) (f : Option FaultRec) : (s.performed id f).clusters = s.clusters := rfl
@[simp] theorem State.performed_dies (s : State) (id : Nat) (f : Option FaultRec) : (s.performed id f).dies = s.dies := rfl
@[simp] theorem State.performed_modules (s : State) (id : Nat) (f : Option FaultRec) : (s.performed id f).modules = s.modules := rfl
@[simp] theorem State.performed_mem (s : State) (id : Nat) (f : Option FaultRec) : (s.performed id f).mem = s.mem := rfl
@[simp] theorem State.performed_keys (s : State) (id : Nat) (f : Option FaultRec) : (s.performed id f).keys = s.keys := rfl
@[simp] theorem State.performed_errs (s : State) (id : Nat) (f : Option FaultRec) : (s.performed id f).errs = s.errs := rfl
@[simp] theorem State.performed_softs (s : State) (id : Nat) (f : Option FaultRec) : (s.performed id f).softs = s.softs := rfl
@[simp] theorem State.performed_tlbs (s : State) (id : Nat) (f : Option FaultRec) : (s.performed id f).tlbs = s.tlbs := rfl
@[simp] theorem State.performed_walks (s : State) (id : Nat) (f : Option FaultRec) : (s.performed id f).walks = s.walks := rfl
@[simp] theorem State.performed_domain (s : State) (id : Nat) (f : Option FaultRec) : (s.performed id f).domain = s.domain := rfl
@[simp] theorem State.performed_unreachable (s : State) (id : Nat) (f : Option FaultRec) : (s.performed id f).unreachable = s.unreachable := rfl
@[simp] theorem State.performed_reqs (s : State) (id : Nat) (f : Option FaultRec) : (s.performed id f).reqs = s.reqs := rfl
@[simp] theorem State.performed_msgs (s : State) (id : Nat) (f : Option FaultRec) : (s.performed id f).msgs = s.msgs := rfl
@[simp] theorem State.performed_invals (s : State) (id : Nat) (f : Option FaultRec) : (s.performed id f).invals = s.invals := rfl
@[simp] theorem State.performed_kept (s : State) (id : Nat) (f : Option FaultRec) : (s.performed id f).kept = s.kept := rfl
@[simp] theorem State.performed_released (s : State) (id : Nat) (f : Option FaultRec) : (s.performed id f).released = s.released := rfl
@[simp] theorem State.performed_teams (s : State) (id : Nat) (f : Option FaultRec) : (s.performed id f).teams = s.teams := rfl
@[simp] theorem State.performed_host (s : State) (id : Nat) (f : Option FaultRec) : (s.performed id f).host = s.host := rfl
@[simp] theorem State.performed_now (s : State) (id : Nat) (f : Option FaultRec) : (s.performed id f).now = s.now := rfl
@[simp] theorem State.performed_cur (s : State) (id : Nat) (f : Option FaultRec) : (s.performed id f).cur = s.cur := rfl
@[simp] theorem State.performed_focus (s : State) (id : Nat) (f : Option FaultRec) : (s.performed id f).focus = s.focus := rfl
@[simp] theorem State.performed_turns (s : State) (id : Nat) (f : Option FaultRec) : (s.performed id f).turns = s.turns := rfl
@[simp] theorem State.performed_nextId (s : State) (id : Nat) (f : Option FaultRec) : (s.performed id f).nextId = s.nextId := rfl
@[simp] theorem State.performed_fresh (s : State) (id : Nat) (f : Option FaultRec) : (s.performed id f).fresh = s.fresh := rfl
@[simp] theorem State.performed_ops (s : State) (id : Nat) (f : Option FaultRec) : (s.performed id f).ops = s.ops := rfl
@[simp] theorem State.performed_watch (s : State) (id : Nat) (f : Option FaultRec) : (s.performed id f).watch = s.watch := rfl

/-! ### `newId` -/

@[simp] theorem State.newId_cores (s : State) : (s.newId.2).cores = s.cores := rfl
@[simp] theorem State.newId_clusters (s : State) : (s.newId.2).clusters = s.clusters := rfl
@[simp] theorem State.newId_dies (s : State) : (s.newId.2).dies = s.dies := rfl
@[simp] theorem State.newId_modules (s : State) : (s.newId.2).modules = s.modules := rfl
@[simp] theorem State.newId_mem (s : State) : (s.newId.2).mem = s.mem := rfl
@[simp] theorem State.newId_keys (s : State) : (s.newId.2).keys = s.keys := rfl
@[simp] theorem State.newId_errs (s : State) : (s.newId.2).errs = s.errs := rfl
@[simp] theorem State.newId_softs (s : State) : (s.newId.2).softs = s.softs := rfl
@[simp] theorem State.newId_tlbs (s : State) : (s.newId.2).tlbs = s.tlbs := rfl
@[simp] theorem State.newId_walks (s : State) : (s.newId.2).walks = s.walks := rfl
@[simp] theorem State.newId_domain (s : State) : (s.newId.2).domain = s.domain := rfl
@[simp] theorem State.newId_unreachable (s : State) : (s.newId.2).unreachable = s.unreachable := rfl
@[simp] theorem State.newId_cmds (s : State) : (s.newId.2).cmds = s.cmds := rfl
@[simp] theorem State.newId_reqs (s : State) : (s.newId.2).reqs = s.reqs := rfl
@[simp] theorem State.newId_msgs (s : State) : (s.newId.2).msgs = s.msgs := rfl
@[simp] theorem State.newId_invals (s : State) : (s.newId.2).invals = s.invals := rfl
@[simp] theorem State.newId_kept (s : State) : (s.newId.2).kept = s.kept := rfl
@[simp] theorem State.newId_released (s : State) : (s.newId.2).released = s.released := rfl
@[simp] theorem State.newId_teams (s : State) : (s.newId.2).teams = s.teams := rfl
@[simp] theorem State.newId_host (s : State) : (s.newId.2).host = s.host := rfl
@[simp] theorem State.newId_now (s : State) : (s.newId.2).now = s.now := rfl
@[simp] theorem State.newId_cur (s : State) : (s.newId.2).cur = s.cur := rfl
@[simp] theorem State.newId_focus (s : State) : (s.newId.2).focus = s.focus := rfl
@[simp] theorem State.newId_turns (s : State) : (s.newId.2).turns = s.turns := rfl
@[simp] theorem State.newId_pending (s : State) : (s.newId.2).pending = s.pending := rfl
@[simp] theorem State.newId_fresh (s : State) : (s.newId.2).fresh = s.fresh := rfl
@[simp] theorem State.newId_ops (s : State) : (s.newId.2).ops = s.ops := rfl
@[simp] theorem State.newId_watch (s : State) : (s.newId.2).watch = s.watch := rfl

/-! ### `freeWord` -/

@[simp] theorem State.freeWord_cores (s : State) : (s.freeWord.2).cores = s.cores := rfl
@[simp] theorem State.freeWord_clusters (s : State) : (s.freeWord.2).clusters = s.clusters := rfl
@[simp] theorem State.freeWord_dies (s : State) : (s.freeWord.2).dies = s.dies := rfl
@[simp] theorem State.freeWord_modules (s : State) : (s.freeWord.2).modules = s.modules := rfl
@[simp] theorem State.freeWord_mem (s : State) : (s.freeWord.2).mem = s.mem := rfl
@[simp] theorem State.freeWord_keys (s : State) : (s.freeWord.2).keys = s.keys := rfl
@[simp] theorem State.freeWord_errs (s : State) : (s.freeWord.2).errs = s.errs := rfl
@[simp] theorem State.freeWord_softs (s : State) : (s.freeWord.2).softs = s.softs := rfl
@[simp] theorem State.freeWord_tlbs (s : State) : (s.freeWord.2).tlbs = s.tlbs := rfl
@[simp] theorem State.freeWord_walks (s : State) : (s.freeWord.2).walks = s.walks := rfl
@[simp] theorem State.freeWord_domain (s : State) : (s.freeWord.2).domain = s.domain := rfl
@[simp] theorem State.freeWord_unreachable (s : State) : (s.freeWord.2).unreachable = s.unreachable := rfl
@[simp] theorem State.freeWord_cmds (s : State) : (s.freeWord.2).cmds = s.cmds := rfl
@[simp] theorem State.freeWord_reqs (s : State) : (s.freeWord.2).reqs = s.reqs := rfl
@[simp] theorem State.freeWord_msgs (s : State) : (s.freeWord.2).msgs = s.msgs := rfl
@[simp] theorem State.freeWord_invals (s : State) : (s.freeWord.2).invals = s.invals := rfl
@[simp] theorem State.freeWord_kept (s : State) : (s.freeWord.2).kept = s.kept := rfl
@[simp] theorem State.freeWord_released (s : State) : (s.freeWord.2).released = s.released := rfl
@[simp] theorem State.freeWord_teams (s : State) : (s.freeWord.2).teams = s.teams := rfl
@[simp] theorem State.freeWord_host (s : State) : (s.freeWord.2).host = s.host := rfl
@[simp] theorem State.freeWord_now (s : State) : (s.freeWord.2).now = s.now := rfl
@[simp] theorem State.freeWord_cur (s : State) : (s.freeWord.2).cur = s.cur := rfl
@[simp] theorem State.freeWord_focus (s : State) : (s.freeWord.2).focus = s.focus := rfl
@[simp] theorem State.freeWord_turns (s : State) : (s.freeWord.2).turns = s.turns := rfl
@[simp] theorem State.freeWord_pending (s : State) : (s.freeWord.2).pending = s.pending := rfl
@[simp] theorem State.freeWord_nextId (s : State) : (s.freeWord.2).nextId = s.nextId := rfl
@[simp] theorem State.freeWord_ops (s : State) : (s.freeWord.2).ops = s.ops := rfl
@[simp] theorem State.freeWord_watch (s : State) : (s.freeWord.2).watch = s.watch := rfl

/-! ### `choose` -/

@[simp] theorem State.choose_cores (s : State) (n : Nat) : ((s.choose n).2).cores = s.cores := rfl
@[simp] theorem State.choose_clusters (s : State) (n : Nat) : ((s.choose n).2).clusters = s.clusters := rfl
@[simp] theorem State.choose_dies (s : State) (n : Nat) : ((s.choose n).2).dies = s.dies := rfl
@[simp] theorem State.choose_modules (s : State) (n : Nat) : ((s.choose n).2).modules = s.modules := rfl
@[simp] theorem State.choose_mem (s : State) (n : Nat) : ((s.choose n).2).mem = s.mem := rfl
@[simp] theorem State.choose_keys (s : State) (n : Nat) : ((s.choose n).2).keys = s.keys := rfl
@[simp] theorem State.choose_errs (s : State) (n : Nat) : ((s.choose n).2).errs = s.errs := rfl
@[simp] theorem State.choose_softs (s : State) (n : Nat) : ((s.choose n).2).softs = s.softs := rfl
@[simp] theorem State.choose_tlbs (s : State) (n : Nat) : ((s.choose n).2).tlbs = s.tlbs := rfl
@[simp] theorem State.choose_walks (s : State) (n : Nat) : ((s.choose n).2).walks = s.walks := rfl
@[simp] theorem State.choose_domain (s : State) (n : Nat) : ((s.choose n).2).domain = s.domain := rfl
@[simp] theorem State.choose_unreachable (s : State) (n : Nat) : ((s.choose n).2).unreachable = s.unreachable := rfl
@[simp] theorem State.choose_cmds (s : State) (n : Nat) : ((s.choose n).2).cmds = s.cmds := rfl
@[simp] theorem State.choose_reqs (s : State) (n : Nat) : ((s.choose n).2).reqs = s.reqs := rfl
@[simp] theorem State.choose_msgs (s : State) (n : Nat) : ((s.choose n).2).msgs = s.msgs := rfl
@[simp] theorem State.choose_invals (s : State) (n : Nat) : ((s.choose n).2).invals = s.invals := rfl
@[simp] theorem State.choose_kept (s : State) (n : Nat) : ((s.choose n).2).kept = s.kept := rfl
@[simp] theorem State.choose_released (s : State) (n : Nat) : ((s.choose n).2).released = s.released := rfl
@[simp] theorem State.choose_teams (s : State) (n : Nat) : ((s.choose n).2).teams = s.teams := rfl
@[simp] theorem State.choose_host (s : State) (n : Nat) : ((s.choose n).2).host = s.host := rfl
@[simp] theorem State.choose_now (s : State) (n : Nat) : ((s.choose n).2).now = s.now := rfl
@[simp] theorem State.choose_cur (s : State) (n : Nat) : ((s.choose n).2).cur = s.cur := rfl
@[simp] theorem State.choose_focus (s : State) (n : Nat) : ((s.choose n).2).focus = s.focus := rfl
@[simp] theorem State.choose_turns (s : State) (n : Nat) : ((s.choose n).2).turns = s.turns := rfl
@[simp] theorem State.choose_pending (s : State) (n : Nat) : ((s.choose n).2).pending = s.pending := rfl
@[simp] theorem State.choose_nextId (s : State) (n : Nat) : ((s.choose n).2).nextId = s.nextId := rfl
@[simp] theorem State.choose_ops (s : State) (n : Nat) : ((s.choose n).2).ops = s.ops := rfl
@[simp] theorem State.choose_watch (s : State) (n : Nat) : ((s.choose n).2).watch = s.watch := rfl

/-! ### What is set -/

@[simp] theorem State.push_pending (s : State) (e : Event) : (s.push e).pending = s.pending ++ [e] := rfl
@[simp] theorem State.newId_nextId (s : State) : s.newId.2.nextId = s.nextId + 1 := rfl
@[simp] theorem State.newId_fst (s : State) : s.newId.1 = s.nextId := rfl
@[simp] theorem State.freeWord_fresh (s : State) : s.freeWord.2.fresh = s.fresh + 1 := rfl
@[simp] theorem State.choose_fresh (s : State) (n : Nat) : (s.choose n).2.fresh = s.fresh + 1 := rfl

end Sys2Proof.Machine
end

