-- ==== Sys2Proof/Laws/Collections.lean ====
section
/-! SUPPORT. Collections by key: what is found after a change of one key, and the order of the keys; the units of the state after one
of them is set. -/

namespace Sys2Proof.Machine

/-! ### What a key holds -/

@[simp] theorem SMap.find?_put_self {α : Type} (m : SMap α) (n : Nat) (a : α) : (m.put n a).find? n = some a := by
  induction m with
  | nil => simp [SMap.put, SMap.find?]
  | cons e rest ih =>
    obtain ⟨k, b⟩ := e
    simp only [SMap.put]
    split
    · simp [SMap.find?]
    · split
      · simp [SMap.find?]
      · simp [SMap.find?, *]

theorem SMap.find?_put_ne {α : Type} (m : SMap α) {n j : Nat} (a : α) (h : j ≠ n) : (m.put n a).find? j = m.find? j := by
  induction m with
  | nil => simp [SMap.put, SMap.find?, Ne.symm h]
  | cons e rest ih =>
    obtain ⟨k, b⟩ := e
    simp only [SMap.put]
    split
    · subst k; simp [SMap.find?, Ne.symm h]
    · split
      · simp only [SMap.find?]
        repeat' split
        all_goals first | rfl | omega
      · simp [SMap.find?, ih]

/-! ### The order of the keys -/

theorem SMap.rising_mono {α : Type} {m : SMap α} {lo lo' : Nat} (h : lo' ≤ lo) (hm : SMap.rising lo m = true) :
    SMap.rising lo' m = true := by
  cases m with
  | nil => rfl
  | cons e rest =>
    simp only [SMap.rising, Bool.and_eq_true, decide_eq_true_eq] at hm ⊢
    exact ⟨by omega, hm.2⟩

theorem SMap.rising_put {α : Type} {m : SMap α} {lo n : Nat} (a : α) (hm : SMap.rising lo m = true) (hn : lo ≤ n) :
    SMap.rising lo (m.put n a) = true := by
  induction m generalizing lo with
  | nil => simp [SMap.put, SMap.rising, hn]
  | cons e rest ih =>
    obtain ⟨k, b⟩ := e
    simp only [SMap.rising, Bool.and_eq_true, decide_eq_true_eq] at hm
    simp only [SMap.put]
    split
    · subst k; simp [SMap.rising, hm]
    · split
      · simp only [SMap.rising, Bool.and_eq_true, decide_eq_true_eq]
        exact ⟨hn, by omega, hm.2⟩
      · simp only [SMap.rising, Bool.and_eq_true, decide_eq_true_eq]
        exact ⟨hm.1, ih hm.2 (by omega)⟩

theorem SMap.rising_filter {α : Type} {m : SMap α} {lo : Nat} (p : Nat × α → Bool) (hm : SMap.rising lo m = true) :
    SMap.rising lo (m.filter p) = true := by
  induction m generalizing lo with
  | nil => rfl
  | cons e rest ih =>
    obtain ⟨k, b⟩ := e
    simp only [SMap.rising, Bool.and_eq_true, decide_eq_true_eq] at hm
    by_cases h : p (k, b) = true
    · simp only [List.filter_cons, h, if_true, SMap.rising, Bool.and_eq_true, decide_eq_true_eq]
      exact ⟨hm.1, ih hm.2⟩
    · simp only [List.filter_cons, h]
      exact SMap.rising_mono (by omega) (ih hm.2)

theorem SMap.rising_map {α : Type} {m : SMap α} {lo : Nat} (f : Nat × α → Nat × α) (hf : ∀ e, (f e).1 = e.1)
    (hm : SMap.rising lo m = true) : SMap.rising lo (m.map f) = true := by
  induction m generalizing lo with
  | nil => rfl
  | cons e rest ih =>
    obtain ⟨k, b⟩ := e
    simp only [SMap.rising, Bool.and_eq_true, decide_eq_true_eq] at hm
    have h := hf (k, b)
    rcases hfe : f (k, b) with ⟨k', b'⟩
    rw [hfe] at h
    simp only at h
    subst h
    simp only [List.map_cons, hfe, SMap.rising, Bool.and_eq_true, decide_eq_true_eq]
    exact ⟨hm.1, ih hm.2⟩

/-- What a property of all entries says of those after a key is set. -/
theorem SMap.all_put {α : Type} {m : SMap α} {p : Nat × α → Bool} {n : Nat} {a : α} (hm : m.all p = true) (ha : p (n, a) = true) :
    (m.put n a).all p = true := by
  induction m with
  | nil => simp [SMap.put, ha]
  | cons e rest ih =>
    obtain ⟨k, b⟩ := e
    simp only [List.all_cons, Bool.and_eq_true] at hm
    simp only [SMap.put]
    split
    · simp [ha, hm.2]
    · split <;> simp [ha, hm.1, hm.2, ih hm.2]

theorem SMap.all_find? {α : Type} {m : SMap α} {p : Nat × α → Bool} {n : Nat} {a : α} (hm : m.all p = true) (h : m.find? n = some a) :
    p (n, a) = true := by
  induction m with
  | nil => simp [SMap.find?] at h
  | cons e rest ih =>
    obtain ⟨k, b⟩ := e
    simp only [List.all_cons, Bool.and_eq_true] at hm
    simp only [SMap.find?] at h
    split at h
    · simp only [Option.some.injEq] at h; subst k; subst h; exact hm.1
    · split at h
      · simp at h
      · exact ih hm.2 h

/-! ### The units of the state -/

@[simp] theorem State.core_setCore (s : State) (l : Loc) (c : Core) : (s.setCore l c).core l = c := by
  simp [State.core, State.setCore]
theorem State.core_setCore_ne (s : State) {l j : Loc} (c : Core) (h : j ≠ l) : (s.setCore l c).core j = s.core j := by
  simp [State.core, State.setCore, SMap.find?_put_ne _ _ h]
@[simp] theorem State.core_mapCore (s : State) (l : Loc) (f : Core → Core) : (s.mapCore l f).core l = f (s.core l) := by
  simp [State.mapCore]
theorem State.core_mapCore_ne (s : State) {l j : Loc} (f : Core → Core) (h : j ≠ l) : (s.mapCore l f).core j = s.core j :=
  State.core_setCore_ne s _ h

@[simp] theorem State.cluster_setCluster (s : State) (k : Nat) (c : Cluster) : (s.setCluster k c).cluster k = c := by
  simp [State.cluster, State.setCluster]
theorem State.cluster_setCluster_ne (s : State) {k j : Nat} (c : Cluster) (h : j ≠ k) : (s.setCluster k c).cluster j = s.cluster j := by
  simp [State.cluster, State.setCluster, SMap.find?_put_ne _ _ h]
@[simp] theorem State.cluster_mapCluster (s : State) (k : Nat) (f : Cluster → Cluster) :
    (s.mapCluster k f).cluster k = f (s.cluster k) := by simp [State.mapCluster]
theorem State.cluster_mapCluster_ne (s : State) {k j : Nat} (f : Cluster → Cluster) (h : j ≠ k) :
    (s.mapCluster k f).cluster j = s.cluster j := State.cluster_setCluster_ne s _ h

@[simp] theorem State.die_setDie (s : State) (k : Nat) (d : Die) : (s.setDie k d).die k = d := by simp [State.die, State.setDie]
theorem State.die_setDie_ne (s : State) {k j : Nat} (d : Die) (h : j ≠ k) : (s.setDie k d).die j = s.die j := by
  simp [State.die, State.setDie, SMap.find?_put_ne _ _ h]
@[simp] theorem State.die_mapDie (s : State) (k : Nat) (f : Die → Die) : (s.mapDie k f).die k = f (s.die k) := by simp [State.mapDie]
theorem State.die_mapDie_ne (s : State) {k j : Nat} (f : Die → Die) (h : j ≠ k) : (s.mapDie k f).die j = s.die j :=
  State.die_setDie_ne s _ h

@[simp] theorem State.module_setModule (s : State) (k : Nat) (m : Module) : (s.setModule k m).module k = m := by
  simp [State.module, State.setModule]
theorem State.module_setModule_ne (s : State) {k j : Nat} (m : Module) (h : j ≠ k) : (s.setModule k m).module j = s.module j := by
  simp [State.module, State.setModule, SMap.find?_put_ne _ _ h]
@[simp] theorem State.module_mapModule (s : State) (k : Nat) (f : Module → Module) : (s.mapModule k f).module k = f (s.module k) := by
  simp [State.mapModule]
theorem State.module_mapModule_ne (s : State) {k j : Nat} (f : Module → Module) (h : j ≠ k) :
    (s.mapModule k f).module j = s.module j := State.module_setModule_ne s _ h

/-- A unit read through a state that lists the same units. -/
theorem State.core_congr {s t : State} (h : t.cores = s.cores) (l : Loc) : t.core l = s.core l := by simp [State.core, h]
theorem State.cluster_congr {s t : State} (h : t.clusters = s.clusters) (k : Nat) : t.cluster k = s.cluster k := by
  simp [State.cluster, h]
theorem State.die_congr {s t : State} (h : t.dies = s.dies) (k : Nat) : t.die k = s.die k := by simp [State.die, h]
theorem State.module_congr {s t : State} (h : t.modules = s.modules) (k : Nat) : t.module k = s.module k := by simp [State.module, h]

/-! ### Threads in slots -/

@[simp] theorem Core.thread_setThread (c : Core) {k : Nat} (t : Thread) (h : k < 5) : (c.setThread k t).thread k = t := by
  simp [Core.thread, Core.setThread, h, Vector.getD]
theorem Core.thread_setThread_ne (c : Core) {k j : Nat} (t : Thread) (hj : j < 5) (h : j ≠ k) :
    (c.setThread k t).thread j = c.thread j := by
  simp only [Core.thread, Core.setThread]
  split
  · simp [Vector.getD, hj, Vector.getElem_set, Ne.symm h]
  · rfl
@[simp] theorem State.threadAt_setThreadAt (s : State) (l : Loc) {k : Nat} (t : Thread) (h : k < 5) :
    (s.setThreadAt l k t).threadAt l k = t := by simp [State.threadAt, State.setThreadAt, h]
theorem State.threadAt_setThreadAt_ne (s : State) {l j : Loc} {k n : Nat} (t : Thread) (hn : n < 5) (h : j ≠ l ∨ n ≠ k) :
    (s.setThreadAt l k t).threadAt j n = s.threadAt j n := by
  simp only [State.threadAt, State.setThreadAt]
  by_cases hj : j = l
  · subst hj
    simp [Core.thread_setThread_ne _ t hn (h.resolve_left (by simp))]
  · rw [State.core_mapCore_ne _ _ hj]
@[simp] theorem State.threadAt_mapThreadAt (s : State) (l : Loc) {k : Nat} (f : Thread → Thread) (h : k < 5) :
    (s.mapThreadAt l k f).threadAt l k = f (s.threadAt l k) := by simp [State.mapThreadAt, h]

end Sys2Proof.Machine
end

