-- ==== Sys2Proof/Laws/Memory.lean ====
section
/-! SUPPORT. Memory: the canonical list of bytes, and bytes written and read at their homes under a key (R74, R75). -/

namespace Sys2Proof.Machine

/-! ### The list of bytes -/

theorem memWf_mono {mem : List Host.Cell} {lo lo' : Nat} (h : lo' ≤ lo) (hm : memWfFrom lo mem = true) : memWfFrom lo' mem = true := by
  cases mem with
  | nil => rfl
  | cons e rest =>
    simp only [memWfFrom, Bool.and_eq_true, decide_eq_true_eq] at hm ⊢
    exact ⟨⟨by omega, hm.1.2⟩, hm.2⟩

theorem memFind_below {mem : List Host.Cell} {lo y : Nat} (hm : memWfFrom lo mem = true) (hy : y < lo) : memFind mem y = blank y := by
  cases mem with
  | nil => rfl
  | cons e rest =>
    obtain ⟨a, b⟩ := e
    simp only [memWfFrom, Bool.and_eq_true, decide_eq_true_eq] at hm
    simp only [memFind]
    rw [if_neg (by omega), if_pos (by omega)]

theorem memFind_memPut_self {mem : List Host.Cell} {lo : Nat} (pa : Nat) (b : Byte) (hm : memWfFrom lo mem = true) :
    memFind (memPut mem pa b) pa = some b := by
  induction mem generalizing lo with
  | nil => simp only [memPut]; split <;> simp [memFind, *]
  | cons e rest ih =>
    obtain ⟨a, c⟩ := e
    simp only [memWfFrom, Bool.and_eq_true, decide_eq_true_eq] at hm
    simp only [memPut]
    split
    · subst a
      split
      · next h => rw [memFind_below hm.2 (by omega), h]
      · simp [memFind]
    · split
      · split
        · next h => rw [← h]; simp only [memFind]; rw [if_neg (by omega), if_pos (by omega)]
        · simp [memFind]
      · simp only [memFind]; rw [if_neg (by omega), if_neg (by omega)]; exact ih hm.2

theorem memFind_memPut_ne {mem : List Host.Cell} {lo y : Nat} (pa : Nat) (b : Byte) (hm : memWfFrom lo mem = true) (hy : y ≠ pa) :
    memFind (memPut mem pa b) y = memFind mem y := by
  induction mem generalizing lo with
  | nil => simp only [memPut]; split <;> simp [memFind, Ne.symm hy]
  | cons e rest ih =>
    obtain ⟨a, c⟩ := e
    simp only [memWfFrom, Bool.and_eq_true, decide_eq_true_eq] at hm
    simp only [memPut]
    split
    · subst a
      split
      · simp only [memFind, Ne.symm hy, if_false]
        split
        · exact memFind_below hm.2 (by omega)
        · rfl
      · simp [memFind, Ne.symm hy]
    · split
      · split
        · rfl
        · simp only [memFind, Ne.symm hy, if_false]
          split
          · rw [if_neg (by omega), if_pos (by omega)]
          · rfl
      · simp only [memFind]
        rw [ih hm.2]

theorem memWf_memPut {mem : List Host.Cell} {lo : Nat} (pa : Nat) (b : Byte) (hm : memWfFrom lo mem = true) (hpa : lo ≤ pa) :
    memWfFrom lo (memPut mem pa b) = true := by
  induction mem generalizing lo with
  | nil => simp only [memPut]; split <;> simp [memWfFrom, *]
  | cons e rest ih =>
    obtain ⟨a, c⟩ := e
    simp only [memWfFrom, Bool.and_eq_true, decide_eq_true_eq] at hm
    simp only [memPut]
    split
    · subst a
      split
      · exact memWf_mono (by omega) hm.2
      · simp only [memWfFrom, Bool.and_eq_true, decide_eq_true_eq]
        exact ⟨⟨hpa, by assumption⟩, hm.2⟩
    · split
      · split
        · simp only [memWfFrom, Bool.and_eq_true, decide_eq_true_eq]; exact hm
        · simp only [memWfFrom, Bool.and_eq_true, decide_eq_true_eq]
          exact ⟨⟨hpa, by assumption⟩, ⟨by omega, hm.1.2⟩, hm.2⟩
      · simp only [memWfFrom, Bool.and_eq_true, decide_eq_true_eq]
        exact ⟨hm.1, ih hm.2 (by omega)⟩

theorem memWf_filter {mem : List Host.Cell} {lo : Nat} (p : Host.Cell → Bool) (hm : memWfFrom lo mem = true) :
    memWfFrom lo (mem.filter p) = true := by
  induction mem generalizing lo with
  | nil => rfl
  | cons e rest ih =>
    obtain ⟨a, c⟩ := e
    simp only [memWfFrom, Bool.and_eq_true, decide_eq_true_eq] at hm
    by_cases h : p (a, c) = true
    · simp only [List.filter_cons, h, if_true, memWfFrom, Bool.and_eq_true, decide_eq_true_eq]
      exact ⟨hm.1, ih hm.2⟩
    · simp only [List.filter_cons, h]
      exact memWf_mono (by omega) (ih hm.2)

theorem Memory.wf_nil : Memory.wf [] = true := rfl
theorem Memory.wf_put {mem : List Host.Cell} (pa : Nat) (b : Byte) (h : Memory.wf mem = true) : Memory.wf (memPut mem pa b) = true :=
  memWf_memPut pa b h (Nat.zero_le _)
theorem Memory.wf_filter {mem : List Host.Cell} (p : Host.Cell → Bool) (h : Memory.wf mem = true) : Memory.wf (mem.filter p) = true :=
  memWf_filter p h
theorem Memory.wf_putAll {mem : List Host.Cell} (pa : Nat) (l : List Byte) (h : Memory.wf mem = true) :
    Memory.wf (memPutAll mem pa l) = true := by
  induction l generalizing mem pa with
  | nil => exact h
  | cons b rest ih => exact ih _ (Memory.wf_put pa b h)

theorem memFind_putAll_outside {mem : List Host.Cell} {pa y : Nat} (l : List Byte) (h : Memory.wf mem = true)
    (hy : y < pa ∨ pa + l.length ≤ y) : memFind (memPutAll mem pa l) y = memFind mem y := by
  induction l generalizing mem pa with
  | nil => rfl
  | cons b rest ih =>
    simp only [List.length_cons] at hy
    simp only [memPutAll]
    rw [ih (Memory.wf_put pa b h) (by omega), memFind_memPut_ne pa b h (by omega)]

theorem memFind_putAll_inside {mem : List Host.Cell} {pa : Nat} (l : List Byte) (h : Memory.wf mem = true) (i : Nat) (hi : i < l.length) :
    memFind (memPutAll mem pa l) (pa + i) = some l[i] := by
  induction l generalizing mem pa i with
  | nil => simp at hi
  | cons b rest ih =>
    simp only [memPutAll]
    cases i with
    | zero =>
      rw [memFind_putAll_outside rest (Memory.wf_put pa b h) (by omega), Nat.add_zero, memFind_memPut_self pa b h]
      rfl
    | succ i =>
      have := ih (mem := memPut mem pa b) (pa := pa + 1) (Memory.wf_put pa b h) i (by simpa using hi)
      rw [show pa + (i + 1) = pa + 1 + i by omega, this]
      rfl

/-! ### Bytes at their homes -/

/-- What a byte reads as depends on memory and the keys alone. -/
theorem State.readByte_congr {s t : State} (hm : t.mem = s.mem) (hk : t.keys = s.keys) (key : Nat × Nat) (pa : Nat) :
    t.readByte key pa = s.readByte key pa := by
  simp only [State.readByte, State.unitPlain, State.plainByte, hm, hk]

theorem State.readBytes_congr {s t : State} (hm : t.mem = s.mem) (hk : t.keys = s.keys) (key : Nat × Nat) (pa n : Nat) :
    t.readBytes key pa n = s.readBytes key pa n := by
  simp only [State.readBytes, State.readByte_congr hm hk]

/-- R75: a unit that is re-keyed keeps its bytes, or takes those that a read under the new key returned. -/
theorem State.rekey_mem (s : State) (key : Nat × Nat) (unit : Nat) :
    (s.rekey key unit).mem = s.mem ∨ ∃ l : List Byte, l = (List.range 64).map (fun i => s.readByte key (unit * 64 + i)) ∧
      (s.rekey key unit).mem = memPutAll s.mem (unit * 64) l := by
  unfold State.rekey
  split
  · exact .inl rfl
  · split
    · exact .inl rfl
    · refine .inr ⟨_, Eq.refl _, ?_⟩
      simp only

theorem State.rekey_wf (s : State) (key : Nat × Nat) (unit : Nat) (h : Memory.wf s.mem = true) :
    Memory.wf (s.rekey key unit).mem = true := by
  obtain h' | ⟨l, -, h'⟩ := s.rekey_mem key unit
  · rw [h']; exact h
  · rw [h']; exact Memory.wf_putAll _ l h

theorem State.writeByte_wf (s : State) (key : Nat × Nat) (pa : Nat) (b : Byte) (h : Memory.wf s.mem = true) :
    Memory.wf (s.writeByte key pa b).mem = true := by
  simp only [State.writeByte]
  apply Memory.wf_put
  split
  · exact s.rekey_wf key _ h
  · exact h

theorem State.writeBytes_wf (s : State) (key : Nat × Nat) (pa : Nat) (l : List Byte) (h : Memory.wf s.mem = true) :
    Memory.wf (s.writeBytes key pa l).mem = true := by
  induction l generalizing s pa with
  | nil => exact h
  | cons b rest ih => exact ih _ _ (s.writeByte_wf key pa b h)

/-- A write of a scratchpad, a register's place or the host's memory touches no key and no other byte. -/
theorem State.writeByte_of_kind (s : State) (key : Nat × Nat) (pa : Nat) (b : Byte) (h : paKind pa ≠ 0) :
    s.writeByte key pa b = { s with mem := memPut s.mem pa b } := by simp [State.writeByte, h]

/-- A scratchpad byte reads the same under every key. -/
theorem State.readByte_pad (s : State) (key : Nat × Nat) (pa : Nat) (h : paKind pa = 1) :
    s.readByte key pa = (memFind s.mem pa).getD 0 := by simp [State.readByte, h]

end Sys2Proof.Machine
end

