-- ==== Sys2Proof/Laws/Threads.lean ====
section
/-! SUPPORT. What a write of memory and a write of the moving thread leave as they were; the moving thread in its slot; registers, the
program counter and a taken trap. -/

namespace Sys2Proof.Machine

/-! ### Writes of memory -/

@[simp] theorem State.rekey_cores (s : State) (key : Nat × Nat) (u : Nat) : (s.rekey key u).cores = s.cores := by
  unfold State.rekey; split
  · rfl
  · split <;> rfl
@[simp] theorem State.writeByte_cores (s : State) (key : Nat × Nat) (pa : Nat) (b : Byte) : (s.writeByte key pa b).cores = s.cores := by
  unfold State.writeByte; split <;> simp
@[simp] theorem State.writeBytes_cores (s : State) (key : Nat × Nat) (pa : Nat) (l : List Byte) : (s.writeBytes key pa l).cores = s.cores := by
  induction l generalizing s pa with
  | nil => rfl
  | cons b rest ih => simp [State.writeBytes, ih]
@[simp] theorem State.sp2WriteBytes_cores (s : State) (ck off : Nat) (l : List Byte) : (s.sp2WriteBytes ck off l).cores = s.cores :=
  s.writeBytes_cores _ _ l
@[simp] theorem State.rekey_clusters (s : State) (key : Nat × Nat) (u : Nat) : (s.rekey key u).clusters = s.clusters := by
  unfold State.rekey; split
  · rfl
  · split <;> rfl
@[simp] theorem State.writeByte_clusters (s : State) (key : Nat × Nat) (pa : Nat) (b : Byte) : (s.writeByte key pa b).clusters = s.clusters := by
  unfold State.writeByte; split <;> simp
@[simp] theorem State.writeBytes_clusters (s : State) (key : Nat × Nat) (pa : Nat) (l : List Byte) : (s.writeBytes key pa l).clusters = s.clusters := by
  induction l generalizing s pa with
  | nil => rfl
  | cons b rest ih => simp [State.writeBytes, ih]
@[simp] theorem State.sp2WriteBytes_clusters (s : State) (ck off : Nat) (l : List Byte) : (s.sp2WriteBytes ck off l).clusters = s.clusters :=
  s.writeBytes_clusters _ _ l
@[simp] theorem State.rekey_dies (s : State) (key : Nat × Nat) (u : Nat) : (s.rekey key u).dies = s.dies := by
  unfold State.rekey; split
  · rfl
  · split <;> rfl
@[simp] theorem State.writeByte_dies (s : State) (key : Nat × Nat) (pa : Nat) (b : Byte) : (s.writeByte key pa b).dies = s.dies := by
  unfold State.writeByte; split <;> simp
@[simp] theorem State.writeBytes_dies (s : State) (key : Nat × Nat) (pa : Nat) (l : List Byte) : (s.writeBytes key pa l).dies = s.dies := by
  induction l generalizing s pa with
  | nil => rfl
  | cons b rest ih => simp [State.writeBytes, ih]
@[simp] theorem State.sp2WriteBytes_dies (s : State) (ck off : Nat) (l : List Byte) : (s.sp2WriteBytes ck off l).dies = s.dies :=
  s.writeBytes_dies _ _ l
@[simp] theorem State.rekey_modules (s : State) (key : Nat × Nat) (u : Nat) : (s.rekey key u).modules = s.modules := by
  unfold State.rekey; split
  · rfl
  · split <;> rfl
@[simp] theorem State.writeByte_modules (s : State) (key : Nat × Nat) (pa : Nat) (b : Byte) : (s.writeByte key pa b).modules = s.modules := by
  unfold State.writeByte; split <;> simp
@[simp] theorem State.writeBytes_modules (s : State) (key : Nat × Nat) (pa : Nat) (l : List Byte) : (s.writeBytes key pa l).modules = s.modules := by
  induction l generalizing s pa with
  | nil => rfl
  | cons b rest ih => simp [State.writeBytes, ih]
@[simp] theorem State.sp2WriteBytes_modules (s : State) (ck off : Nat) (l : List Byte) : (s.sp2WriteBytes ck off l).modules = s.modules :=
  s.writeBytes_modules _ _ l
@[simp] theorem State.rekey_errs (s : State) (key : Nat × Nat) (u : Nat) : (s.rekey key u).errs = s.errs := by
  unfold State.rekey; split
  · rfl
  · split <;> rfl
@[simp] theorem State.writeByte_errs (s : State) (key : Nat × Nat) (pa : Nat) (b : Byte) : (s.writeByte key pa b).errs = s.errs := by
  unfold State.writeByte; split <;> simp
@[simp] theorem State.writeBytes_errs (s : State) (key : Nat × Nat) (pa : Nat) (l : List Byte) : (s.writeBytes key pa l).errs = s.errs := by
  induction l generalizing s pa with
  | nil => rfl
  | cons b rest ih => simp [State.writeBytes, ih]
@[simp] theorem State.sp2WriteBytes_errs (s : State) (ck off : Nat) (l : List Byte) : (s.sp2WriteBytes ck off l).errs = s.errs :=
  s.writeBytes_errs _ _ l
@[simp] theorem State.rekey_softs (s : State) (key : Nat × Nat) (u : Nat) : (s.rekey key u).softs = s.softs := by
  unfold State.rekey; split
  · rfl
  · split <;> rfl
@[simp] theorem State.writeByte_softs (s : State) (key : Nat × Nat) (pa : Nat) (b : Byte) : (s.writeByte key pa b).softs = s.softs := by
  unfold State.writeByte; split <;> simp
@[simp] theorem State.writeBytes_softs (s : State) (key : Nat × Nat) (pa : Nat) (l : List Byte) : (s.writeBytes key pa l).softs = s.softs := by
  induction l generalizing s pa with
  | nil => rfl
  | cons b rest ih => simp [State.writeBytes, ih]
@[simp] theorem State.sp2WriteBytes_softs (s : State) (ck off : Nat) (l : List Byte) : (s.sp2WriteBytes ck off l).softs = s.softs :=
  s.writeBytes_softs _ _ l
@[simp] theorem State.rekey_tlbs (s : State) (key : Nat × Nat) (u : Nat) : (s.rekey key u).tlbs = s.tlbs := by
  unfold State.rekey; split
  · rfl
  · split <;> rfl
@[simp] theorem State.writeByte_tlbs (s : State) (key : Nat × Nat) (pa : Nat) (b : Byte) : (s.writeByte key pa b).tlbs = s.tlbs := by
  unfold State.writeByte; split <;> simp
@[simp] theorem State.writeBytes_tlbs (s : State) (key : Nat × Nat) (pa : Nat) (l : List Byte) : (s.writeBytes key pa l).tlbs = s.tlbs := by
  induction l generalizing s pa with
  | nil => rfl
  | cons b rest ih => simp [State.writeBytes, ih]
@[simp] theorem State.sp2WriteBytes_tlbs (s : State) (ck off : Nat) (l : List Byte) : (s.sp2WriteBytes ck off l).tlbs = s.tlbs :=
  s.writeBytes_tlbs _ _ l
@[simp] theorem State.rekey_walks (s : State) (key : Nat × Nat) (u : Nat) : (s.rekey key u).walks = s.walks := by
  unfold State.rekey; split
  · rfl
  · split <;> rfl
@[simp] theorem State.writeByte_walks (s : State) (key : Nat × Nat) (pa : Nat) (b : Byte) : (s.writeByte key pa b).walks = s.walks := by
  unfold State.writeByte; split <;> simp
@[simp] theorem State.writeBytes_walks (s : State) (key : Nat × Nat) (pa : Nat) (l : List Byte) : (s.writeBytes key pa l).walks = s.walks := by
  induction l generalizing s pa with
  | nil => rfl
  | cons b rest ih => simp [State.writeBytes, ih]
@[simp] theorem State.sp2WriteBytes_walks (s : State) (ck off : Nat) (l : List Byte) : (s.sp2WriteBytes ck off l).walks = s.walks :=
  s.writeBytes_walks _ _ l
@[simp] theorem State.rekey_domain (s : State) (key : Nat × Nat) (u : Nat) : (s.rekey key u).domain = s.domain := by
  unfold State.rekey; split
  · rfl
  · split <;> rfl
@[simp] theorem State.writeByte_domain (s : State) (key : Nat × Nat) (pa : Nat) (b : Byte) : (s.writeByte key pa b).domain = s.domain := by
  unfold State.writeByte; split <;> simp
@[simp] theorem State.writeBytes_domain (s : State) (key : Nat × Nat) (pa : Nat) (l : List Byte) : (s.writeBytes key pa l).domain = s.domain := by
  induction l generalizing s pa with
  | nil => rfl
  | cons b rest ih => simp [State.writeBytes, ih]
@[simp] theorem State.sp2WriteBytes_domain (s : State) (ck off : Nat) (l : List Byte) : (s.sp2WriteBytes ck off l).domain = s.domain :=
  s.writeBytes_domain _ _ l
@[simp] theorem State.rekey_unreachable (s : State) (key : Nat × Nat) (u : Nat) : (s.rekey key u).unreachable = s.unreachable := by
  unfold State.rekey; split
  · rfl
  · split <;> rfl
@[simp] theorem State.writeByte_unreachable (s : State) (key : Nat × Nat) (pa : Nat) (b : Byte) : (s.writeByte key pa b).unreachable = s.unreachable := by
  unfold State.writeByte; split <;> simp
@[simp] theorem State.writeBytes_unreachable (s : State) (key : Nat × Nat) (pa : Nat) (l : List Byte) : (s.writeBytes key pa l).unreachable = s.unreachable := by
  induction l generalizing s pa with
  | nil => rfl
  | cons b rest ih => simp [State.writeBytes, ih]
@[simp] theorem State.sp2WriteBytes_unreachable (s : State) (ck off : Nat) (l : List Byte) : (s.sp2WriteBytes ck off l).unreachable = s.unreachable :=
  s.writeBytes_unreachable _ _ l
@[simp] theorem State.rekey_cmds (s : State) (key : Nat × Nat) (u : Nat) : (s.rekey key u).cmds = s.cmds := by
  unfold State.rekey; split
  · rfl
  · split <;> rfl
@[simp] theorem State.writeByte_cmds (s : State) (key : Nat × Nat) (pa : Nat) (b : Byte) : (s.writeByte key pa b).cmds = s.cmds := by
  unfold State.writeByte; split <;> simp
@[simp] theorem State.writeBytes_cmds (s : State) (key : Nat × Nat) (pa : Nat) (l : List Byte) : (s.writeBytes key pa l).cmds = s.cmds := by
  induction l generalizing s pa with
  | nil => rfl
  | cons b rest ih => simp [State.writeBytes, ih]
@[simp] theorem State.sp2WriteBytes_cmds (s : State) (ck off : Nat) (l : List Byte) : (s.sp2WriteBytes ck off l).cmds = s.cmds :=
  s.writeBytes_cmds _ _ l
@[simp] theorem State.rekey_reqs (s : State) (key : Nat × Nat) (u : Nat) : (s.rekey key u).reqs = s.reqs := by
  unfold State.rekey; split
  · rfl
  · split <;> rfl
@[simp] theorem State.writeByte_reqs (s : State) (key : Nat × Nat) (pa : Nat) (b : Byte) : (s.writeByte key pa b).reqs = s.reqs := by
  unfold State.writeByte; split <;> simp
@[simp] theorem State.writeBytes_reqs (s : State) (key : Nat × Nat) (pa : Nat) (l : List Byte) : (s.writeBytes key pa l).reqs = s.reqs := by
  induction l generalizing s pa with
  | nil => rfl
  | cons b rest ih => simp [State.writeBytes, ih]
@[simp] theorem State.sp2WriteBytes_reqs (s : State) (ck off : Nat) (l : List Byte) : (s.sp2WriteBytes ck off l).reqs = s.reqs :=
  s.writeBytes_reqs _ _ l
@[simp] theorem State.rekey_msgs (s : State) (key : Nat × Nat) (u : Nat) : (s.rekey key u).msgs = s.msgs := by
  unfold State.rekey; split
  · rfl
  · split <;> rfl
@[simp] theorem State.writeByte_msgs (s : State) (key : Nat × Nat) (pa : Nat) (b : Byte) : (s.writeByte key pa b).msgs = s.msgs := by
  unfold State.writeByte; split <;> simp
@[simp] theorem State.writeBytes_msgs (s : State) (key : Nat × Nat) (pa : Nat) (l : List Byte) : (s.writeBytes key pa l).msgs = s.msgs := by
  induction l generalizing s pa with
  | nil => rfl
  | cons b rest ih => simp [State.writeBytes, ih]
@[simp] theorem State.sp2WriteBytes_msgs (s : State) (ck off : Nat) (l : List Byte) : (s.sp2WriteBytes ck off l).msgs = s.msgs :=
  s.writeBytes_msgs _ _ l
@[simp] theorem State.rekey_invals (s : State) (key : Nat × Nat) (u : Nat) : (s.rekey key u).invals = s.invals := by
  unfold State.rekey; split
  · rfl
  · split <;> rfl
@[simp] theorem State.writeByte_invals (s : State) (key : Nat × Nat) (pa : Nat) (b : Byte) : (s.writeByte key pa b).invals = s.invals := by
  unfold State.writeByte; split <;> simp
@[simp] theorem State.writeBytes_invals (s : State) (key : Nat × Nat) (pa : Nat) (l : List Byte) : (s.writeBytes key pa l).invals = s.invals := by
  induction l generalizing s pa with
  | nil => rfl
  | cons b rest ih => simp [State.writeBytes, ih]
@[simp] theorem State.sp2WriteBytes_invals (s : State) (ck off : Nat) (l : List Byte) : (s.sp2WriteBytes ck off l).invals = s.invals :=
  s.writeBytes_invals _ _ l
@[simp] theorem State.rekey_kept (s : State) (key : Nat × Nat) (u : Nat) : (s.rekey key u).kept = s.kept := by
  unfold State.rekey; split
  · rfl
  · split <;> rfl
@[simp] theorem State.writeByte_kept (s : State) (key : Nat × Nat) (pa : Nat) (b : Byte) : (s.writeByte key pa b).kept = s.kept := by
  unfold State.writeByte; split <;> simp
@[simp] theorem State.writeBytes_kept (s : State) (key : Nat × Nat) (pa : Nat) (l : List Byte) : (s.writeBytes key pa l).kept = s.kept := by
  induction l generalizing s pa with
  | nil => rfl
  | cons b rest ih => simp [State.writeBytes, ih]
@[simp] theorem State.sp2WriteBytes_kept (s : State) (ck off : Nat) (l : List Byte) : (s.sp2WriteBytes ck off l).kept = s.kept :=
  s.writeBytes_kept _ _ l
@[simp] theorem State.rekey_released (s : State) (key : Nat × Nat) (u : Nat) : (s.rekey key u).released = s.released := by
  unfold State.rekey; split
  · rfl
  · split <;> rfl
@[simp] theorem State.writeByte_released (s : State) (key : Nat × Nat) (pa : Nat) (b : Byte) : (s.writeByte key pa b).released = s.released := by
  unfold State.writeByte; split <;> simp
@[simp] theorem State.writeBytes_released (s : State) (key : Nat × Nat) (pa : Nat) (l : List Byte) : (s.writeBytes key pa l).released = s.released := by
  induction l generalizing s pa with
  | nil => rfl
  | cons b rest ih => simp [State.writeBytes, ih]
@[simp] theorem State.sp2WriteBytes_released (s : State) (ck off : Nat) (l : List Byte) : (s.sp2WriteBytes ck off l).released = s.released :=
  s.writeBytes_released _ _ l
@[simp] theorem State.rekey_teams (s : State) (key : Nat × Nat) (u : Nat) : (s.rekey key u).teams = s.teams := by
  unfold State.rekey; split
  · rfl
  · split <;> rfl
@[simp] theorem State.writeByte_teams (s : State) (key : Nat × Nat) (pa : Nat) (b : Byte) : (s.writeByte key pa b).teams = s.teams := by
  unfold State.writeByte; split <;> simp
@[simp] theorem State.writeBytes_teams (s : State) (key : Nat × Nat) (pa : Nat) (l : List Byte) : (s.writeBytes key pa l).teams = s.teams := by
  induction l generalizing s pa with
  | nil => rfl
  | cons b rest ih => simp [State.writeBytes, ih]
@[simp] theorem State.sp2WriteBytes_teams (s : State) (ck off : Nat) (l : List Byte) : (s.sp2WriteBytes ck off l).teams = s.teams :=
  s.writeBytes_teams _ _ l
@[simp] theorem State.rekey_host (s : State) (key : Nat × Nat) (u : Nat) : (s.rekey key u).host = s.host := by
  unfold State.rekey; split
  · rfl
  · split <;> rfl
@[simp] theorem State.writeByte_host (s : State) (key : Nat × Nat) (pa : Nat) (b : Byte) : (s.writeByte key pa b).host = s.host := by
  unfold State.writeByte; split <;> simp
@[simp] theorem State.writeBytes_host (s : State) (key : Nat × Nat) (pa : Nat) (l : List Byte) : (s.writeBytes key pa l).host = s.host := by
  induction l generalizing s pa with
  | nil => rfl
  | cons b rest ih => simp [State.writeBytes, ih]
@[simp] theorem State.sp2WriteBytes_host (s : State) (ck off : Nat) (l : List Byte) : (s.sp2WriteBytes ck off l).host = s.host :=
  s.writeBytes_host _ _ l
@[simp] theorem State.rekey_now (s : State) (key : Nat × Nat) (u : Nat) : (s.rekey key u).now = s.now := by
  unfold State.rekey; split
  · rfl
  · split <;> rfl
@[simp] theorem State.writeByte_now (s : State) (key : Nat × Nat) (pa : Nat) (b : Byte) : (s.writeByte key pa b).now = s.now := by
  unfold State.writeByte; split <;> simp
@[simp] theorem State.writeBytes_now (s : State) (key : Nat × Nat) (pa : Nat) (l : List Byte) : (s.writeBytes key pa l).now = s.now := by
  induction l generalizing s pa with
  | nil => rfl
  | cons b rest ih => simp [State.writeBytes, ih]
@[simp] theorem State.sp2WriteBytes_now (s : State) (ck off : Nat) (l : List Byte) : (s.sp2WriteBytes ck off l).now = s.now :=
  s.writeBytes_now _ _ l
@[simp] theorem State.rekey_cur (s : State) (key : Nat × Nat) (u : Nat) : (s.rekey key u).cur = s.cur := by
  unfold State.rekey; split
  · rfl
  · split <;> rfl
@[simp] theorem State.writeByte_cur (s : State) (key : Nat × Nat) (pa : Nat) (b : Byte) : (s.writeByte key pa b).cur = s.cur := by
  unfold State.writeByte; split <;> simp
@[simp] theorem State.writeBytes_cur (s : State) (key : Nat × Nat) (pa : Nat) (l : List Byte) : (s.writeBytes key pa l).cur = s.cur := by
  induction l generalizing s pa with
  | nil => rfl
  | cons b rest ih => simp [State.writeBytes, ih]
@[simp] theorem State.sp2WriteBytes_cur (s : State) (ck off : Nat) (l : List Byte) : (s.sp2WriteBytes ck off l).cur = s.cur :=
  s.writeBytes_cur _ _ l
@[simp] theorem State.rekey_focus (s : State) (key : Nat × Nat) (u : Nat) : (s.rekey key u).focus = s.focus := by
  unfold State.rekey; split
  · rfl
  · split <;> rfl
@[simp] theorem State.writeByte_focus (s : State) (key : Nat × Nat) (pa : Nat) (b : Byte) : (s.writeByte key pa b).focus = s.focus := by
  unfold State.writeByte; split <;> simp
@[simp] theorem State.writeBytes_focus (s : State) (key : Nat × Nat) (pa : Nat) (l : List Byte) : (s.writeBytes key pa l).focus = s.focus := by
  induction l generalizing s pa with
  | nil => rfl
  | cons b rest ih => simp [State.writeBytes, ih]
@[simp] theorem State.sp2WriteBytes_focus (s : State) (ck off : Nat) (l : List Byte) : (s.sp2WriteBytes ck off l).focus = s.focus :=
  s.writeBytes_focus _ _ l
@[simp] theorem State.rekey_turns (s : State) (key : Nat × Nat) (u : Nat) : (s.rekey key u).turns = s.turns := by
  unfold State.rekey; split
  · rfl
  · split <;> rfl
@[simp] theorem State.writeByte_turns (s : State) (key : Nat × Nat) (pa : Nat) (b : Byte) : (s.writeByte key pa b).turns = s.turns := by
  unfold State.writeByte; split <;> simp
@[simp] theorem State.writeBytes_turns (s : State) (key : Nat × Nat) (pa : Nat) (l : List Byte) : (s.writeBytes key pa l).turns = s.turns := by
  induction l generalizing s pa with
  | nil => rfl
  | cons b rest ih => simp [State.writeBytes, ih]
@[simp] theorem State.sp2WriteBytes_turns (s : State) (ck off : Nat) (l : List Byte) : (s.sp2WriteBytes ck off l).turns = s.turns :=
  s.writeBytes_turns _ _ l
@[simp] theorem State.rekey_pending (s : State) (key : Nat × Nat) (u : Nat) : (s.rekey key u).pending = s.pending := by
  unfold State.rekey; split
  · rfl
  · split <;> rfl
@[simp] theorem State.writeByte_pending (s : State) (key : Nat × Nat) (pa : Nat) (b : Byte) : (s.writeByte key pa b).pending = s.pending := by
  unfold State.writeByte; split <;> simp
@[simp] theorem State.writeBytes_pending (s : State) (key : Nat × Nat) (pa : Nat) (l : List Byte) : (s.writeBytes key pa l).pending = s.pending := by
  induction l generalizing s pa with
  | nil => rfl
  | cons b rest ih => simp [State.writeBytes, ih]
@[simp] theorem State.sp2WriteBytes_pending (s : State) (ck off : Nat) (l : List Byte) : (s.sp2WriteBytes ck off l).pending = s.pending :=
  s.writeBytes_pending _ _ l
@[simp] theorem State.rekey_nextId (s : State) (key : Nat × Nat) (u : Nat) : (s.rekey key u).nextId = s.nextId := by
  unfold State.rekey; split
  · rfl
  · split <;> rfl
@[simp] theorem State.writeByte_nextId (s : State) (key : Nat × Nat) (pa : Nat) (b : Byte) : (s.writeByte key pa b).nextId = s.nextId := by
  unfold State.writeByte; split <;> simp
@[simp] theorem State.writeBytes_nextId (s : State) (key : Nat × Nat) (pa : Nat) (l : List Byte) : (s.writeBytes key pa l).nextId = s.nextId := by
  induction l generalizing s pa with
  | nil => rfl
  | cons b rest ih => simp [State.writeBytes, ih]
@[simp] theorem State.sp2WriteBytes_nextId (s : State) (ck off : Nat) (l : List Byte) : (s.sp2WriteBytes ck off l).nextId = s.nextId :=
  s.writeBytes_nextId _ _ l
@[simp] theorem State.rekey_fresh (s : State) (key : Nat × Nat) (u : Nat) : (s.rekey key u).fresh = s.fresh := by
  unfold State.rekey; split
  · rfl
  · split <;> rfl
@[simp] theorem State.writeByte_fresh (s : State) (key : Nat × Nat) (pa : Nat) (b : Byte) : (s.writeByte key pa b).fresh = s.fresh := by
  unfold State.writeByte; split <;> simp
@[simp] theorem State.writeBytes_fresh (s : State) (key : Nat × Nat) (pa : Nat) (l : List Byte) : (s.writeBytes key pa l).fresh = s.fresh := by
  induction l generalizing s pa with
  | nil => rfl
  | cons b rest ih => simp [State.writeBytes, ih]
@[simp] theorem State.sp2WriteBytes_fresh (s : State) (ck off : Nat) (l : List Byte) : (s.sp2WriteBytes ck off l).fresh = s.fresh :=
  s.writeBytes_fresh _ _ l
@[simp] theorem State.rekey_ops (s : State) (key : Nat × Nat) (u : Nat) : (s.rekey key u).ops = s.ops := by
  unfold State.rekey; split
  · rfl
  · split <;> rfl
@[simp] theorem State.writeByte_ops (s : State) (key : Nat × Nat) (pa : Nat) (b : Byte) : (s.writeByte key pa b).ops = s.ops := by
  unfold State.writeByte; split <;> simp
@[simp] theorem State.writeBytes_ops (s : State) (key : Nat × Nat) (pa : Nat) (l : List Byte) : (s.writeBytes key pa l).ops = s.ops := by
  induction l generalizing s pa with
  | nil => rfl
  | cons b rest ih => simp [State.writeBytes, ih]
@[simp] theorem State.sp2WriteBytes_ops (s : State) (ck off : Nat) (l : List Byte) : (s.sp2WriteBytes ck off l).ops = s.ops :=
  s.writeBytes_ops _ _ l
@[simp] theorem State.rekey_watch (s : State) (key : Nat × Nat) (u : Nat) : (s.rekey key u).watch = s.watch := by
  unfold State.rekey; split
  · rfl
  · split <;> rfl
@[simp] theorem State.writeByte_watch (s : State) (key : Nat × Nat) (pa : Nat) (b : Byte) : (s.writeByte key pa b).watch = s.watch := by
  unfold State.writeByte; split <;> simp
@[simp] theorem State.writeBytes_watch (s : State) (key : Nat × Nat) (pa : Nat) (l : List Byte) : (s.writeBytes key pa l).watch = s.watch := by
  induction l generalizing s pa with
  | nil => rfl
  | cons b rest ih => simp [State.writeBytes, ih]
@[simp] theorem State.sp2WriteBytes_watch (s : State) (ck off : Nat) (l : List Byte) : (s.sp2WriteBytes ck off l).watch = s.watch :=
  s.writeBytes_watch _ _ l

/-! ### The moving thread -/

@[simp] theorem State.setThreadOf_dies (s : State) (w : Place) (t : Thread) : (s.setThreadOf w t).dies = s.dies := by
  cases w <;> simp [State.setThreadOf, State.setParkedThread]
@[simp] theorem State.setThr_dies (s : State) (t : Thread) : (s.setThr t).dies = s.dies := s.setThreadOf_dies _ t
@[simp] theorem State.mapThr_dies (s : State) (f : Thread → Thread) : (s.mapThr f).dies = s.dies := s.setThr_dies _
@[simp] theorem State.setG_dies (s : State) (r : BitVec 5) (x : Word) : (s.setG r x).dies = s.dies := by
  unfold State.setG; split
  · rfl
  · split <;> simp [State.mapCr]
@[simp] theorem State.setPc_dies (s : State) (x : BitVec 16) : (s.setPc x).dies = s.dies := s.mapThr_dies _
@[simp] theorem State.setThreadOf_modules (s : State) (w : Place) (t : Thread) : (s.setThreadOf w t).modules = s.modules := by
  cases w <;> simp [State.setThreadOf, State.setParkedThread]
@[simp] theorem State.setThr_modules (s : State) (t : Thread) : (s.setThr t).modules = s.modules := s.setThreadOf_modules _ t
@[simp] theorem State.mapThr_modules (s : State) (f : Thread → Thread) : (s.mapThr f).modules = s.modules := s.setThr_modules _
@[simp] theorem State.setG_modules (s : State) (r : BitVec 5) (x : Word) : (s.setG r x).modules = s.modules := by
  unfold State.setG; split
  · rfl
  · split <;> simp [State.mapCr]
@[simp] theorem State.setPc_modules (s : State) (x : BitVec 16) : (s.setPc x).modules = s.modules := s.mapThr_modules _
@[simp] theorem State.setThreadOf_errs (s : State) (w : Place) (t : Thread) : (s.setThreadOf w t).errs = s.errs := by
  cases w <;> simp [State.setThreadOf, State.setParkedThread]
@[simp] theorem State.setThr_errs (s : State) (t : Thread) : (s.setThr t).errs = s.errs := s.setThreadOf_errs _ t
@[simp] theorem State.mapThr_errs (s : State) (f : Thread → Thread) : (s.mapThr f).errs = s.errs := s.setThr_errs _
@[simp] theorem State.setG_errs (s : State) (r : BitVec 5) (x : Word) : (s.setG r x).errs = s.errs := by
  unfold State.setG; split
  · rfl
  · split <;> simp [State.mapCr]
@[simp] theorem State.setPc_errs (s : State) (x : BitVec 16) : (s.setPc x).errs = s.errs := s.mapThr_errs _
@[simp] theorem State.setThreadOf_softs (s : State) (w : Place) (t : Thread) : (s.setThreadOf w t).softs = s.softs := by
  cases w <;> simp [State.setThreadOf, State.setParkedThread]
@[simp] theorem State.setThr_softs (s : State) (t : Thread) : (s.setThr t).softs = s.softs := s.setThreadOf_softs _ t
@[simp] theorem State.mapThr_softs (s : State) (f : Thread → Thread) : (s.mapThr f).softs = s.softs := s.setThr_softs _
@[simp] theorem State.setG_softs (s : State) (r : BitVec 5) (x : Word) : (s.setG r x).softs = s.softs := by
  unfold State.setG; split
  · rfl
  · split <;> simp [State.mapCr]
@[simp] theorem State.setPc_softs (s : State) (x : BitVec 16) : (s.setPc x).softs = s.softs := s.mapThr_softs _
@[simp] theorem State.setThreadOf_tlbs (s : State) (w : Place) (t : Thread) : (s.setThreadOf w t).tlbs = s.tlbs := by
  cases w <;> simp [State.setThreadOf, State.setParkedThread]
@[simp] theorem State.setThr_tlbs (s : State) (t : Thread) : (s.setThr t).tlbs = s.tlbs := s.setThreadOf_tlbs _ t
@[simp] theorem State.mapThr_tlbs (s : State) (f : Thread → Thread) : (s.mapThr f).tlbs = s.tlbs := s.setThr_tlbs _
@[simp] theorem State.setG_tlbs (s : State) (r : BitVec 5) (x : Word) : (s.setG r x).tlbs = s.tlbs := by
  unfold State.setG; split
  · rfl
  · split <;> simp [State.mapCr]
@[simp] theorem State.setPc_tlbs (s : State) (x : BitVec 16) : (s.setPc x).tlbs = s.tlbs := s.mapThr_tlbs _
@[simp] theorem State.setThreadOf_walks (s : State) (w : Place) (t : Thread) : (s.setThreadOf w t).walks = s.walks := by
  cases w <;> simp [State.setThreadOf, State.setParkedThread]
@[simp] theorem State.setThr_walks (s : State) (t : Thread) : (s.setThr t).walks = s.walks := s.setThreadOf_walks _ t
@[simp] theorem State.mapThr_walks (s : State) (f : Thread → Thread) : (s.mapThr f).walks = s.walks := s.setThr_walks _
@[simp] theorem State.setG_walks (s : State) (r : BitVec 5) (x : Word) : (s.setG r x).walks = s.walks := by
  unfold State.setG; split
  · rfl
  · split <;> simp [State.mapCr]
@[simp] theorem State.setPc_walks (s : State) (x : BitVec 16) : (s.setPc x).walks = s.walks := s.mapThr_walks _
@[simp] theorem State.setThreadOf_domain (s : State) (w : Place) (t : Thread) : (s.setThreadOf w t).domain = s.domain := by
  cases w <;> simp [State.setThreadOf, State.setParkedThread]
@[simp] theorem State.setThr_domain (s : State) (t : Thread) : (s.setThr t).domain = s.domain := s.setThreadOf_domain _ t
@[simp] theorem State.mapThr_domain (s : State) (f : Thread → Thread) : (s.mapThr f).domain = s.domain := s.setThr_domain _
@[simp] theorem State.setG_domain (s : State) (r : BitVec 5) (x : Word) : (s.setG r x).domain = s.domain := by
  unfold State.setG; split
  · rfl
  · split <;> simp [State.mapCr]
@[simp] theorem State.setPc_domain (s : State) (x : BitVec 16) : (s.setPc x).domain = s.domain := s.mapThr_domain _
@[simp] theorem State.setThreadOf_unreachable (s : State) (w : Place) (t : Thread) : (s.setThreadOf w t).unreachable = s.unreachable := by
  cases w <;> simp [State.setThreadOf, State.setParkedThread]
@[simp] theorem State.setThr_unreachable (s : State) (t : Thread) : (s.setThr t).unreachable = s.unreachable := s.setThreadOf_unreachable _ t
@[simp] theorem State.mapThr_unreachable (s : State) (f : Thread → Thread) : (s.mapThr f).unreachable = s.unreachable := s.setThr_unreachable _
@[simp] theorem State.setG_unreachable (s : State) (r : BitVec 5) (x : Word) : (s.setG r x).unreachable = s.unreachable := by
  unfold State.setG; split
  · rfl
  · split <;> simp [State.mapCr]
@[simp] theorem State.setPc_unreachable (s : State) (x : BitVec 16) : (s.setPc x).unreachable = s.unreachable := s.mapThr_unreachable _
@[simp] theorem State.setThreadOf_cmds (s : State) (w : Place) (t : Thread) : (s.setThreadOf w t).cmds = s.cmds := by
  cases w <;> simp [State.setThreadOf, State.setParkedThread]
@[simp] theorem State.setThr_cmds (s : State) (t : Thread) : (s.setThr t).cmds = s.cmds := s.setThreadOf_cmds _ t
@[simp] theorem State.mapThr_cmds (s : State) (f : Thread → Thread) : (s.mapThr f).cmds = s.cmds := s.setThr_cmds _
@[simp] theorem State.setG_cmds (s : State) (r : BitVec 5) (x : Word) : (s.setG r x).cmds = s.cmds := by
  unfold State.setG; split
  · rfl
  · split <;> simp [State.mapCr]
@[simp] theorem State.setPc_cmds (s : State) (x : BitVec 16) : (s.setPc x).cmds = s.cmds := s.mapThr_cmds _
@[simp] theorem State.setThreadOf_reqs (s : State) (w : Place) (t : Thread) : (s.setThreadOf w t).reqs = s.reqs := by
  cases w <;> simp [State.setThreadOf, State.setParkedThread]
@[simp] theorem State.setThr_reqs (s : State) (t : Thread) : (s.setThr t).reqs = s.reqs := s.setThreadOf_reqs _ t
@[simp] theorem State.mapThr_reqs (s : State) (f : Thread → Thread) : (s.mapThr f).reqs = s.reqs := s.setThr_reqs _
@[simp] theorem State.setG_reqs (s : State) (r : BitVec 5) (x : Word) : (s.setG r x).reqs = s.reqs := by
  unfold State.setG; split
  · rfl
  · split <;> simp [State.mapCr]
@[simp] theorem State.setPc_reqs (s : State) (x : BitVec 16) : (s.setPc x).reqs = s.reqs := s.mapThr_reqs _
@[simp] theorem State.setThreadOf_msgs (s : State) (w : Place) (t : Thread) : (s.setThreadOf w t).msgs = s.msgs := by
  cases w <;> simp [State.setThreadOf, State.setParkedThread]
@[simp] theorem State.setThr_msgs (s : State) (t : Thread) : (s.setThr t).msgs = s.msgs := s.setThreadOf_msgs _ t
@[simp] theorem State.mapThr_msgs (s : State) (f : Thread → Thread) : (s.mapThr f).msgs = s.msgs := s.setThr_msgs _
@[simp] theorem State.setG_msgs (s : State) (r : BitVec 5) (x : Word) : (s.setG r x).msgs = s.msgs := by
  unfold State.setG; split
  · rfl
  · split <;> simp [State.mapCr]
@[simp] theorem State.setPc_msgs (s : State) (x : BitVec 16) : (s.setPc x).msgs = s.msgs := s.mapThr_msgs _
@[simp] theorem State.setThreadOf_invals (s : State) (w : Place) (t : Thread) : (s.setThreadOf w t).invals = s.invals := by
  cases w <;> simp [State.setThreadOf, State.setParkedThread]
@[simp] theorem State.setThr_invals (s : State) (t : Thread) : (s.setThr t).invals = s.invals := s.setThreadOf_invals _ t
@[simp] theorem State.mapThr_invals (s : State) (f : Thread → Thread) : (s.mapThr f).invals = s.invals := s.setThr_invals _
@[simp] theorem State.setG_invals (s : State) (r : BitVec 5) (x : Word) : (s.setG r x).invals = s.invals := by
  unfold State.setG; split
  · rfl
  · split <;> simp [State.mapCr]
@[simp] theorem State.setPc_invals (s : State) (x : BitVec 16) : (s.setPc x).invals = s.invals := s.mapThr_invals _
@[simp] theorem State.setThreadOf_kept (s : State) (w : Place) (t : Thread) : (s.setThreadOf w t).kept = s.kept := by
  cases w <;> simp [State.setThreadOf, State.setParkedThread]
@[simp] theorem State.setThr_kept (s : State) (t : Thread) : (s.setThr t).kept = s.kept := s.setThreadOf_kept _ t
@[simp] theorem State.mapThr_kept (s : State) (f : Thread → Thread) : (s.mapThr f).kept = s.kept := s.setThr_kept _
@[simp] theorem State.setG_kept (s : State) (r : BitVec 5) (x : Word) : (s.setG r x).kept = s.kept := by
  unfold State.setG; split
  · rfl
  · split <;> simp [State.mapCr]
@[simp] theorem State.setPc_kept (s : State) (x : BitVec 16) : (s.setPc x).kept = s.kept := s.mapThr_kept _
@[simp] theorem State.setThreadOf_released (s : State) (w : Place) (t : Thread) : (s.setThreadOf w t).released = s.released := by
  cases w <;> simp [State.setThreadOf, State.setParkedThread]
@[simp] theorem State.setThr_released (s : State) (t : Thread) : (s.setThr t).released = s.released := s.setThreadOf_released _ t
@[simp] theorem State.mapThr_released (s : State) (f : Thread → Thread) : (s.mapThr f).released = s.released := s.setThr_released _
@[simp] theorem State.setG_released (s : State) (r : BitVec 5) (x : Word) : (s.setG r x).released = s.released := by
  unfold State.setG; split
  · rfl
  · split <;> simp [State.mapCr]
@[simp] theorem State.setPc_released (s : State) (x : BitVec 16) : (s.setPc x).released = s.released := s.mapThr_released _
@[simp] theorem State.setThreadOf_teams (s : State) (w : Place) (t : Thread) : (s.setThreadOf w t).teams = s.teams := by
  cases w <;> simp [State.setThreadOf, State.setParkedThread]
@[simp] theorem State.setThr_teams (s : State) (t : Thread) : (s.setThr t).teams = s.teams := s.setThreadOf_teams _ t
@[simp] theorem State.mapThr_teams (s : State) (f : Thread → Thread) : (s.mapThr f).teams = s.teams := s.setThr_teams _
@[simp] theorem State.setG_teams (s : State) (r : BitVec 5) (x : Word) : (s.setG r x).teams = s.teams := by
  unfold State.setG; split
  · rfl
  · split <;> simp [State.mapCr]
@[simp] theorem State.setPc_teams (s : State) (x : BitVec 16) : (s.setPc x).teams = s.teams := s.mapThr_teams _
@[simp] theorem State.setThreadOf_host (s : State) (w : Place) (t : Thread) : (s.setThreadOf w t).host = s.host := by
  cases w <;> simp [State.setThreadOf, State.setParkedThread]
@[simp] theorem State.setThr_host (s : State) (t : Thread) : (s.setThr t).host = s.host := s.setThreadOf_host _ t
@[simp] theorem State.mapThr_host (s : State) (f : Thread → Thread) : (s.mapThr f).host = s.host := s.setThr_host _
@[simp] theorem State.setG_host (s : State) (r : BitVec 5) (x : Word) : (s.setG r x).host = s.host := by
  unfold State.setG; split
  · rfl
  · split <;> simp [State.mapCr]
@[simp] theorem State.setPc_host (s : State) (x : BitVec 16) : (s.setPc x).host = s.host := s.mapThr_host _
@[simp] theorem State.setThreadOf_now (s : State) (w : Place) (t : Thread) : (s.setThreadOf w t).now = s.now := by
  cases w <;> simp [State.setThreadOf, State.setParkedThread]
@[simp] theorem State.setThr_now (s : State) (t : Thread) : (s.setThr t).now = s.now := s.setThreadOf_now _ t
@[simp] theorem State.mapThr_now (s : State) (f : Thread → Thread) : (s.mapThr f).now = s.now := s.setThr_now _
@[simp] theorem State.setG_now (s : State) (r : BitVec 5) (x : Word) : (s.setG r x).now = s.now := by
  unfold State.setG; split
  · rfl
  · split <;> simp [State.mapCr]
@[simp] theorem State.setPc_now (s : State) (x : BitVec 16) : (s.setPc x).now = s.now := s.mapThr_now _
@[simp] theorem State.setThreadOf_cur (s : State) (w : Place) (t : Thread) : (s.setThreadOf w t).cur = s.cur := by
  cases w <;> simp [State.setThreadOf, State.setParkedThread]
@[simp] theorem State.setThr_cur (s : State) (t : Thread) : (s.setThr t).cur = s.cur := s.setThreadOf_cur _ t
@[simp] theorem State.mapThr_cur (s : State) (f : Thread → Thread) : (s.mapThr f).cur = s.cur := s.setThr_cur _
@[simp] theorem State.setG_cur (s : State) (r : BitVec 5) (x : Word) : (s.setG r x).cur = s.cur := by
  unfold State.setG; split
  · rfl
  · split <;> simp [State.mapCr]
@[simp] theorem State.setPc_cur (s : State) (x : BitVec 16) : (s.setPc x).cur = s.cur := s.mapThr_cur _
@[simp] theorem State.setThreadOf_focus (s : State) (w : Place) (t : Thread) : (s.setThreadOf w t).focus = s.focus := by
  cases w <;> simp [State.setThreadOf, State.setParkedThread]
@[simp] theorem State.setThr_focus (s : State) (t : Thread) : (s.setThr t).focus = s.focus := s.setThreadOf_focus _ t
@[simp] theorem State.mapThr_focus (s : State) (f : Thread → Thread) : (s.mapThr f).focus = s.focus := s.setThr_focus _
@[simp] theorem State.setG_focus (s : State) (r : BitVec 5) (x : Word) : (s.setG r x).focus = s.focus := by
  unfold State.setG; split
  · rfl
  · split <;> simp [State.mapCr]
@[simp] theorem State.setPc_focus (s : State) (x : BitVec 16) : (s.setPc x).focus = s.focus := s.mapThr_focus _
@[simp] theorem State.setThreadOf_turns (s : State) (w : Place) (t : Thread) : (s.setThreadOf w t).turns = s.turns := by
  cases w <;> simp [State.setThreadOf, State.setParkedThread]
@[simp] theorem State.setThr_turns (s : State) (t : Thread) : (s.setThr t).turns = s.turns := s.setThreadOf_turns _ t
@[simp] theorem State.mapThr_turns (s : State) (f : Thread → Thread) : (s.mapThr f).turns = s.turns := s.setThr_turns _
@[simp] theorem State.setG_turns (s : State) (r : BitVec 5) (x : Word) : (s.setG r x).turns = s.turns := by
  unfold State.setG; split
  · rfl
  · split <;> simp [State.mapCr]
@[simp] theorem State.setPc_turns (s : State) (x : BitVec 16) : (s.setPc x).turns = s.turns := s.mapThr_turns _
@[simp] theorem State.setThreadOf_pending (s : State) (w : Place) (t : Thread) : (s.setThreadOf w t).pending = s.pending := by
  cases w <;> simp [State.setThreadOf, State.setParkedThread]
@[simp] theorem State.setThr_pending (s : State) (t : Thread) : (s.setThr t).pending = s.pending := s.setThreadOf_pending _ t
@[simp] theorem State.mapThr_pending (s : State) (f : Thread → Thread) : (s.mapThr f).pending = s.pending := s.setThr_pending _
@[simp] theorem State.setG_pending (s : State) (r : BitVec 5) (x : Word) : (s.setG r x).pending = s.pending := by
  unfold State.setG; split
  · rfl
  · split <;> simp [State.mapCr]
@[simp] theorem State.setPc_pending (s : State) (x : BitVec 16) : (s.setPc x).pending = s.pending := s.mapThr_pending _
@[simp] theorem State.setThreadOf_nextId (s : State) (w : Place) (t : Thread) : (s.setThreadOf w t).nextId = s.nextId := by
  cases w <;> simp [State.setThreadOf, State.setParkedThread]
@[simp] theorem State.setThr_nextId (s : State) (t : Thread) : (s.setThr t).nextId = s.nextId := s.setThreadOf_nextId _ t
@[simp] theorem State.mapThr_nextId (s : State) (f : Thread → Thread) : (s.mapThr f).nextId = s.nextId := s.setThr_nextId _
@[simp] theorem State.setG_nextId (s : State) (r : BitVec 5) (x : Word) : (s.setG r x).nextId = s.nextId := by
  unfold State.setG; split
  · rfl
  · split <;> simp [State.mapCr]
@[simp] theorem State.setPc_nextId (s : State) (x : BitVec 16) : (s.setPc x).nextId = s.nextId := s.mapThr_nextId _
@[simp] theorem State.setThreadOf_fresh (s : State) (w : Place) (t : Thread) : (s.setThreadOf w t).fresh = s.fresh := by
  cases w <;> simp [State.setThreadOf, State.setParkedThread]
@[simp] theorem State.setThr_fresh (s : State) (t : Thread) : (s.setThr t).fresh = s.fresh := s.setThreadOf_fresh _ t
@[simp] theorem State.mapThr_fresh (s : State) (f : Thread → Thread) : (s.mapThr f).fresh = s.fresh := s.setThr_fresh _
@[simp] theorem State.setG_fresh (s : State) (r : BitVec 5) (x : Word) : (s.setG r x).fresh = s.fresh := by
  unfold State.setG; split
  · rfl
  · split <;> simp [State.mapCr]
@[simp] theorem State.setPc_fresh (s : State) (x : BitVec 16) : (s.setPc x).fresh = s.fresh := s.mapThr_fresh _
@[simp] theorem State.setThreadOf_ops (s : State) (w : Place) (t : Thread) : (s.setThreadOf w t).ops = s.ops := by
  cases w <;> simp [State.setThreadOf, State.setParkedThread]
@[simp] theorem State.setThr_ops (s : State) (t : Thread) : (s.setThr t).ops = s.ops := s.setThreadOf_ops _ t
@[simp] theorem State.mapThr_ops (s : State) (f : Thread → Thread) : (s.mapThr f).ops = s.ops := s.setThr_ops _
@[simp] theorem State.setG_ops (s : State) (r : BitVec 5) (x : Word) : (s.setG r x).ops = s.ops := by
  unfold State.setG; split
  · rfl
  · split <;> simp [State.mapCr]
@[simp] theorem State.setPc_ops (s : State) (x : BitVec 16) : (s.setPc x).ops = s.ops := s.mapThr_ops _
@[simp] theorem State.setThreadOf_watch (s : State) (w : Place) (t : Thread) : (s.setThreadOf w t).watch = s.watch := by
  cases w <;> simp [State.setThreadOf, State.setParkedThread]
@[simp] theorem State.setThr_watch (s : State) (t : Thread) : (s.setThr t).watch = s.watch := s.setThreadOf_watch _ t
@[simp] theorem State.mapThr_watch (s : State) (f : Thread → Thread) : (s.mapThr f).watch = s.watch := s.setThr_watch _
@[simp] theorem State.setG_watch (s : State) (r : BitVec 5) (x : Word) : (s.setG r x).watch = s.watch := by
  unfold State.setG; split
  · rfl
  · split <;> simp [State.mapCr]
@[simp] theorem State.setPc_watch (s : State) (x : BitVec 16) : (s.setPc x).watch = s.watch := s.mapThr_watch _

/-! ### The thread in its slot -/

theorem State.loc_slot {s : State} {l : Loc} {k : Nat} (h : s.cur = .slot l k) : s.loc = l := by simp [State.loc, h]
theorem State.slotNo_slot {s : State} {l : Loc} {k : Nat} (h : s.cur = .slot l k) : s.slotNo = k := by simp [State.slotNo, h]
theorem State.thr_slot {s : State} {l : Loc} {k : Nat} (h : s.cur = .slot l k) : s.thr = s.threadAt l k := by
  simp [State.thr, State.threadOf, h]
theorem State.setThr_slot {s : State} {l : Loc} {k : Nat} (h : s.cur = .slot l k) (t : Thread) : s.setThr t = s.setThreadAt l k t := by
  simp [State.setThr, State.setThreadOf, h]
theorem State.mapThr_slot {s : State} {l : Loc} {k : Nat} (h : s.cur = .slot l k) (f : Thread → Thread) :
    s.mapThr f = s.mapThreadAt l k f := by simp [State.mapThr, State.mapThreadAt, State.setThr_slot h, State.thr_slot h]

theorem State.thr_setThr {s : State} {l : Loc} {k : Nat} (h : s.cur = .slot l k) (hk : k < 5) (t : Thread) : (s.setThr t).thr = t := by
  rw [State.thr_slot (s := s.setThr t) (by simpa using h), State.setThr_slot h, State.threadAt_setThreadAt _ _ _ hk]
theorem State.thr_mapThr {s : State} {l : Loc} {k : Nat} (h : s.cur = .slot l k) (hk : k < 5) (f : Thread → Thread) :
    (s.mapThr f).thr = f s.thr := State.thr_setThr h hk _

/-- A thread in a slot is written without a byte of memory. -/
theorem State.setThr_mem {s : State} {l : Loc} {k : Nat} (h : s.cur = .slot l k) (t : Thread) : (s.setThr t).mem = s.mem := by
  simp [State.setThr_slot h]
theorem State.setThr_keys {s : State} {l : Loc} {k : Nat} (h : s.cur = .slot l k) (t : Thread) : (s.setThr t).keys = s.keys := by
  simp [State.setThr_slot h]

/-! ### General registers -/

@[simp] theorem State.g_zero (s : State) : s.g 0 = 0 := by simp [State.g]
@[simp] theorem State.setG_zero (s : State) (x : Word) : s.setG 0 x = s := by simp [State.setG]
@[simp] theorem State.setG_loc (s : State) (r : BitVec 5) (x : Word) : (s.setG r x).loc = s.loc := by simp [State.loc]

theorem State.setG_mem {s : State} {l : Loc} {k : Nat} (h : s.cur = .slot l k) (r : BitVec 5) (x : Word) :
    (s.setG r x).mem = s.mem := by
  unfold State.setG
  split
  · rfl
  · split <;> simp [State.mapCr, State.mapThr, State.setThr_mem h]
theorem State.setG_keys {s : State} {l : Loc} {k : Nat} (h : s.cur = .slot l k) (r : BitVec 5) (x : Word) :
    (s.setG r x).keys = s.keys := by
  unfold State.setG
  split
  · rfl
  · split <;> simp [State.mapCr, State.mapThr, State.setThr_keys h]

/-! ### Going on behind an instruction -/

@[simp] theorem State.adv_dies (s : State) : s.adv.dies = s.dies := by
  unfold State.adv; split
  · rfl
  · dsimp only; split
    · split <;> simp
    · simp
@[simp] theorem State.adv_modules (s : State) : s.adv.modules = s.modules := by
  unfold State.adv; split
  · rfl
  · dsimp only; split
    · split <;> simp
    · simp
@[simp] theorem State.adv_errs (s : State) : s.adv.errs = s.errs := by
  unfold State.adv; split
  · rfl
  · dsimp only; split
    · split <;> simp
    · simp
@[simp] theorem State.adv_softs (s : State) : s.adv.softs = s.softs := by
  unfold State.adv; split
  · rfl
  · dsimp only; split
    · split <;> simp
    · simp
@[simp] theorem State.adv_tlbs (s : State) : s.adv.tlbs = s.tlbs := by
  unfold State.adv; split
  · rfl
  · dsimp only; split
    · split <;> simp
    · simp
@[simp] theorem State.adv_walks (s : State) : s.adv.walks = s.walks := by
  unfold State.adv; split
  · rfl
  · dsimp only; split
    · split <;> simp
    · simp
@[simp] theorem State.adv_domain (s : State) : s.adv.domain = s.domain := by
  unfold State.adv; split
  · rfl
  · dsimp only; split
    · split <;> simp
    · simp
@[simp] theorem State.adv_unreachable (s : State) : s.adv.unreachable = s.unreachable := by
  unfold State.adv; split
  · rfl
  · dsimp only; split
    · split <;> simp
    · simp
@[simp] theorem State.adv_cmds (s : State) : s.adv.cmds = s.cmds := by
  unfold State.adv; split
  · rfl
  · dsimp only; split
    · split <;> simp
    · simp
@[simp] theorem State.adv_reqs (s : State) : s.adv.reqs = s.reqs := by
  unfold State.adv; split
  · rfl
  · dsimp only; split
    · split <;> simp
    · simp
@[simp] theorem State.adv_msgs (s : State) : s.adv.msgs = s.msgs := by
  unfold State.adv; split
  · rfl
  · dsimp only; split
    · split <;> simp
    · simp
@[simp] theorem State.adv_invals (s : State) : s.adv.invals = s.invals := by
  unfold State.adv; split
  · rfl
  · dsimp only; split
    · split <;> simp
    · simp
@[simp] theorem State.adv_kept (s : State) : s.adv.kept = s.kept := by
  unfold State.adv; split
  · rfl
  · dsimp only; split
    · split <;> simp
    · simp
@[simp] theorem State.adv_released (s : State) : s.adv.released = s.released := by
  unfold State.adv; split
  · rfl
  · dsimp only; split
    · split <;> simp
    · simp
@[simp] theorem State.adv_teams (s : State) : s.adv.teams = s.teams := by
  unfold State.adv; split
  · rfl
  · dsimp only; split
    · split <;> simp
    · simp
@[simp] theorem State.adv_host (s : State) : s.adv.host = s.host := by
  unfold State.adv; split
  · rfl
  · dsimp only; split
    · split <;> simp
    · simp
@[simp] theorem State.adv_now (s : State) : s.adv.now = s.now := by
  unfold State.adv; split
  · rfl
  · dsimp only; split
    · split <;> simp
    · simp
@[simp] theorem State.adv_cur (s : State) : s.adv.cur = s.cur := by
  unfold State.adv; split
  · rfl
  · dsimp only; split
    · split <;> simp
    · simp
@[simp] theorem State.adv_focus (s : State) : s.adv.focus = s.focus := by
  unfold State.adv; split
  · rfl
  · dsimp only; split
    · split <;> simp
    · simp
@[simp] theorem State.adv_turns (s : State) : s.adv.turns = s.turns := by
  unfold State.adv; split
  · rfl
  · dsimp only; split
    · split <;> simp
    · simp
@[simp] theorem State.adv_pending (s : State) : s.adv.pending = s.pending := by
  unfold State.adv; split
  · rfl
  · dsimp only; split
    · split <;> simp
    · simp
@[simp] theorem State.adv_nextId (s : State) : s.adv.nextId = s.nextId := by
  unfold State.adv; split
  · rfl
  · dsimp only; split
    · split <;> simp
    · simp
@[simp] theorem State.adv_fresh (s : State) : s.adv.fresh = s.fresh := by
  unfold State.adv; split
  · rfl
  · dsimp only; split
    · split <;> simp
    · simp
@[simp] theorem State.adv_ops (s : State) : s.adv.ops = s.ops := by
  unfold State.adv; split
  · rfl
  · dsimp only; split
    · split <;> simp
    · simp
@[simp] theorem State.adv_watch (s : State) : s.adv.watch = s.watch := by
  unfold State.adv; split
  · rfl
  · dsimp only; split
    · split <;> simp
    · simp

/-- A thread in a slot goes on without a byte of memory. -/
theorem State.setPc_mem {s : State} {l : Loc} {k : Nat} (h : s.cur = .slot l k) (x : BitVec 16) : (s.setPc x).mem = s.mem := by
  simp [State.setPc, State.mapThr, State.setThr_mem h]
theorem State.setPc_keys {s : State} {l : Loc} {k : Nat} (h : s.cur = .slot l k) (x : BitVec 16) : (s.setPc x).keys = s.keys := by
  simp [State.setPc, State.mapThr, State.setThr_keys h]

theorem State.adv_mem {s : State} {l : Loc} {k : Nat} (h : s.cur = .slot l k) : s.adv.mem = s.mem := by
  have hg : ∀ r x, (s.setG r x).cur = .slot l k := fun r x => by simp [h]
  unfold State.adv
  split
  · rfl
  · dsimp only
    split
    · split
      · rw [State.setPc_mem (l := l) (k := k) (by simp [h]), State.mapThr, State.setThr_mem (hg _ _), State.setG_mem h]
      · rw [State.setPc_mem (hg _ _), State.setG_mem h]
    · rw [State.setPc_mem h]
theorem State.adv_keys {s : State} {l : Loc} {k : Nat} (h : s.cur = .slot l k) : s.adv.keys = s.keys := by
  have hg : ∀ r x, (s.setG r x).cur = .slot l k := fun r x => by simp [h]
  unfold State.adv
  split
  · rfl
  · dsimp only
    split
    · split
      · rw [State.setPc_keys (l := l) (k := k) (by simp [h]), State.mapThr, State.setThr_keys (hg _ _), State.setG_keys h]
      · rw [State.setPc_keys (hg _ _), State.setG_keys h]
    · rw [State.setPc_keys h]

/-- Outside a body, and for an instruction that a thread issues itself, going on is the next word alone. -/
theorem State.adv_outside {s : State} (ho : s.ops = none) (hb : s.inBody = false) : s.adv = s.setPc s.next := by
  simp [State.adv, ho, hb]

/-- A triggered command moves no program counter. -/
theorem State.adv_triggered {s : State} (ho : s.ops.isSome = true) : s.adv = s := by simp [State.adv, ho]

end Sys2Proof.Machine
end

