-- ==== Sys2Proof/Tests/Slice0.lean ====
section
/-! SUPPORT. Tests of our own: words of the encoding tables, terms that are ill-formed, single steps, and for each statement with
hypotheses states and operands that meet them, at the ends of their ranges. -/

namespace Sys2Proof.Tests

open Sys2Proof.Machine

set_option maxRecDepth 100000
set_option exponentiation.threshold 3000

/-! ### Helper states -/

/-- A running task with its PC, STATUS, some general registers and some pointer registers. -/
def thread (pc status : Nat) (g : List (Nat × Word)) (p : List (Nat × Ptr)) : Thread :=
  { Thread.reset with
    st := .running, uid := 1, pc := BitVec.ofNat 16 pc, status := BitVec.ofNat 64 status
    g := g.foldl (fun v x => v.setIfInBounds x.1 x.2) (Vector.replicate 32 0)
    p := p.foldl (fun v x => v.setIfInBounds x.1 x.2) (Vector.replicate 8 0) }

/-- A permission register that allows everything at a level. -/
def winpAll (level : Nat) : Word :=
  BitVec.ofNat 64 (15 * 2 ^ 60 + level * 2 ^ 58 + 1023 * 2 ^ 38 + 15 * 2 ^ 30 + 63 * 2 ^ 18)

/-- Core 0, with its whole SP1 code and its vectors set, and windows to SP1, SP2 and registers. -/
def core : Core :=
  { Core.reset 0 with
    exb := 0x10000, evec := 0x8000, ovlv := 0x9000
    winp := ((Vector.replicate 8 (0 : Word)).set 0 (winpAll 0)).set 1 (winpAll 1) |>.set 2 (winpAll 2) }

/-- A thread in slot `k` of core 0. -/
def inSlot (k : Nat) (t : Thread) (c : Core := core) : State :=
  { State.reset with cores := [(0, { c with threads := c.threads.setIfInBounds k t })], cur := .slot 0 k, nextId := 2 }

/-- A thread in slot 0. -/
def run (t : Thread) : State := inSlot 0 t

/-- A window address in SP2 of cluster 0 of die 0 of module 0. -/
def sp2 (off : Nat) : Ptr := BitVec.ofNat 80 (15 * 2 ^ 76 + 2 * 2 ^ 60 + off)

/-- The base state: slot 0 at 0x100 in supervisor mode. -/
def base : State := run (thread 0x100 0 [] [])

/-- Bytes in SP2 of cluster 0. -/
def put (s : State) (off : Nat) (b : List Nat) : State := s.sp2WriteBytes 0 off (b.map fun x => BitVec.ofNat 8 x)

/-- Zero bytes with some of them set. -/
def bytes (n : Nat) (l : List (Nat × Nat)) : List Nat := (List.range n).map fun i => ((l.find? fun x => x.1 = i).map (·.2)).getD 0

/-- Bytes in the SP1 of a core. -/
def put1 (s : State) (l off : Nat) (b : List Nat) : State := s.writeBytes clearKey (sp1Pa l off) (b.map fun x => BitVec.ofNat 8 x)

theorem base_issuing : base.issuing := ⟨0, 0, rfl, by decide, rfl⟩
theorem base_settled : base.settled := ⟨base_issuing, rfl, rfl, rfl, rfl, rfl, rfl⟩
theorem run_issuing (t : Thread) : (run t).issuing := ⟨0, 0, rfl, by decide, rfl⟩


/-- A state whose dies are as reset leaves them migrates no frame. -/
theorem no_migration (s : State) (h : s.dies = []) (pa : Nat) : s.migOf pa = none := by
  have hm : (s.die (paDieKey pa)).mig = Vector.replicate 8 ⟨0, 0, 0, 0⟩ := by rw [State.die, h]; rfl
  unfold State.migOf
  split
  · rw [hm]; rfl
  · rfl
/-! ### Terms that are ill-formed (R197, R198) -/

theorem test_ill_formed_0 :
    ([.ldp 8 0 0 0 0, .stp 8 0 0 0 0, .lda 0 8 0 0 0, .stl 8 0 0 0 0, .amoAdd 0 8 0 0 0,
      .amoAnd 0 8 0 0 0, .amoOr 0 8 0 0 0, .amoXor 0 8 0 0 0, .amoMin 0 8 0 0 0, .amoMax 0 8 0 0 0,
      .amoMinn 0 8 0 0 0, .amoMaxn 0 8 0 0 0, .amoSwap 0 8 0 0 0, .cas 0 8 0 0 0, .cas2 0 8 0 0,
      .famoAdd 0 8 0 0 0, .trig 0 8 0, .untrig 8 0, .bmov 8 0 0, .bmov 0 8 0] : List Instr).all (fun i => !i.wellFormed) = true := by decide

theorem test_ill_formed_1 :
    ([.bset 8 0 0, .cpCopy 8 0 0, .cpCopy 0 8 0, .cpFill 8 0 0, .cpRows 8 0 0 0,
      .cpRows 0 8 0 0, .cpRows 0 0 0 8, .cpScat 8 0 0 0, .cpScat 0 8 0 0, .cpScat 0 0 0 8,
      .tcfg 0 8 0, .tfill 0 8 0 0 0, .tdrain 0 8 0 0 0, .join 0 8 0, .leave 8,
      .gbar 8, .mxLd 8 0 0, .mxSt 8 0 0, .mxSend 0 8 0, .etw 0 31 0 1] : List Instr).all (fun i => !i.wellFormed) = true := by decide

theorem test_ill_formed_2 :
    ([.etr 0 31 0 1, .vcmp 8 0 0 0 0 0, .vcmp 0 0 0 0 5 0, .vbound 8 0 0 0, .qand 8 0 0,
      .qand 0 8 0, .qand 0 0 8, .qor 8 0 0, .qor 0 8 0, .qor 0 0 8,
      .qxor 8 0 0, .qxor 0 8 0, .qxor 0 0 8, .qnot 8 0, .qnot 0 8,
      .qcnt 0 8 0, .qfirst 0 8 0, .vldx 0 8 0 0 0 0, .vstx 0 8 0 0 0 0, .vldw 0 8 0 0 0 0] : List Instr).all (fun i => !i.wellFormed) = true := by decide

theorem test_ill_formed_3 :
    ([.vstw 0 8 0 0 0 0, .vldt 0 8 0 0 0 0, .vbind 0 8 0 0, .lbk 8, .nmc 0 8 0 0 0,
      .nmc 0 0 0 0 31, .ngt 0 8 0 0 0, .ngt 0 0 0 0 31, .nsc 0 8 0 0 0, .nsc 0 0 0 0 31,
      .na2a 0 8 0 0 0, .na2a 0 0 0 0 31, .coll 8 0 0 0 0, .coll 0 8 0 0 0, .ccfg 8 0,
      .treplay 0 8, .xpostTx 8 0, .xpostRx 8 0, .xfetch 8 0, .stvMap 8 0] : List Instr).all (fun i => !i.wellFormed) = true := by decide

theorem test_ill_formed_4 :
    ([.stvGate 8 0, .stvProb 8 0 0 0, .stvNorm 8 0, .stvAmp 8 0 0, .padd 8 0 0,
      .padd 0 8 0, .pset 8 0 0, .pget 0 8, .pgeth 0 8, .pdiff 0 8 0,
      .pdiff 0 0 8] : List Instr).all (fun i => !i.wellFormed) = true := by decide

theorem test_well_formed :
    ([.ldp 7 0 0 0 0, .bmov 7 0 31, .etr 0 7 0 1, .nmc 31 7 0 1 31, .vcmp 7 31 31 0 4 0x0A, .add 31 31 31] : List Instr).all
      (fun i => i.wellFormed) = true := by decide
/-! ### Words that the spec writes out with their assembly (R38, R39, R42, R224-R433) -/

theorem test_decode_integer :
    decodeWord 0x04642800 = .ok (.add 3 4 5) ∧
    decodeWord 0x0464002A = .ok (.sext32 3 4) ∧
    decodeWord 0x08630008 = .ok (.addi 3 3 8) ∧
    decodeWord 0x1870FFFF = .ok (.movi 3 1 0 0xFFFF) ∧
    decodeWord 0x18A5003F = .ok (.movi 5 0 5 0x3F) ∧
    decodeWord 0x2064000C = .ok (.slli 3 4 12) ∧
    decodeWord 0x20644FFB = .ok (.slti 3 4 0xFFB) ∧
    decodeWord 0x24C74005 = .ok (.divn 6 7 8) ∧
    decodeWord 0x28612000 = .ok (.padd 3 1 4) :=
  ⟨rfl, rfl, rfl, rfl, rfl, rfl, rfl, rfl, rfl⟩

theorem test_decode_scalar_float :
    decodeWord 0x2C642839 = .ok (.fadd 3 4 5 7 1) ∧
    decodeWord 0x2C642A09 = .ok (.fcmp 3 4 5 1 1) ∧
    decodeWord 0x2C641278 = .ok (.fcvt 3 4 2 7 0) :=
  ⟨rfl, rfl, rfl⟩

theorem test_decode_control_flow :
    decodeWord 0x80040002 = .ok (.beq 2 0 2) ∧
    decodeWord 0x810A6FFC = .ok (.bltn 5 6 0xFFC) ∧
    decodeWord 0x88000010 = .ok (.call 16) ∧
    decodeWord 0x87FFFFFD = .ok (.j 0x3FFFFFD) ∧
    decodeWord 0x8C070000 = .ok (.jr 7) ∧
    decodeWord 0x8C070001 = .ok (.callr 7) ∧
    decodeWord 0x8C000002 = .ok .ret ∧
    decodeWord 0x98051802 = .ok (.rpt 5 3) :=
  ⟨rfl, rfl, rfl, rfl, rfl, rfl, rfl, rfl⟩

theorem test_decode_memory :
    decodeWord 0x48840000 = .ok (.ldI64 4 1 0 0 0) ∧
    decodeWord 0x48A40001 = .ok (.ldI64 5 1 0 0 1) ∧
    decodeWord 0x5CC40002 = .ok (.st64 6 1 0 0 2) ∧
    decodeWord 0x48892002 = .ok (.ldI64 4 2 1 1 2) ∧
    decodeWord 0x50880003 = .ok (.st8 4 2 0 0 3) ∧
    decodeWord 0x4C640002 = .ok (.ldp 3 1 0 0 2) ∧
    decodeWord 0x420D0001 = .ok (.ldN32 16 3 1 0 1) ∧
    decodeWord 0x64440002 = .ok (.vld 2 1 0 0 2) ∧
    decodeWord 0x688D0001 = .ok (.vst 4 3 1 0 1) ∧
    decodeWord 0x98642800 = .ok (.bmov 3 4 5) :=
  ⟨rfl, rfl, rfl, rfl, rfl, rfl, rfl, rfl, rfl, rfl⟩

theorem test_decode_ordering :
    decodeWord 0x6C420160 = .ok (.lda 2 2 2 6 0) ∧
    decodeWord 0x6C020D30 = .ok (.stl 2 1 2 3 0) ∧
    decodeWord 0x70642820 = .ok (.amoAdd 3 4 5 1 0) ∧
    decodeWord 0x70C23CA0 = .ok (.cas 6 2 7 1 0) ∧
    decodeWord 0x740003A0 = .ok (.fence 3 2 2) ∧
    decodeWord 0x7401030C = .ok (.xfence 3 0 3) ∧
    decodeWord 0x74010204 = .ok (.xfence 2 0 1) ∧
    decodeWord 0x7C000066 = .ok (.waitkImm 0 1 6) ∧
    decodeWord 0x7C0800E4 = .ok (.waitbImm 0 3 4) ∧
    decodeWord 0x7C0BC080 = .ok (.waitbReg 15 2) ∧
    decodeWord 0x7C0280C0 = .ok (.waitkReg 10 3) :=
  ⟨rfl, rfl, rfl, rfl, rfl, rfl, rfl, rfl, rfl, rfl, rfl⟩

theorem test_decode_engines :
    decodeWord 0xBC004680 = .ok (.cpCopy 1 3 2) ∧
    decodeWord 0xBC114642 = .ok (.cpRows 5 3 1 2) ∧
    decodeWord 0xC0110446 = .ok (.tfill 4 2 1 0 6) ∧
    decodeWord 0xB8414000 = .ok (.etw 1 5 0 0) ∧
    decodeWord 0xB800C001 = .ok (.etw 0 3 0 1) ∧
    decodeWord 0xBA018200 = .ok (.etr 0 6 1 0) :=
  ⟨rfl, rfl, rfl, rfl, rfl, rfl⟩

theorem test_decode_matrix :
    decodeWord 0xB4010A53 = .ok (.mxMac 0 0 0 4 5 1 1 3) ∧
    decodeWord 0xB4498E02 = .ok (.mxMacb 0 0 1 6 7 0 0 2) ∧
    decodeWord 0xB4800043 = .ok (.mxZero 1 3) ∧
    decodeWord 0xB4C08085 = .ok (.mxLd 2 2 5) ∧
    decodeWord 0xB50100C3 = .ok (.mxSt 4 3 3) ∧
    decodeWord 0xB5400107 = .ok (.mxHand 4 7) ∧
    decodeWord 0xB5808A03 = .ok (.mxRd 2 5 3) ∧
    decodeWord 0xB5C0C000 = .ok (.mxProg 3) ∧
    decodeWord 0xB5C0C801 = .ok (.mxProgClr 3 4) ∧
    decodeWord 0xB6010B80 = .ok (.mxSend 4 5 6) :=
  ⟨rfl, rfl, rfl, rfl, rfl, rfl, rfl, rfl, rfl, rfl⟩

theorem test_decode_vector :
    decodeWord 0x9C22180A = .ok (.vaddF 1 2 3 0 0x0A) ∧
    decodeWord 0x9C853268 = .ok (.vfma 4 5 6 2 8) ∧
    decodeWord 0xA0221805 = .ok (.vaddI 1 2 3 0 5) ∧
    decodeWord 0xA0E74073 = .ok (.vsra 7 7 8 0 3) ∧
    decodeWord 0xA52A000A = .ok (.vexp2 9 10 0 0x0A) ∧
    decodeWord 0xA4222008 = .ok (.vtanh 1 2 0 8) ∧
    decodeWord 0xA4645174 = .ok (.vnarrow 3 4 0x0A 1 0x14) ∧
    decodeWord 0xA822182A = .ok (.vcmp 1 2 3 0 1 0x0A) ∧
    decodeWord 0xA82428E2 = .ok (.vbound 1 4 5 2) :=
  ⟨rfl, rfl, rfl, rfl, rfl, rfl, rfl, rfl, rfl⟩

theorem test_decode_permute :
    decodeWord 0xACA65080 = .ok (.vsum 5 6 0x0A 0) ∧
    decodeWord 0xACE50012 = .ok (.vget 7 5 0 2) ∧
    decodeWord 0xAC221829 = .ok (.vperm 1 2 3 0 1) ∧
    decodeWord 0xAC6000C2 = .ok (.vwidth 3 2) ∧
    decodeWord 0xB0221950 = .ok (.vldw 1 2 3 1 2 0) ∧
    decodeWord 0xB0812818 = .ok (.vldx 4 1 5 0 3 0) ∧
    decodeWord 0xB1033090 = .ok (.vldt 8 3 6 0 2 0) ∧
    decodeWord 0xB38402A0 = .ok (.vbind 28 4 2 0) ∧
    decodeWord 0xB38000C0 = .ok (.vfree 28) :=
  ⟨rfl, rfl, rfl, rfl, rfl, rfl, rfl, rfl, rfl⟩

theorem test_decode_fabric :
    decodeWord 0xC40114C2 = .ok (.snd 4 10 3 2) ∧
    decodeWord 0xC40913CA = .ok (.sndv 4 9 7 10) ∧
    decodeWord 0xC4111286 = .ok (.sndz 4 9 2 0 6) ∧
    decodeWord 0xC418C000 = .ok (.lbk 3) ∧
    decodeWord 0xC4218665 = .ok (.nmc 6 3 1 1 5) ∧
    decodeWord 0xC43986A8 = .ok (.na2a 6 3 2 1 8) ∧
    decodeWord 0xC8080A02 = .ok (.ccfg 5 2) ∧
    decodeWord 0xC8010742 = .ok (.coll 4 3 5 0 2) ∧
    decodeWord 0xD4100C00 = .ok (.gbar 6) ∧
    decodeWord 0xD4228000 = .ok (.tid 10 0) :=
  ⟨rfl, rfl, rfl, rfl, rfl, rfl, rfl, rfl, rfl, rfl⟩

theorem test_decode_tape_and_endpoints :
    decodeWord 0xCC014E00 = .ok (.treplay 5 7) ∧
    decodeWord 0xCC094000 = .ok (.tfree 5) ∧
    decodeWord 0xCC124A00 = .ok (.tinfo 9 5 0) ∧
    decodeWord 0xE00008C0 = .ok (.xpostTx 4 3) ∧
    decodeWord 0xE00808C0 = .ok (.xfetch 4 3) ∧
    decodeWord 0xE011D000 = .ok (.xpath 7 8) ∧
    decodeWord 0xD0008000 = .ok (.stvMap 2 0) ∧
    decodeWord 0xD0090040 = .ok (.stvInit 4 1) :=
  ⟨rfl, rfl, rfl, rfl, rfl, rfl, rfl, rfl⟩

theorem test_decode_system :
    decodeWord 0x90140201 = .ok (.crw 20 0x10) ∧
    decodeWord 0x90600320 = .ok (.crr 3 0x19) ∧
    decodeWord 0x90A60002 = .ok (.crs 5 6 0) ∧
    decodeWord 0x90070323 = .ok (.crc 0 7 0x19) ∧
    decodeWord 0x94000005 = .ok (.trap 5) ∧
    decodeWord 0x94010000 = .ok (.brk 0) ∧
    decodeWord 0x94020000 = .ok .eret ∧
    decodeWord 0x94031B04 = .ok (.idle 3 3 4) ∧
    decodeWord 0x94202B62 = .ok (.tlbi 5 3 6 2) ∧
    decodeWord 0x94203C08 = .ok (.tlbiCtx 7 4) ∧
    decodeWord 0x94210500 = .ok (.tlbsync 5) ∧
    decodeWord 0xD8004802 = .ok (.alloy 9 2) ∧
    decodeWord 0xD8010000 = .ok .part ∧
    decodeWord 0xD8022800 = .ok (.astat 5) ∧
    decodeWord 0xDC001807 = .ok (.trc 3 7) ∧
    decodeWord 0xDC010002 = .ok (.pcmEn 2) ∧
    decodeWord 0xDC030000 = .ok .pcmRet :=
  ⟨rfl, rfl, rfl, rfl, rfl, rfl, rfl, rfl, rfl, rfl, rfl, rfl, rfl, rfl, rfl, rfl, rfl⟩

/-- R203: the zero word, an opcode of no group, a function of no instruction, a reserved field and a register that does not exist. -/
theorem test_decode_refuses :
    decodeError 0 = some .zeroWord ∧ decodeError 0xE4000000 = some .opcode ∧ decodeError 0x040007FF = some .function ∧
    decodeError 0x0464082A = some .reserved ∧ decodeError 0x29012000 = some .registerField := by decide
/-! ### Witnesses: integer, control and trap statements -/

theorem witness_ImmediateResults : (0#4).toNat ≤ 12 ∧ (12#4).toNat ≤ 12 ∧ 13 ≤ (13#4).toNat ∧ 13 ≤ (15#4).toNat := by decide

/-- The most negative number and −1, and a divisor of zero. -/
def divides : State := run (thread 0x100 0 [(2, BitVec.ofInt 64 (-(2 ^ 63))), (3, BitVec.ofInt 64 (-1))] [])
theorem witness_ProductAndPointerResults :
    divides.g 4 = 0 ∧ divides.g 2 = BitVec.ofInt 64 (-(2 ^ 63)) ∧ divides.g 3 = BitVec.ofInt 64 (-1) ∧ divides.g 3 ≠ 0 ∧
    (divides.g 3 ≠ BitVec.ofInt 64 (-(2 ^ 63)) ∨ divides.g 3 ≠ BitVec.ofInt 64 (-1)) ∧ 0 ≤ (divides.g 4).toInt ∧ (divides.g 2).toInt ≤ 0 := by
  decide

theorem witness_RegisterLaws : base.issuing ∧ (31 : BitVec 5) ≠ 0 ∧ (1 : BitVec 5) ≠ 31 ∧ (7 : BitVec 3) ≠ 0 ∧ (1 : BitVec 3) ≠ 7 :=
  ⟨base_issuing, by decide⟩

/-- At the last word of the body of an active repeat of two words from 0x100, counted by g5. -/
def repeats (n : Nat) : State := run (thread 0x104 (5 * 2 ^ 27 + 2 * 2 ^ 22 + 0x40 * 2 ^ 8) [(5, BitVec.ofNat 64 n)] [])
theorem repeats_settled (n : Nat) : (repeats n).settled := ⟨run_issuing _, rfl, rfl, rfl, rfl, rfl, rfl⟩
theorem witness_RegisterLaws_pc :
    (base.issuing ∧ ¬ (base.inBody = true ∧ base.pc.toNat + 4 = 0)) ∧
    ((repeats 2).issuing ∧ (repeats 2).inBody = true ∧
      (repeats 2).pc.toNat + 4 = bits (repeats 2).thr.status 21 8 * 4 + 4 * bits (repeats 2).thr.status 26 22 ∧
      (repeats 2).g 5 ≠ 1 ∧ BitVec.ofNat 5 (bits (repeats 2).thr.status 31 27) ≠ 0#5) ∧
    ((repeats 1).issuing ∧ (repeats 1).inBody = true ∧ (repeats 1).g 5 = 1) :=
  ⟨⟨base_issuing, by decide⟩, ⟨run_issuing _, by decide⟩, ⟨run_issuing _, by decide⟩⟩

theorem witness_IntegerFrame :
    base.issuing ∧ (∃ t, exec (.add 3 4 5) base = .next t) ∧ (∃ t, exec (.movi 3 1 12 5) base = .next t) ∧
    ∃ t, exec (.padd 3 4 5) base = .next t := ⟨base_issuing, ⟨_, rfl⟩, ⟨_, rfl⟩, ⟨_, rfl⟩⟩

theorem witness_ControlFlowResults :
    base.inBody = false ∧
    (base.issuing ∧ (31 : BitVec 5) ≠ 0 ∧ base.inh = false ∧ base.g 1 = 0) ∧
    (divides.issuing ∧ (1 : BitVec 5) ≠ 0 ∧ divides.inh = false ∧ divides.inBody = false ∧ divides.g 2 ≠ 0) ∧
    ((repeats 1).settled ∧ (repeats 1).inBody = true) :=
  ⟨by decide, ⟨base_issuing, by decide⟩, ⟨run_issuing _, by decide⟩, repeats_settled 1, by decide⟩

theorem witness_ScalarFloatResults :
    ((1 : BitVec 3).toNat ≤ 1 ∧ (4 : BitVec 3) ≠ 5 ∧ (7 : BitVec 3) ≠ 5 ∧ (7 : BitVec 3) ≠ 6) ∧ (4 : BitVec 3).toNat ≤ 4 ∧
    (3 : BitVec 3).toNat ≤ 3 ∧ ((7 : BitVec 3) ≠ 0 ∧ ¬ (4 ≤ (7 : BitVec 3).toNat ∧ 4 ≤ (0 : BitVec 3).toNat)) := by decide
theorem witness_ScalarFloatResults_traps :
    2 ≤ (2 : BitVec 3).toNat ∧ 5 ≤ (5 : BitVec 3).toNat ∧ 4 ≤ (4 : BitVec 3).toNat ∧
    ((4 : BitVec 3) ≠ 5 ∧ (4 : BitVec 3) ≠ 6 ∧ 4 ≤ (4 : BitVec 3).toNat ∧ 4 ≤ (7 : BitVec 3).toNat) := by decide
theorem witness_FloatLaws :
    (3 ≤ 3 ∧ Float.f64 ∈ [⟨.ieee, 16, 5, 10, 15⟩, Float.f32, Float.f64] ∧ 0x7FF0000000000000 < 2 ^ Float.f64.bits ∧
      (Float.unpack Float.f64 false 0x7FF0000000000000).isNan = false) ∧ 4 < 5 ∧ 0 < 4095 ∧ 4095 < 4096 ∧ 3 * 2 ^ 10 < 4096 := by decide

/-- In user mode. -/
def user : State := run (thread 0x100 1 [(1, 5)] [])
theorem user_settled : user.settled := ⟨run_issuing _, rfl, rfl, rfl, rfl, rfl, rfl⟩
theorem witness_ControlAccess_reads :
    (ctrlAssigned (0x8F#11).toNat = true ∧ base.user = false) ∧
    (ctrlAssigned (0x19#11).toNat = true ∧ user.user = true ∧ ctrlUserRead (0x19#11).toNat = true ∧ user.thr.opens = [] ∧
      user.queuedUnits user.thr.uid = []) := by decide

/-- CTXALW allows the contexts 2 to 5, and g1 names the last. -/
def chooses : State := inSlot 0 (thread 0x100 0 [(1, 5)] []) { core with ctxalw := BitVec.ofNat 64 (2 ^ 63 + 5 * 2 ^ 32 + 2) }
theorem witness_ControlAccess_writes :
    (base.issuing ∧ ctrlAssigned (0#11).toNat = true ∧ base.user = false) ∧
    (chooses.issuing ∧ chooses.user = false ∧ ctxAllowed chooses.cr.ctxalw ((chooses.g 1).toNat % 2 ^ 16) = true) :=
  ⟨⟨base_issuing, by decide⟩, ⟨⟨0, 0, rfl, by decide, rfl⟩, by decide⟩⟩

theorem witness_ControlSetsClearsAndTraps :
    (user.issuing ∧ ctrlAssigned (0x18#11).toNat = true ∧ user.user = true ∧ ctrlUserRead (0x18#11).toNat = true ∧
      ctrlUserWrite (0x18#11).toNat = true ∧ (31 : BitVec 5) ≠ 0 ∧ (1 : BitVec 5) ≠ 31) ∧
    (ctrlAssigned (0x23#11).toNat = true ∧ ctrlUserWrite (0x23#11).toNat = false ∧ (0x23#11).toNat = 0x23) ∧
    (chooses.issuing ∧ chooses.user = false ∧ ctrlAssigned (8#11).toNat = true ∧
      ctxAllowed chooses.cr.ctxalw ((chooses.ctrl 8 ||| chooses.g 1).toNat % 2 ^ 16) = true ∧
      ctxAllowed chooses.cr.ctxalw ((chooses.ctrl 8 &&& ~~~(chooses.g 1)).toNat % 2 ^ 16) = false) ∧
    ctrlAssigned (0x14#11).toNat = false ∧
    (ctrlAssigned (0x40#11).toNat = true ∧ user.user = true ∧ ctrlUserRead (0x40#11).toNat = false) ∧
    (ctrlUserWrite (0#11).toNat = false ∧ 0#11 ∉ [0x19#11, 0x1A#11, 0x23#11]) ∧
    (base.user = false ∧ ctxAllowed base.cr.ctxalw ((base.g 1).toNat % 2 ^ 16) = false) :=
  ⟨⟨run_issuing _, by decide⟩, by decide, ⟨⟨0, 0, rfl, by decide, rfl⟩, by decide⟩, by decide, by decide, by decide, by decide⟩

/-- In a shadow handler; and with the vector at EXB. -/
def shadowed : State := run (thread 0x100 8 [] [])
def noVector : State := inSlot 0 (thread 0x100 0 [] []) { core with exb := 0x8000 }
theorem witness_TrapEntry :
    (base.cur = .slot 0 0 ∧ base.thr.alloy = 0 ∧ bit base.thr.status 3 = false ∧ base.cr.evec.toNat < base.cr.exb.toNat ∧
      base.cr.ovlv.toNat < base.cr.exb.toNat) ∧
    (shadowed.cur = .slot 0 0 ∧ shadowed.thr.alloy = 0 ∧ bit shadowed.thr.status 3 = true) ∧
    (noVector.cur = .slot 0 0 ∧ noVector.thr.alloy = 0 ∧ noVector.cr.exb.toNat ≤ noVector.cr.evec.toNat ∧
      (illegal 0 0).cause ≠ 0x08) := by decide

theorem witness_LeavingResults_trap : base.issuing ∧ base.user = false ∧ bit base.thr.astat 31 = false := ⟨base_issuing, by decide⟩

theorem unassigned_codes_1 : wordRows.all (fun r => !r.names 0x04000031) = true := by rfl
theorem unassigned_codes_2 : wordRows.all (fun r => !r.names 0xE0180000) = true := by rfl
theorem reserved_field_1 : wordRows.any (fun r => r.names 0x04000820 && r.reserved.any fun f => wordField 0x04000820 f.1 f.2 ≠ 0) = true := by rfl
theorem reserved_field_2 : wordRows.any (fun r => r.names 0xE0100008 && r.reserved.any fun f => wordField 0xE0100008 f.1 f.2 ≠ 0) = true := by rfl
theorem reserved_field_3 :
    wordRows.any (fun r => r.names 0x94020001 && r.privileged && r.reserved.any fun f => wordField 0x94020001 f.1 f.2 ≠ 0) = true := by rfl
theorem register_field :
    wordRows.any (fun r => r.names 0x29000000 && r.reserved.all (fun f => wordField 0x29000000 f.1 f.2 = 0) &&
      r.registers.any fun f => wordField 0x29000000 f.1 f.2 ≠ 0) = true := by rfl
/-- The words that the statement on undefined words speaks of: a function code that is not assigned in every group, a reserved field, a
register field outside its file, in the rows at both ends of the table of words and in a privileged one. -/
theorem witness_PrivilegedAndUndefinedWords :
    (
    ((Instr.eret).privileged = true ∧ user.user = true) ∧
    ((0xE4000000 : BitVec 32) ≠ 0 ∧ 0x39 ≤ wordField (0xE4000000 : BitVec 32) 26 6) ∧
    ((1 : BitVec 32) ≠ 0 ∧ wordField (1 : BitVec 32) 26 6 = 0) ∧
    (let w : BitVec 32 := 0x70000500; wordField w 26 6 = 0x1C ∧ wordField w 7 4 = 0xA ∧ wordField w 5 2 ≠ 2 ∧ wordField w 3 2 = 0 ∧
      wordField w 19 2 = 0) ∧
    (let w : BitVec 32 := 0x9420011A; wordField w 26 6 = 0x25 ∧ wordField w 16 10 = 0x20 ∧ wordField w 3 1 = 1 ∧ wordField w 0 3 ≠ 0 ∧
      wordField w 4 4 ≤ 11 ∧ 1 ≤ wordField w 8 3 ∧ wordField w 8 3 ≤ 5 ∧ base.user = false)) ∧
    wordRows.all (fun r => !r.names 0x04000031) = true ∧ wordRows.all (fun r => !r.names 0xE0180000) = true ∧
    wordRows.any (fun r => r.names 0x04000820 && r.reserved.any fun f => wordField 0x04000820 f.1 f.2 ≠ 0) = true ∧
    wordRows.any (fun r => r.names 0xE0100008 && r.reserved.any fun f => wordField 0xE0100008 f.1 f.2 ≠ 0) = true ∧
    wordRows.any (fun r => r.names 0x94020001 && r.privileged && r.reserved.any fun f => wordField 0x94020001 f.1 f.2 ≠ 0) = true ∧
    wordRows.any (fun r => r.names 0x29000000 && r.reserved.all (fun f => wordField 0x29000000 f.1 f.2 = 0) &&
      r.registers.any fun f => wordField 0x29000000 f.1 f.2 ≠ 0) = true :=
  ⟨by decide, unassigned_codes_1, unassigned_codes_2, reserved_field_1, reserved_field_2, reserved_field_3, register_field⟩

/-- Slot 3 has been asked to stop, and a parking slot is free. -/
def asked : State :=
  { inSlot 3 (thread 0x100 1 [] []) { core with prectl := 8 } with clusters := [(0, { Cluster.reset with parkcfg := 1 })] }
theorem witness_LeavingResults_waits :
    (base.settled ∧ (5 : BitVec 3).toNat ≤ 5 ∧ (base.p (0 : BitVec 3)).toNat % 8 = 0) ∧
    ((run (thread 0x100 0 [] [(1, sp2 0)])).settled ∧
      (run (thread 0x100 0 [] [(1, sp2 0)])).quietRead ((run (thread 0x100 0 [] [(1, sp2 0)])).p (1 : BitVec 3)) 0 8 =
        some (List.replicate 8 0) ∧
      ofBytes (List.replicate 8 0) = ((run (thread 0x100 0 [] [(1, sp2 0)])).g 1).toNat) ∧
    ((put (run (thread 0x100 0 [] [(1, sp2 0)])) 0 [1]).quietRead (sp2 0) 0 8 = some (1 :: List.replicate 7 0) ∧
      ofBytes (1 :: List.replicate 7 0) ≠ 0) ∧
    (base.ops = none ∧ base.inBody = false ∧ bit base.cr.prectl 0 = false) ∧
    (asked.cur = .slot 0 3 ∧ 3 < 4 ∧ asked.ops = none ∧ asked.inBody = false ∧ bit asked.cr.prectl 3 = true ∧ asked.inh = false ∧
      bit asked.thr.status 3 = false ∧ asked.thr.streams = [] ∧ asked.thr.alloy = 0 ∧ asked.cl.freePark = some 0) ∧
    (base.issuing ∧ base.user = false ∧ base.thr.alloy = 0) :=
  ⟨⟨base_settled, by decide⟩, ⟨⟨run_issuing _, rfl, rfl, rfl, rfl, rfl, rfl⟩, by decide, by decide⟩, by decide, by decide, by decide,
    base_issuing, by decide⟩

/-- An invalidation of the thread that the units of a die have not acknowledged. -/
def invalidates : State := { base with invals := [⟨1, 1, 0, 3, none, 0, none, false, 0, []⟩] }
theorem witness_InvalidationInstructions :
    (base.issuing ∧ base.user = false ∧ 1 ≤ (5 : BitVec 3).toNat ∧ (5 : BitVec 3).toNat ≤ 5 ∧ base.posted base.thr.uid = [] ∧
      base.unsent base.thr.uid = [] ∧
      (base.invals.filter fun i => i.uid = base.thr.uid).length < 16 ∧ (11 : BitVec 4).toNat ≤ 11) ∧
    (invalidates.issuing ∧ (∀ i ∈ invalidates.invals, i.uid = invalidates.thr.uid → (2 : BitVec 3).toNat < i.scope.toNat)) ∧
    ∃ i ∈ invalidates.invals, i.uid = invalidates.thr.uid ∧ i.scope.toNat ≤ (3 : BitVec 3).toNat :=
  ⟨⟨base_issuing, by decide⟩, ⟨⟨0, 0, rfl, by decide, rfl⟩, by decide⟩, by decide⟩

/-- Core 1 beside core 0, under one EXB. -/
def equalExb : State := { base with cores := base.cores ++ [(1, { Core.reset 1 with exb := 0x10000 })] }
/-- A thread in an alloy of four cores; and one in a handler. -/
def alloyed : State := run { thread 0x100 0 [] [] with alloy := 4 }
def handling : State := run (thread 0x100 4 [] [])
theorem witness_AlloyResults :
    (base.issuing ∧ base.inBody = false ∧ (3 : BitVec 2) ≠ 0 ∧ base.thr.alloy = 0 ∧ base.inh = false) ∧
    (∀ m ∈ groupOf (equalExb.loc) 2, equalExb.coreThere m = true ∧ (equalExb.core m).exb = equalExb.cr.exb) ∧
    (handling.issuing ∧ handling.inBody = false ∧ handling.inh = true) ∧
    (alloyed.issuing ∧ alloyed.inBody = false ∧ alloyed.thr.alloy ≠ 0 ∧ alloyed.thr.alloy < 16) :=
  ⟨⟨base_issuing, by decide⟩, by decide, ⟨run_issuing _, by decide⟩, ⟨run_issuing _, by decide⟩⟩

/-- Tracing on, to a ring outside the die's own memory. -/
def traced : State := { base with clusters := [(0, { Cluster.reset with trccfg := BitVec.ofNat 64 (2 ^ 63), trcbase := BitVec.ofNat 64 (2 ^ 48) })] }
/-- Tracing on, to a ring in HBM of the die. -/
def traces : State := { base with clusters := [(0, { Cluster.reset with trccfg := BitVec.ofNat 64 (2 ^ 63), trcbase := BitVec.ofNat 64 (2 ^ 30) })] }
def shadowHandler : State := run { thread 0x100 8 [] [] with shdPc := 0x200 }
theorem witness_TraceAndMatchResults :
    (base.issuing ∧ bit base.cl.trccfg 63 = false) ∧
    (traced.issuing ∧ bit traced.cl.trccfg 63 = true ∧ bits traced.cl.trccfg 31 0 = 0 ∧ traced.trcPlace (locClusterKey traced.loc) = none) ∧
    (traces.issuing ∧ bit traces.cl.trccfg 63 = true ∧ bits traces.cl.trccfg 31 0 = 0 ∧
      traces.trcPlace (locClusterKey traces.loc) = some (2 ^ 30) ∧ Memory.wf traces.mem = true ∧ traces.errs = [] ∧
      bit (traces.die (paDieKey (2 ^ 30))).hotcfg 63 = false ∧
      traces.inContextTable (2 ^ 30) 32 = false ∧ ∀ i < 32, traces.migOf (2 ^ 30 + i) = none) ∧
    (base.user = false ∧ (14 : BitVec 4) ≠ 15) ∧
    (shadowHandler.issuing ∧ shadowHandler.user = false ∧ bit shadowHandler.thr.status 3 = true ∧ shadowHandler.thr.shdAlloy = 0) :=
  ⟨⟨base_issuing, by decide⟩, ⟨⟨0, 0, rfl, by decide, rfl⟩, by decide⟩,
    ⟨⟨0, 0, rfl, by decide, rfl⟩, by decide, by decide, by decide, by decide, by decide, by decide, by decide, fun _ _ => no_migration _ rfl _⟩, by decide,
    ⟨run_issuing _, by decide⟩⟩

/-! ### Witnesses: memory and ordering -/

/-- p1 names SP2 at `off`; g2 is a stride of a lane, v2 names lanes in rising order. -/
def points (off : Nat) (status : Nat := 0) : State := run (thread 0x100 status [(2, 1)] [(1, sp2 off)])
theorem points_settled (off status : Nat) : (points off status).settled := ⟨run_issuing _, rfl, rfl, rfl, rfl, rfl, rfl⟩
/-- A context that asks for alignment. -/
def strict : State := run { thread 0x100 0 [] [(1, sp2 4)] with ctxcfg := 1 }
theorem strict_settled : strict.settled := ⟨run_issuing _, rfl, rfl, rfl, rfl, rfl, rfl⟩

theorem witness_LoadResults :
    (points 8).settled ∧ (0 : BitVec 2) ≠ 3 ∧ (2 : BitVec 2) ≠ 3 ∧ (9 : BitVec 5).toNat % 8 ≠ (2 : BitVec 3).toNat ∧ (points 8).unbound ∧
    (∀ n ∈ [1, 2, 4, 8, 16, 256], (points 8).aligned ((points 8).p (1 : BitVec 3)) n ∧
      (points 8).quietRead ((points 8).p (1 : BitVec 3)) 0 n = some (List.replicate n 0)) ∧
    (points (2 ^ 21 - 256)).quietRead ((points (2 ^ 21 - 256)).p (1 : BitVec 3)) 0 256 = some (List.replicate 256 0) ∧
    strict.aligned (strict.p (1 : BitVec 3)) 4 :=
  ⟨points_settled _ _, by decide, by decide, by decide, rfl, fun n h => ⟨.inr rfl, by revert n; decide⟩, by decide, .inl (by decide)⟩

theorem witness_StoreResults :
    (points 8).settled ∧ (points 8).unbound ∧ Memory.wf (points 8).mem = true ∧ (1 : BitVec 2) ≠ 3 ∧
    ∀ n ∈ [1, 2, 4, 8, 16, 256], (points 8).aligned ((points 8).p (1 : BitVec 3)) n ∧
      ((points 8).quietParts .store ((points 8).p (1 : BitVec 3)) 0 n).isSome = true :=
  ⟨points_settled _ _, rfl, rfl, by decide, fun n h => ⟨.inr rfl, by revert n; decide⟩⟩

/-- g2 is a stride of 12 bytes; q1 selects the lanes 0 and 1 of a size of eight bytes. -/
def strictLanes : State := run { thread 0x100 0 [(2, 12)] [(1, sp2 8)] with
  ctxcfg := 1, q := (Vector.replicate 8 (0 : Pred)).set 1 257 }
theorem witness_AccessTraps_misaligned :
    (strict.settled ∧ (9 : BitVec 5).toNat % 8 = (1 : BitVec 3).toNat ∧ bit strict.thr.ctxcfg 0 = true ∧ (2 : BitVec 2) ≠ 3 ∧
      strict.misaligned .load 8 (strict.p (1 : BitVec 3) + BitVec.ofInt 80 ((0 : BitVec 13).toInt * 8)) = some true ∧
      strict.misaligned .store 16 (strict.p (1 : BitVec 3)) = some true) ∧
    (strict.storesDone ∧ strict.sendsDone 5 ∧ (5 : BitVec 3).toNat ≤ 5 ∧ (3 : BitVec 3).toNat ≤ 3 ∧
      strict.misaligned .store (2 ^ (3 : BitVec 3).toNat) (strict.p (1 : BitVec 5)) = some true) ∧
    ((6 : BitVec 3) ≠ 7 ∧ strict.misaligned .load (2 ^ ((6 : BitVec 3).toNat / 2)) (strict.p (1 : BitVec 5)) = some true) ∧
    ((1 : BitVec 2).toNat ≤ 1 ∧ strict.misaligned .atomic (4 * 2 ^ (1 : BitVec 2).toNat) (strict.p (1 : BitVec 5)) = some true) ∧
    ((30 : BitVec 5).toNat % 2 = 0 ∧ strict.misaligned .atomic 16 (strict.p (1 : BitVec 5)) = some true) ∧
    (strictLanes.settled ∧ strictLanes.unbound ∧ bit strictLanes.thr.ctxcfg 0 = true ∧
      bit (strictLanes.q (1 : BitVec 3)) (8 * 0) = true ∧ bit (strictLanes.q (1 : BitVec 3)) (8 * 1) = true ∧
      (strictLanes.p (1 : BitVec 5) + BitVec.ofInt 80 (0 * (strictLanes.g 2).toInt)).toNat % 8 = 0 ∧
      strictLanes.misaligned .load 8 (strictLanes.p (1 : BitVec 5) + BitVec.ofInt 80 (1 * (strictLanes.g 2).toInt)) = some true) :=
  ⟨⟨strict_settled, by decide⟩, ⟨⟨rfl, by decide⟩, fun _ m h => absurd h (by revert m; decide), by decide⟩, by decide, by decide, by decide,
    ⟨run_issuing _, rfl, rfl, rfl, rfl, rfl, rfl⟩, rfl, by decide⟩

/-- A thread with a posted store that is not acknowledged. -/
def posts : State := { points 8 with reqs := [⟨1, 1, 0, 0, 0, .write, 0, false, 0, [], true, false, false, none, 0, none, 0⟩] }
theorem witness_OrderingResults :
    ((points 8).settled ∧ (5 : BitVec 3).toNat ≤ 5 ∧ (6 : BitVec 3) ≠ 7 ∧ ((points 8).p (1 : BitVec 3)).toNat % 2 ^ ((6 : BitVec 3).toNat / 2) = 0 ∧
      (points 8).quietRead ((points 8).p (1 : BitVec 3)) 0 8 = some (List.replicate 8 0)) ∧
    ((3 : BitVec 3).toNat ≤ 3 ∧ Memory.wf (points 8).mem = true ∧
      ((points 8).quietParts .store ((points 8).p (1 : BitVec 3)) 0 8).isSome = true ∧ (points 8).posted (points 8).thr.uid = [] ∧
      (points 8).unsent (points 8).thr.uid = [] ∧
      ∀ f ∈ (points 8).cl.fails, f.torig ≠ (points 8).thr.torig ∨ f.tser ≠ (points 8).thr.tser) ∧
    ((3 : BitVec 2) ≠ 0 ∧ (4 : BitVec 3).toNat ≤ 4) ∧
    ((base.posted base.thr.uid).length + (base.unsent base.thr.uid).length ≤ (0 : BitVec 6).toNat ∧ base.thr.outstanding .cp ≤ 0 ∧ base.thr.outstanding .tl ≤ 0 ∧
      base.thr.outstanding .mx ≤ 0) ∧
    (posts.issuing ∧ ¬ (posts.posted posts.thr.uid).length + (posts.unsent posts.thr.uid).length ≤ (0 : BitVec 6).toNat) :=
  ⟨⟨points_settled _ _, by decide⟩, by decide, by decide, by decide, ⟨0, 0, rfl, by decide, rfl⟩, by decide⟩

theorem witness_AtomicResults :
    ((points 8).settled ∧ Memory.wf (points 8).mem = true ∧ (1 : BitVec 2).toNat ≤ 1 ∧ ((points 8).p (1 : BitVec 5)).toNat % 8 = 0 ∧
      (points 8).quietParts .atomic ((points 8).p (1 : BitVec 5)) 0 8 = some [(sp2Pa 0 8, 0, 8)]) ∧
    ((points 16).settled ∧ (30 : BitVec 5).toNat % 2 = 0 ∧ ((points 16).p (1 : BitVec 5)).toNat % 16 = 0 ∧
      (points 16).quietParts .atomic ((points 16).p (1 : BitVec 5)) 0 16 = some [(sp2Pa 0 16, 0, 16)]) :=
  ⟨⟨points_settled _ _, by decide⟩, points_settled _ _, by decide⟩

/-- A predicate that selects the elements 0 of every size and the last byte. -/
def selects : State := run { thread 0x100 0 [(2, 8)] [(1, sp2 8)] with q := (Vector.replicate 8 (0 : Pred)).set 1 (1 + (1 <<< 255)) }
theorem selects_settled : selects.settled := ⟨run_issuing _, rfl, rfl, rfl, rfl, rfl, rfl⟩
/-- A tile in SP2 at offset 0, with pitch 256: its state, format, rows and columns. -/
def tileOf (state fmt rows cols : Nat) : Word × Word :=
  (BitVec.ofNat 64 (2 ^ 63 + state * 2 ^ 61 + 2 * 2 ^ 59 + fmt * 2 ^ 51 + (rows - 1) * 2 ^ 40 + (cols - 1) * 2 ^ 32), 16)
/-- Tile 3 of bytes, of 32 rows and 64 columns, is ready. -/
def tiled : State := inSlot 0 (thread 0x100 0 [] [(1, sp2 0)])
  { core with tiles := (Vector.replicate 32 (0, 0)).set 3 (tileOf 2 0 32 64) }
theorem tiled_settled : tiled.settled := ⟨⟨0, 0, rfl, by decide, rfl⟩, rfl, rfl, rfl, rfl, rfl, rfl⟩
theorem witness_VectorLoadResults :
    (selects.settled ∧ selects.unbound ∧ (24 : BitVec 5).toNat % 8 = 0 ∧ (0 < 256 / 8 ∧ bit (selects.q (1 : BitVec 3)) (8 * 0) = true) ∧
      selects.aligned (selects.p (1 : BitVec 5)) 8 ∧ ∀ j < 8, selects.aligned (selects.p (1 : BitVec 5) + BitVec.ofNat 80 (j * 8)) 8 ∧
        selects.quietRead (selects.p (1 : BitVec 5) + BitVec.ofNat 80 (j * 8)) 0 8 = some (List.replicate 8 0)) ∧
    (tiled.settled ∧ tiled.unbound ∧ tiled.errs = [] ∧ tiled.softs = [] ∧ tileV (tiled.tile tiled.loc 3) = true ∧ tileState (tiled.tile tiled.loc 3) = 2 ∧
      Float.fmtBytes (tileFmt (tiled.tile tiled.loc 3)) = 1 ∧ 31 < tileRows (tiled.tile tiled.loc 3) ∧
      ∀ i < 2, ∀ j < 8, tiled.refusalOf tiled.coreWho (tileParts tiled.loc (tiled.tile tiled.loc 3)
        (tileBase (tiled.tile tiled.loc 3) + i * tilePitch (tiled.tile tiled.loc 3) + j) 1).parts = none) :=
  ⟨⟨selects_settled, rfl, by decide, by decide, .inr rfl, fun j h => ⟨.inr rfl, by revert j; decide⟩⟩, ⟨tiled_settled, rfl, by decide⟩⟩

theorem witness_VectorStoreResults :
    selects.settled ∧ selects.unbound ∧ Memory.wf selects.mem = true ∧
    (31 < 256 / 8 ∧ bit (selects.q (1 : BitVec 3)) (8 * 31) = false) ∧ selects.aligned (selects.p (1 : BitVec 5)) 8 ∧
    selects.quietParts .store (selects.p (1 : BitVec 5)) 0 8 = some [(sp2Pa 0 8, 0, 8)] ∧
    storedAt [(sp2Pa 0 8, 0, 8)] (toBytes 8 5) (sp2Pa 0 15) = some 0 ∧ storedAt [(sp2Pa 0 8, 0, 8)] (toBytes 8 5) (sp2Pa 0 16) = none :=
  ⟨selects_settled, rfl, rfl, by decide, .inr rfl, by decide⟩

/-- k1 has counted two commands, one completed; nothing is outstanding on k2. -/
def counts : State := run { thread 0x100 0 [(1, 1), (2, 7)] [(3, sp2 64)] with k := (Vector.replicate 8 ⟨0, 0⟩).set 1 ⟨2, 1⟩ }
theorem counts_settled : counts.settled := ⟨run_issuing _, rfl, rfl, rfl, rfl, rfl, rfl⟩
theorem witness_CounterResults :
    (counts.issuing ∧ counts.thr.marked 1 = false ∧ (1 : BitVec 32).toNat % 2 ^ 15 = 1 ∧ ((counts.k 1).i - 1).toNat < 2 ^ 15 ∧
      0 ≤ ((counts.k 1).c - 1).toInt ∧ ¬ 0 ≤ ((counts.k 1).c - 2).toInt ∧ (counts.g 1).truncate 32 ≠ 0#32 ∧
      ((counts.k 1).i - (counts.k 1).c - 2).toInt < 0 ∧ 2 ^ 31 - 1 ≤ (0x80000000#32 - (counts.k 1).c).toInt ∧ ¬ ((counts.k 1).i - (counts.k 1).c - 1).toInt < 0) ∧
    (counts.settled ∧ (counts.k 2).i = (counts.k 2).c ∧ counts.thr.trigs = [] ∧
      ((counts.k 1).c - (counts.g 2).truncate 32).toInt < 0 ∧ ((counts.g 2).truncate 32 - (counts.k 1).c).toInt < 2 ^ 31 - 1 ∧
      counts.quietRead (BitVec.ofNat 80 ((counts.p (3 : BitVec 5)).toNat / 64 * 64)) 0 64 = some (List.replicate 64 0)) :=
  ⟨⟨counts_settled.1, by decide⟩, counts_settled, by decide⟩

/-- p1 and p2 name bytes three apart from the end of a line, g3 counts what is left. -/
def moves (n : Nat) : State := run (thread 0x100 0 [(3, BitVec.ofNat 64 n), (4, 0x0102030405060708)] [(1, sp2 61), (2, sp2 128)])
theorem moves_settled (n : Nat) : (moves n).settled := ⟨run_issuing _, rfl, rfl, rfl, rfl, rfl, rfl⟩
theorem witness_BlockMoveResults :
    ((moves 0).settled ∧ Memory.wf (moves 0).mem = true ∧ (moves 0).g 3 = 0) ∧
    (∀ n ∈ [3, 4], 0 < ((moves n).g 3).toNat ∧ (1 : BitVec 5).toNat % 8 ≠ (2 : BitVec 5).toNat % 8 ∧
      (moves n).quietRead ((moves n).p (2 : BitVec 5)) 0 3 = some (List.replicate 3 0) ∧
      ((moves n).quietParts .store ((moves n).p (1 : BitVec 5)) 0 3).isSome = true) ∧
    (moves 3).inBody = false ∧ 3 < ((moves 4).g 3).toNat ∧ 3 = ((moves 3).g 3).toNat :=
  ⟨⟨moves_settled 0, by decide⟩, by decide, by decide⟩

/-! ### Witnesses: vectors -/

theorem witness_VectorIntegerResults : base.issuing ∧ base.unbound ∧ (5 : BitVec 3).toNat % 2 = 1 := ⟨base_issuing, rfl, by decide⟩

theorem witness_VectorFloatResults :
    base.issuing ∧ base.unbound ∧ Float.isFloatCode (0x0A : BitVec 5).toNat = true ∧
    Float.fmtOf (0x0A : BitVec 5).toNat = some Float.f32 ∧ base.vrm ≠ 4 ∧ (0x0A : BitVec 5) ≠ 0x0B :=
  ⟨base_issuing, rfl, by decide⟩

theorem witness_ConversionAndPermuteResults_conversions :
    (base.issuing ∧ base.unbound ∧ base.vrm ≠ 4) ∧
    ((4 : BitVec 5) ≠ 0x0A ∧ convFmt 0x0A = some Float.f32 ∧ (convFmt 4).isSome = true ∧ Float.fmtBytes 4 = Float.fmtBytes 0x0A) ∧
    ((convFmt 0).isSome = true ∧ Float.fmtBytes 0x0A = 4 * Float.fmtBytes 0 ∧ (3 : BitVec 2).toNat < Float.fmtBytes 0x0A / Float.fmtBytes 0) ∧
    (convFmt 2).isSome = true ∧ Float.fmtBytes 0x0A = 2 * Float.fmtBytes 2 ∧ (1 : BitVec 2).toNat < Float.fmtBytes 0x0A / Float.fmtBytes 2 ∧
    Float.isFloatCode (0x0F : BitVec 5).toNat = false ∧ (6 : BitVec 3).toNat % 2 = 0 ∧ 4 ≤ (4 : BitVec 3).toNat :=
  ⟨⟨base_issuing, rfl, by decide⟩, by decide⟩

theorem witness_PredicateAndReductionResults :
    (base.issuing ∧ base.unbound ∧ convFmt 0x0A = some Float.f32 ∧ (4 : BitVec 3).toNat ≤ 4 ∧
      ¬ (Float.isInt (0x0A : BitVec 5).toNat = true ∧ (3 : BitVec 3) = 3) ∧ (31 : BitVec 5).toNat % 8 ≠ 0) ∧
    (7 : BitVec 5).toNat ≤ 7 ∧ bit (selects.q (1 : BitVec 3)) (4 * 0) = true ∧
    (Float.isFloatCode (0x0A : BitVec 5).toNat = true ∧ Float.fmtOf (0x0A : BitVec 5).toNat = some Float.f32 ∧ base.vrm ≠ 4) ∧
    ∀ i < 64, bit (base.q (1 : BitVec 3)) (4 * i) = false :=
  ⟨⟨base_issuing, rfl, by decide⟩, by decide⟩

theorem witness_ConversionAndPermuteResults_permutes : base.issuing ∧ base.unbound ∧ (3 : BitVec 3).toNat ≤ 3 := ⟨base_issuing, rfl, by decide⟩

/-! ### Witnesses: engines -/

/-- Copy registers for one row of 64 bytes. -/
def cpOne : Vector Ptr 5 := (Vector.replicate 5 (0 : Ptr)).set 0 (BitVec.ofNat 80 (2 ^ 32 + 64))
/-- The same, with a barrier object at offset 0x400 of SP2. -/
def cpBarrier : Vector Ptr 5 := (cpOne.set 3 (BitVec.ofNat 80 (2 ^ 31))).set 4 0
def copies (cp : Vector Ptr 5) : State := run { thread 0x100 0 [] [(1, sp2 0), (2, sp2 0x1000)] with cp := cp }
theorem copies_settled (cp : Vector Ptr 5) : (copies cp).settled := ⟨run_issuing _, rfl, rfl, rfl, rfl, rfl, rfl⟩
/-- A stream descriptor of one chunk at p2's place. -/
def streamBlock : List Nat := bytes 64 [(24, 1), (28, 1)]
def streams : State := put (run { thread 0x100 0 [] [(1, sp2 0)] with streams := [⟨29, false, 1, 0, 0, 1, 1, 0, 0, 0, false, [], 0, [], false⟩] }) 0 streamBlock
theorem streams_issuing : streams.issuing := ⟨0, 0, rfl, by decide, rfl⟩
theorem streams_settled : streams.settled := ⟨streams_issuing, by decide, by decide, by decide, by decide, by decide, by decide⟩
theorem witness_EngineCommands_copies :
    ((copies cpOne).settled ∧ cpLegal (copies cpOne).thr.cp = true ∧ (copies cpOne).room .cp .x ∧ (copies cpOne).barrierReady) ∧
    (base.settled ∧ cpLegal base.thr.cp = false) ∧
    (streams.settled ∧ 28 ≤ (28 : BitVec 5).toNat ∧ (1 : BitVec 2).toNat ≤ 1 ∧ streams.thr.stream 28 = none ∧
      streams.block (streams.p (1 : BitVec 5)) = some (streamBlock.map fun x => BitVec.ofNat 8 x) ∧
      streamLegal (streamBlock.map fun x => BitVec.ofNat 8 x) = true) ∧
    streams.thr.stream 31 = none ∧ ∃ x, streams.thr.stream 29 = some x ∧ x.write = false :=
  ⟨⟨copies_settled _, by decide, by unfold State.room; decide, .inl (by decide)⟩, ⟨base_settled, by decide⟩,
    ⟨streams_settled, by decide, by decide, by decide, by decide, by decide⟩, by decide, _, rfl, rfl⟩

/-- One descriptor in memory, well-formed, for a table that starts at tile 31; g2 and g3 hold the same. -/
def tileBytes : List Nat := (List.range 8).map (fun i => (tileOf 0 8 32 64).1.toNat / 256 ^ i % 256) ++ bytes 8 [(0, 16)]
def defines : State := put (run (thread 0x100 0 [(2, (tileOf 2 8 32 64).1), (3, 16), (4, 1)] [(1, sp2 0)])) 0 tileBytes
theorem defines_settled : defines.settled := ⟨⟨0, 0, rfl, by decide, rfl⟩, by decide, by decide, by decide, by decide, by decide, by decide⟩
theorem witness_TileTable :
    (defines.settled ∧ 1 ≤ (defines.g 4).toNat ∧ 31 + (defines.g 4).toNat ≤ 32 ∧
      defines.quietRead (defines.p (1 : BitVec 5)) 0 16 = some (tileBytes.map fun x => BitVec.ofNat 8 x) ∧ defines.tileFree 31 ∧
      tileWellFormed (BitVec.ofNat 64 (leAt (tileBytes.map fun x => BitVec.ofNat 8 x) 0 8),
        BitVec.ofNat 64 (leAt (tileBytes.map fun x => BitVec.ofNat 8 x) 8 8)) = true) ∧
    (defines.tileFree 0 ∧ tileWellFormed (defines.g 2, defines.g 3) = true ∧ defines.user = false ∧ bit (defines.g 2) 63 = true ∧
      bits (defines.g 2) 62 61 = 2) ∧
    ((30 : BitVec 5).toNat % 2 = 0 ∧ (31 : BitVec 5).toNat % 2 = 1 ∧ (defines.g 5).toNat = 0 ∧ 32 < 32 + (defines.g 4).toNat) ∧
    (engineWidth 0 6 ≠ 0 ∧ engineWidth 3 0 = 80 ∧ ((3, 0) : Nat × Nat) ≠ (2, 0)) :=
  ⟨⟨defines_settled, by decide, by decide, by decide, by unfold State.tileFree; decide, by decide⟩,
    ⟨by unfold State.tileFree; decide, by decide⟩, by decide, by decide⟩

/-- Core 0 with some tiles, a thread and engine registers for rows 0 to 31 of binary32. -/
def products (tiles : List (Nat × (Word × Word))) : State := inSlot 0
  { thread 0x100 0 [(2, 1)] [(1, sp2 0)] with mx := (Vector.replicate 7 (0 : Ptr)).set 4 (BitVec.ofNat 80 (0x0A * 2 ^ 24 + 31 * 2 ^ 8)) }
  { core with tiles := tiles.foldl (fun v x => v.setIfInBounds x.1 x.2) (Vector.replicate 32 (0, 0)), mxprog := 0x8000 }
theorem products_settled (t : List (Nat × (Word × Word))) : (products t).settled := ⟨⟨0, 0, rfl, by decide, rfl⟩, rfl, rfl, rfl, rfl, rfl, rfl⟩
theorem witness_EngineCommands_tiles :
    (∀ n ∈ [0, 2], (products [(3, tileOf n 8 32 64)]).room .tl .x ∧ tileV ((products [(3, tileOf n 8 32 64)]).tile 0 3) = true ∧
      tileState ((products [(3, tileOf n 8 32 64)]).tile 0 3) = n ∧ tileCols ((products [(3, tileOf n 8 32 64)]).tile 0 3) % 8 = 0) ∧
    (products []).barrierReady ∧ (products [(31, tileOf 2 8 32 64)]).tileReady 31 ∧
    locDieKey (bits ((products []).g 2) 23 0) = locDieKey (products []).loc ∧ (products []).softs = [] ∧ tileV ((products []).tile 0 3) = false :=
  ⟨by unfold State.room; decide, .inl (by decide), by unfold State.tileReady; decide, by decide, by decide⟩

/-- A block for `mx.send` with a word for `mx.zero` of accumulator 15. -/
def sendBlock (w : BitVec 32) : List Byte :=
  (List.range 64).map fun i => if i / 4 = 1 then BitVec.ofNat 8 (w.toNat / 256 ^ (i - 4)) else 0
def sends : State := (products []).sp2WriteBytes 0 0 (sendBlock (encode (.mxZero 0 15)))
theorem sends_settled : sends.settled := ⟨⟨0, 0, rfl, by decide, rfl⟩, by decide, by decide, by decide, by decide, by decide, by decide⟩
theorem witness_SwageAndMatrixCommands_matrix :
    ((products [(1, tileOf 2 8 32 64), (2, tileOf 2 8 64 32)]).settled ∧
      (products [(1, tileOf 2 8 32 64), (2, tileOf 2 8 64 32)]).cr.dq.length < 8 ∧
      (products [(1, tileOf 2 8 32 64), (2, tileOf 2 8 64 32)]).operandReady 1 8 32 64 ∧
      (products [(1, tileOf 2 8 32 64), (2, tileOf 2 8 64 32)]).operandReady 2 8 64 32 ∧
      operandPair (products []).cr.mxfmt = true ∧ mxxsReservedZero (products []).thr.mx = true ∧ mxInteger (products []).cr.mxfmt = false ∧
      bits (0 : Word) 31 0 % 32 = 0 ∧ moveLegal (products []).thr.mx = true ∧ mxcgReservedZero (products []).thr.mx = true ∧
      moveFmt (mxDFmt (products []).thr.mx) = true ∧ bit (products []).cr.mxprog 15 = true) ∧
    ((products []).unbound ∧ (products []).tileAwaits 0 15 = false ∧ (products []).softs = [] ∧ mxMode (products []).cr.mxfmt ≠ 4 ∧
      (products []).thr.outstanding .mx = 0) ∧
    (sends.settled ∧ sends.block (sends.p (1 : BitVec 5)) = some (sendBlock (encode (.mxZero 0 15))) ∧
      zeroBytes (sendBlock (encode (.mxZero 0 15))) 26 6 = true ∧ zeroBytes (sendBlock (encode (.mxZero 0 15))) 40 24 = true ∧
      bits (encode (.mxZero 0 15)) 31 26 = 0x2D ∧
      decodeWord (BitVec.ofNat 32 (leAt (sendBlock (encode (.mxZero 0 15))) 4 4)) = .ok (.mxZero 0 15)) :=
  ⟨⟨products_settled _, by decide, by unfold State.operandReady State.tileReady; decide, by unfold State.operandReady State.tileReady; decide,
    by decide⟩, ⟨rfl, by decide⟩, sends_settled, by decide, by decide, by decide, by decide, by rfl⟩

/-- A map of three qubits with its record at p1, and a plan of one target at p2 with its matrix at offset 0x200. -/
def mapBytes : List Nat := bytes 64 [(4, 3), (5, 0x0C), (24, 0), (25, 1), (26, 2), (9, 1)]
def planBytes : List Nat := bytes 64 ([(4, 1), (8, 2)] ++ (List.range 10).map fun i => (20 + i, (sp2 0x200).toNat / 256 ^ i % 256))
def mapped : State := put (put (run { thread 0x100 0 [(3, 2)] [(1, sp2 0), (2, sp2 64)] with
  stv := (Vector.replicate 2 (0 : Ptr)).set 0 (sp2 0) |>.set 1 3 }) 0 mapBytes) 64 planBytes
theorem mapped_settled : mapped.settled := ⟨⟨0, 0, rfl, by decide, rfl⟩, by decide, by decide, by decide, by decide, by decide, by decide⟩
theorem witness_SwageAndMatrixCommands_swage :
    (mapped.settled ∧ mapped.block (mapped.p (1 : BitVec 5)) = some (mapBytes.map fun x => BitVec.ofNat 8 x) ∧
      stvMapOk (mapBytes.map fun x => BitVec.ofNat 8 x) = true) ∧
    (mapped.thr.stv.get 0 ≠ 0 ∧ bits (mapped.thr.stv.get 1) 5 0 ≠ 0 ∧ (mapped.g 0).toNat < 3 ∧ (mapped.g 3).toNat < 3 ∧ mapped.g 0 ≠ mapped.g 3 ∧
      mapped.block (mapped.p (2 : BitVec 5)) = some (planBytes.map fun x => BitVec.ofNat 8 x) ∧
      planOk (planBytes.map fun x => BitVec.ofNat 8 x) 3 = true ∧
      mapped.quietRead (BitVec.ofNat 80 ((mapped.thr.stv.get 0).toNat / 64 * 64) + 5) 0 1 = some [0x0C] ∧
      mapped.quietRead (BitVec.ofNat 80 (leAt (planBytes.map fun x => BitVec.ofNat 8 x) 20 10)) 0 (2 ^ 1 * 2 ^ 1 * stvBytes 0x0C) =
        some (List.replicate 32 0)) ∧
    bits (mapped.thr.stv.get 1) 63 6 = 0 ∧
    (base.settled ∧ base.thr.stv.get 0 = 0 ∧ bits (base.thr.stv.get 1) 63 6 = 0) ∧
    (run { thread 0x100 0 [] [] with stv := (Vector.replicate 2 (0 : Ptr)).set 1 64 }).settled ∧
    bits ((run { thread 0x100 0 [] [] with stv := (Vector.replicate 2 (0 : Ptr)).set 1 64 }).thr.stv.get 1) 63 6 ≠ 0 :=
  ⟨⟨mapped_settled, by decide⟩, by decide, by decide, ⟨base_settled, by decide⟩, ⟨run_issuing _, rfl, rfl, rfl, rfl, rfl, rfl⟩, by decide⟩

/-! ### Witnesses: groups, messages, transfers, the tape, endpoints -/

/-- A group object at offset 0 of SP2, named by p1, as it stands. -/
def grouped (mcount arrived pend : Nat) (valid : Bool) (team : Nat) (w : Option GbarWait) : State :=
  (run { thread 0x100 0 [] [(1, sp2 0)] with gbarWait := w }).sp2WriteBytes 0 0
    ((⟨BitVec.ofNat 32 mcount, BitVec.ofNat 32 arrived, 7, BitVec.ofNat 32 pend, 0, if valid then 1 else 0, BitVec.ofNat 32 team⟩ : Group).toBytes
      (List.replicate 28 0))
theorem grouped_there (mcount arrived pend : Nat) (valid : Bool) (team : Nat) (w : Option GbarWait) :
    (grouped mcount arrived pend valid team w).issuing := by
  refine ⟨0, 0, ?_, by decide, ?_⟩ <;> simp [grouped, run, inSlot, State.reset]
theorem witness_GroupResults :
    (∀ x ∈ [(0, 0, 0, false, 0), (3, 0, 0, true, 0), (3, 2, 1, true, 0), (3, 1, 0, true, 0), (1, 0, 0, true, 9)],
      let s := grouped x.1 x.2.1 x.2.2.1 x.2.2.2.1 x.2.2.2.2 none
      s.thr.waits = [] ∧ s.thr.sent = 0 ∧ s.thr.sentHere = 0 ∧ s.thr.xedges = [] ∧ Memory.wf s.mem = true ∧
      (s.p (1 : BitVec 5)).toNat % 64 = 0 ∧ s.quietParts .atomic (s.p (1 : BitVec 5)) 0 64 = some [(sp2Pa 0 0, 0, 64)] ∧
      s.quietRead (s.p (1 : BitVec 5) + 16) 0 1 = some [0] ∧ s.thr.gbarWait = none ∧ s.thr.gbarScope = none ∧
      s.posted s.thr.uid = [] ∧ s.cl.fails = [] ∧ s.unsent s.thr.uid = []) ∧
    (∀ n ∈ [4, 5, 6], (put (grouped 3 0 0 true 0 none) 16 [n]).quietRead (sp2 16) 0 1 = some [BitVec.ofNat 8 n] ∧
      (put (grouped 3 0 0 true 0 none) 16 [n]).thr.gbarScope = none) ∧
    (5 : BitVec 3).toNat ≤ 5 ∧ ¬ bit ((grouped 0 0 0 false 0 none).groupAt 0 (sp2Pa 0 0)).flags 0 = true ∧
    (let o := (grouped 3 0 0 true 0 none).groupAt 0 (sp2Pa 0 0);
      bit o.flags 0 = true ∧ o.team = 0 ∧ o.arrived = 0 ∧ ¬ o.mcount ≤ o.arrived + 1) ∧
    (let o := (grouped 3 2 1 true 0 none).groupAt 0 (sp2Pa 0 0);
      bit o.flags 0 = true ∧ o.team = 0 ∧ o.arrived ≠ 0 ∧ o.mcount ≤ o.arrived + 1) ∧
    (let o := (grouped 1 0 0 true 9 none).groupAt 0 (sp2Pa 0 0);
      bit o.flags 0 = true ∧ o.team ≠ 0) ∧
    (let s := grouped 3 1 0 true 0 (some ⟨sp2Pa 0 0, 0, 6, 0, true⟩);
      ∃ w, s.thr.gbarWait = some w ∧ w.released = true) :=
  ⟨by decide, by decide, by decide, by decide, by decide, by decide, by decide, ⟨sp2Pa 0 0, 0, 6, 0, true⟩, by decide, rfl⟩

/-- Core 1 beside core 0; g1 names it. -/
def beside (status : Nat) : State :=
  let s := run (thread 0x100 status [(1, 1)] [(1, sp2 0)])
  { s with cores := s.cores ++ [(1, Core.reset 1)] }
theorem beside_settled (n : Nat) : (beside n).settled := ⟨⟨0, 0, rfl, by decide, rfl⟩, rfl, rfl, rfl, rfl, rfl, rfl⟩
theorem witness_MessageAndTaskResults :
    ((beside 0).settled ∧ (beside 0).cur = .slot 0 0 ∧ locKind (bits ((beside 0).g 1) 25 0) ≤ 1 ∧
      (beside 0).coreThere (bits ((beside 0).g 1) 25 0) = true ∧ locModule (bits ((beside 0).g 1) 25 0) = locModule 0 ∧
      (beside 0).heldBy 0 < 256 ∧ bit ((beside 0).g 1) 63 = false ∧ (25 : BitVec 5).toNat ≤ 25 ∧ (beside 0).unbound) ∧
    ((beside 0).user = false ∧ (beside 0).quietRead ((beside 0).p (1 : BitVec 5)) 0 80 = some (List.replicate 80 0) ∧
      (beside 0).cr.inbox.length < 63 ∧ (beside 0).cr.redirect = []) ∧ (beside 1).user = true ∧ 5 ≤ (5 : BitVec 3).toNat ∧
    ((beside 0).inBody = false ∧ (beside 0).posted (beside 0).thr.uid = [] ∧ (beside 0).cl.fails = [] ∧ (beside 0).thr.opens = [] ∧
      (beside 0).thr.buffer = [] ∧
      (beside 0).thr.forming = none ∧ (beside 0).cr.diverted = false) :=
  ⟨⟨beside_settled 0, rfl, by decide, by decide, by decide, by decide, by decide, by decide, rfl⟩, by decide, by decide, by decide,
    by decide⟩

/-- Registers for a transfer of elements of binary32, and the control bits; `tapel` bounds the tape. -/
def transfers (count ctl tapel : Nat) (hand : List HandSlot) : State := inSlot 0
  { thread 0x100 0 [] [(1, sp2 0)] with ni :=
      ((Vector.replicate 4 (0 : Ptr)).set 2 (BitVec.ofNat 80 (2 ^ 48 + 0x0A * 2 ^ 40 + count))).set 3 (BitVec.ofNat 80 ctl) }
  { core with tapel := BitVec.ofNat 64 tapel, hand := hand }
theorem transfers_settled (a b c : Nat) (h : List HandSlot) : (transfers a b c h).settled :=
  ⟨⟨0, 0, rfl, by decide, rfl⟩, rfl, rfl, rfl, rfl, rfl, rfl⟩
theorem witness_TransferCommands :
    (∀ kind ∈ [1, 2, 3, 4, 5], transferLegal kind (transfers 1 0 0 []).thr.ni = true ∧ niGlb (transfers 1 0 0 []).thr.ni = false) ∧
    (transfers 1 0 0 []).settled ∧ (transfers 1 0 0 []).unbound ∧ niHq (transfers 1 0 0 []).thr.ni = false ∧
    niAdd (transfers 1 0x20 0 []).thr.ni = true ∧
    (let s := transfers 1024 0x40 0 [⟨1, 0, 0x0A, []⟩];
      transferLegal 5 s.thr.ni = true ∧ niHq s.thr.ni = true ∧
      (∃ q, s.cr.hand.find? (fun z => z.uid = s.thr.uid) = some q ∧ q.fmt = niFmt s.thr.ni ∧
        niCount s.thr.ni * (niRwm1 s.thr.ni + 1) = 1024)) ∧
    (let s := transfers 1 0 2 [];
      s.cl.quota s.cr.tapeb s.cr.tapel (listUnits 2 s.thr.ni) = .ok 1024 ∧ bits s.cr.tapep 1 0 = 0) ∧
    (let s := transfers 1 0 1 [];
      s.cl.quota s.cr.tapeb s.cr.tapel (listUnits 2 s.thr.ni) = .error 3) ∧
    transferLegal 1 (transfers 0 0 0 []).thr.ni = false ∧
    ((2 : BitVec 2) ≠ 3 ∧ niReservedZero (transfers 1 4 0 []).thr.ni = true ∧ niMode (transfers 1 4 0 []).thr.ni ≤ 4 ∧
      addFmt (niFmt (transfers 1 4 0 []).thr.ni) = true ∧ niCount (transfers 1 4 0 []).thr.ni ≠ 0) :=
  ⟨by decide, transfers_settled _ _ _ _, rfl, by decide, by decide, ⟨by decide, by decide, _, rfl, by decide, by decide⟩,
    ⟨by rfl, by decide⟩, by rfl, by decide, by decide⟩

/-- A tape with one entry, g1 its handle, g2 a handle that is null; blocks at p1. -/
def entry : TapeEntry := ⟨5, 9, 1, 0x0A, false, false, 1, 0, 0, 0, 0, 0, 0, 0, 1, [0], 0, 0, 0, false⟩
def taped (b : List Nat) : State :=
  put { run (thread 0x100 0 [(1, handleOf 0 5 9), (2, 0)] [(1, sp2 0)]) with clusters := [(0, { Cluster.reset with tape := [entry] })] } 0 b
def replayBytes : List Nat := bytes 64 [(12, 0x0E), (13, 4), (14, 7), (15, 1)]
def treeBytes : List Nat := bytes 64 [(7, 0x80), (8, 8)]
def putBytes (key : Nat) : List Nat := bytes 64 [(4, 7), (5, 2), (28, 1), (55, key)]
theorem taped_issuing : (taped treeBytes).issuing := ⟨0, 0, rfl, by decide, rfl⟩
theorem witness_TapeTreeAndEndpointResults :
    ((taped treeBytes).settled ∧ (taped treeBytes).softs = [] ∧ (taped treeBytes).block ((taped treeBytes).p (1 : BitVec 5)) = some (treeBytes.map fun x => BitVec.ofNat 8 x) ∧
      treeBlock (treeBytes.map fun x => BitVec.ofNat 8 x) = true ∧ (taped treeBytes).cl.trees.length < 256) ∧
    ((taped replayBytes).entryOf ((taped replayBytes).g 1) = .ok entry ∧ entry.reading = false) ∧
    ((taped replayBytes).block ((taped replayBytes).p (1 : BitVec 5)) = some (replayBytes.map fun x => BitVec.ofNat 8 x) ∧
      replayBlock (replayBytes.map fun x => BitVec.ofNat 8 x) = true ∧ replayFmt entry.fmt = true) ∧
    (taped replayBytes).entryOf ((taped replayBytes).g 2) = .error 0 ∧
    (taped (putBytes 0)).block ((taped (putBytes 0)).p (1 : BitVec 5)) = some ((putBytes 0).map fun x => BitVec.ofNat 8 x) ∧
    (transferBlock ((putBytes 0).map fun x => BitVec.ofNat 8 x) false = true ∧
      transferBlock ((putBytes 0x80).map fun x => BitVec.ofNat 8 x) true = true ∧
      transferBlock (treeBytes.map fun x => BitVec.ofNat 8 x) false = false ∧
      ((taped (putBytes 0)).armed 0 7).length < 256 ∧ bit ((taped (putBytes 0)).die 0).epcfg 63 = false) :=
  ⟨⟨⟨taped_issuing, by decide, by decide, by decide, by decide, by decide, by decide⟩, rfl, by decide, by decide, by decide⟩, ⟨by rfl, rfl⟩, by decide, by rfl,
    by decide, by decide⟩

/-! ### Witnesses: steps of the other agents -/

/-- A request of core 0 with one part, as far along as told. -/
def asks (op : ReqOp) (pa : Nat) (data : List Byte) (sent performed replied : Bool) (outcome : Option (BitVec 8)) : State :=
  { base with
    reqs := [⟨1, 1, 0, 0, 0, op, 0, false, 0, [⟨0, 0, pa, 8, 8, 0, data, performed, outcome⟩], sent, performed, replied, none, 0, none, 0⟩]
    nextId := 2 }
def asked1 (s : State) : Req := (s.req 1).getD ⟨0, 0, 0, 0, 0, .read, 0, false, 0, [], false, false, false, none, 0, none, 0⟩
/-- A matrix command on its way to a core of module 1. -/
def oneCommand (kind : CmdKind) (performed : Bool) (fault : Option FaultRec) (barrier : Option (Ptr × BitVec 32)) : Cmd :=
  ⟨1, 1, 0, 1, 5, 0, false, core.winp.toList, 0, Vector.replicate 7 0, cpOne, Vector.replicate 4 0, Vector.replicate 2 0, 0x808, 0, 0,
    false, 0, kind, barrier, 0, performed, false, 0, none, fault⟩
/-- Module 0 reaches module 1 through port 62, whose reconfiguration is announced. -/
def reroutes (s : State) : State :=
  { s with modules := [(0, { Module.reset 0 with routes := [(1, 62)], links := [(62, { (Module.reset 0).link 62 with wired := some (1, 62), ocs := 1 })] })] }
theorem witness_RequestSteps :
    ((invalidates.invals.find? (fun x => x.id = 1)).isSome = true ∧
      (∃ i, ({ invalidates with invals := [⟨1, 1, 0, 3, none, 0, none, true, 2, []⟩] } : State).invals.find? (fun x => x.id = 1) = some i ∧
        i.dropped = true ∧ ({ invalidates with invals := [⟨1, 1, 0, 3, none, 0, none, true, 2, []⟩] } : State).inFlight i = false)) ∧
    (let s := asks .read (mkPa 1 0 0 0) [] false false false none;
      s.req 1 = some (asked1 s) ∧ (asked1 s).sent = false ∧ s.requestHeld (asked1 s) = false ∧ s.requestBehind (asked1 s) = false ∧ s.member 1 = true ∧ s.cutOff 0 1 = false ∧ ({ s with unreachable := [1] } : State).cutOff 0 1 = true ∧
      (reroutes s).req 1 = some (asked1 s) ∧ (reroutes s).requestHeld (asked1 s) = true ∧
      (let s : State := { s with reqs := s.reqs.map (fun r => { r with id := 0, op := .write }) ++ s.reqs }; ∃ r ∈ s.reqs, s.req 1 = some r ∧ r.sent = false ∧ s.requestBehind r = true)) ∧
    (let s := asks .read (sp2Pa 0 0) [] true false false none;
      s.req 1 = some (asked1 s) ∧ Memory.wf s.mem = true ∧ (asked1 s).parts = [⟨0, 0, sp2Pa 0 0, 8, 8, 0, [], false, none⟩] ∧ s.errs = [] ∧
      paKind (sp2Pa 0 0) = 1 ∧ s.homeCheck false (sp2Pa 0 0) 8 = none ∧ s.cutOff 0 (paModule (sp2Pa 0 0)) = false ∧ s.replyPaused (asked1 s) = false ∧
      (asked1 s).replied = false ∧ s.cmd 1 = none) ∧
    (let s := asks .write (sp2Pa 1024 0) (List.replicate 8 7) true false false none;
      s.req 1 = some (asked1 s) ∧ (List.replicate 8 (7 : Byte)).length = 8 ∧ s.homeCheck false (sp2Pa 1024 0) 8 = none ∧
      s.inContextTable (sp2Pa 1024 0) 8 = false) ∧
    (let s := asks .read (sp2Pa 1024 0) (List.replicate 8 7) true true false none;
      s.req 1 = some (asked1 s) ∧ (asked1 s).performed = true ∧ (asked1 s).op ≠ .write ∧
      (s.cluster 0).parked.find? (fun y => y.req = some 1) = none ∧ s.reconfiguring = false ∧
      (({ s with clusters := [(0, { Cluster.reset with parkcfg := 1, parked := [⟨0, 1, 0, some 1, [], [], [], 0, none, none⟩] })] } : State).cluster 0).parked.find?
        (fun y => y.req = some 1) = some ⟨0, 1, 0, some 1, [], [], [], 0, none, none⟩) ∧
    (let s := { asks .read 0 [] true false false none with cmds := [oneCommand (.mxSend (mkLoc 0 1 0 0 0) 0 0 0 0) false none none] };
      s.req 1 = some (asked1 s) ∧ s.cmd 1 = some (oneCommand (.mxSend (mkLoc 0 1 0 0 0) 0 0 0 0) false none none)) ∧
    (let s := asks .write (sp2Pa 1024 0) [] true true false (some 3);
      s.req 1 = some (asked1 s) ∧ (asked1 s).performed = true ∧ (asked1 s).op = .write ∧ ∃ x ∈ (asked1 s).parts, x.outcome ≠ none) :=
  ⟨⟨by decide, ⟨1, 1, 0, 3, none, 0, none, true, 2, []⟩, by decide, rfl, by decide⟩, by decide, by decide, by decide, by decide, by decide, by decide⟩

/-- A message with a header for core 0; an inbox of `n` such messages. -/
def message (held queued : Bool) : Msg := ⟨1, 1, 0, 0x2001, [1, 2, 3, 4, 5, 6, 7], 0, 0, none, none, false, none, held, queued, 0⟩
def inMsg (diverted : Bool) : InMsg := ⟨0x2001, [1, 2, 3, 4, 5, 6, 7], 0, 0, 0, 0, diverted, false, 2, none, none, 0, none⟩
def inboxed (n : Nat) (m : List Msg) (div : Bool) : State :=
  { inSlot 4 Thread.reset { core with inbox := List.replicate n (inMsg div), htbase := 0 } with msgs := m }
theorem witness_MessageSteps :
    (∀ h ∈ [false, true], let s := inboxed 62 [message h false] false;
      s.msg 1 = some (message h false) ∧ s.coreThere 0 = true ∧ s.cutOff ((message h false).ni / 2 ^ 10) (locModule 0) = false ∧
      s.mustWait (message h false) = false ∧ s.routePaused ((message h false).ni / 2 ^ 10) (locModule 0) = false ∧ (s.core 0).redirect = [] ∧ (message h false).rank = none ∧ (s.core 0).inbox.length < 63) ∧
    64 ≤ ((inboxed 64 [message false false] false).core 0).inbox.length ∧
    (inboxed 0 [message false true] false).msg 1 = some (message false true) ∧
    (let s := inboxed 1 [] false;
      s.selectSlot 0 = some 0 ∧ (s.core 0).pick = some (inMsg false) ∧ hidxOf (inMsg false).header < 0xFFE ∧ (s.handler 0 1).2 = none ∧
      ((put1 s 0 4 [0, 1, 0, 0x80]).handler 0 1).2 = some (0x100, false)) ∧
    ((inboxed 1 [] true).core 0).inbox = [] ++ inMsg true :: [] ∧ (∀ x ∈ ((inboxed 1 [] false).core 0).inbox, x.diverted = false) ∧
    (List.replicate 64 (0 : Byte)).length = 64 ∧ (11 * 2 ^ 16 + 0xFFC0) % 64 = 0 ∧ 11 * 2 ^ 16 + 0xFFC0 < 12 * 2 ^ 16 ∧
    (List.replicate 63 (0 : Byte)).length ≠ 64 :=
  ⟨by decide, by decide, by decide, by decide, by decide, by decide, by decide, by decide, by decide, by decide⟩

/-- Die 0 with a HOTCFG value and migration slot 7 as told. -/
def migrates (hotcfg : Nat) (src dst ctl stat : Nat) : State :=
  let m : MigSlot := ⟨BitVec.ofNat 64 src, BitVec.ofNat 64 dst, BitVec.ofNat 64 ctl, BitVec.ofNat 64 stat⟩
  { State.reset with dies := [(0, { Die.reset with hotcfg := BitVec.ofNat 64 hotcfg, mig := Die.reset.mig.set 7 m })] }
/-- A hotness table from 16 MB on lies apart from the table of contexts, and an idle slot migrates no frame of it. -/
theorem migrates_apart (x a b c d g : Nat) (h : x < 2 ^ 12) (hg : g < 2 ^ 21) :
    (migrates (x + 1) a b c d).inContextTable (mkPa 0 0 0 (bits ((migrates (x + 1) a b c d).die 0).hotcfg 12 0 * 2 ^ 24) + 8 * g) 8 = false := by
  have h2 : bits ((migrates (x + 1) a b c d).die 0).hotcfg 12 0 = x + 1 := by
    show bits (BitVec.ofNat 64 (x + 1)) 12 0 = x + 1
    simp only [bits, BitVec.toNat_ofNat]; omega
  rw [h2]
  have h3 : ((migrates (x + 1) a b c d).module 0).ctxtbl.toNat = 0 := rfl
  have h4 : paModule (mkPa 0 0 0 ((x + 1) * 2 ^ 24) + 8 * g) = 0 := by
    simp only [paModule, mkPa]; omega
  unfold State.inContextTable
  rw [h4, h3]
  rw [Bool.and_eq_false_iff]
  exact .inr (decide_eq_false (by simp only [mkPa, contextTableBytes]; omega))
theorem migrates_still (h pa : Nat) : (migrates h 0 0 0 0).migOf pa = none := by
  have hm : ∀ dk, ((migrates h 0 0 0 0).die dk).mig = Vector.replicate 8 ⟨0, 0, 0, 0⟩ := by
    intro dk
    by_cases hd : dk = 0
    · subst hd; rfl
    · simp [migrates, State.die, SMap.find?, Ne.symm hd, Die.reset]
  unfold State.migOf
  split
  · rw [hm]; rfl
  · rfl
theorem witness_MigrationSteps :
    (Memory.wf (migrates 0 0 0 0 0).mem = true ∧ 7 < 8) ∧ bit ((migrates (2 ^ 61) 0 0 0 0).die 0).hotcfg 61 = true ∧
    (let d := (migrates (2 ^ 44) 0 0 0 0).die 0;
      bits d.hotcfg 47 44 ≠ 0 ∧ bit d.hotcfg 61 = false) ∧
    (let s := migrates 0 0 4096 0 0;
      bits (s.migSlot 0 7).stat 63 62 = 0 ∧ s.migMalformed 0 7 = false ∧ (migrates 0 0 0 0 0).migMalformed 0 7 = true) ∧
    (∀ p ∈ [1, 2, 3], bits ((migrates 0 0 4096 0 (p * 2 ^ 62)).migSlot 0 7).stat 63 62 = p) ∧
    (let s := migrates 0 0 (2 ^ 30) 0 (2 ^ 62);
      s.inContextTable (2 ^ 30) 4096 = false ∧ s.migOf (2 ^ 30) = none ∧ s.routePaused (0 / 16) (paModule (2 ^ 30)) = false ∧ s.cutOff (0 / 16) (paModule (2 ^ 30)) = false ∧ s.paThere (2 ^ 30) 4096 = true ∧
      s.beyondHbm (2 ^ 30) 4096 = false ∧ s.eccBad 0 4096 = false ∧ s.beyondHbm 0 4096 = false) := by decide

/-- Cluster 0 and die 0 as told. -/
def withCluster (c : Cluster) : State := { base with clusters := [(0, c)] }
def withDie (d : Die) : State := { base with dies := [(0, d)] }
theorem witness_RegisterSteps :
    (Memory.wf base.mem = true ∧ 2 ^ 20 - 1 < 2 ^ 20 ∧ 4 < 5) ∧
    (((withCluster { Cluster.reset with parkPend := some 1 }).cluster 0).parkPend = some 1 ∧
      ((withCluster { Cluster.reset with parkPend := some 1 }).cluster 0).parked = [] ∧
      ((withCluster { Cluster.reset with parked := [⟨0, 1, 0, none, [], [], [], 0, none, none⟩] }).cluster 0).parked ≠ []) ∧
    (ctxAllowed (chooses.core 0).ctxalw (bits (2 : Word) 15 0) = true ∧ ctxAllowed (chooses.core 0).ctxalw (bits (6 : Word) 15 0) = false) ∧
    (regOff 1 % 8 ≠ 0 ∧ regOff 0x200000080 = 0x200000080 ∧ regOff 0x200000090 = 0x200000090 ∧ regOff 0x100000028 = 0x100000028) ∧
    (bits (base.cluster 0).trccfg 61 57 = 0 ∧
      (∀ b ∈ [2 ^ 48, 2 ^ 30], let s := withCluster { Cluster.reset with trccfg := BitVec.ofNat 64 (2 ^ 63 + 2 ^ 62 + 2 ^ 57), trcbase := BitVec.ofNat 64 b };
        bits (s.cluster 0).trccfg 61 57 ≠ 0 ∧ bit (s.cluster 0).trccfg 63 = true ∧ bits (s.cluster 0).trccfg 31 0 = 0 ∧
        s.trcPlace 0 = (if b = 2 ^ 30 then some (2 ^ 30) else none)) ∧
      (∀ i < 32, base.migOf (2 ^ 30 + i) = none) ∧ base.inContextTable (2 ^ 30) 32 = false ∧ 0 ∈ clusterLocs 0 ∧ (base.threadAt 0 0).st = .running ∧
      ((clusterLocs 0).map fun y => ((List.range 5).filter fun j => (base.threadAt y j).st = .running).length).sum = 1) := by decide
theorem witness_RegisterSteps_accounting :
    (bit (base.die 0).acctcfg 63 = false ∧
      (∀ w ∈ [false, true],
        let s := withDie { Die.reset with acctcfg := BitVec.ofNat 64 (2 ^ 63 + 1), acctWriting := w, acctbase := BitVec.ofNat 64 (2 ^ 30) };
        bit (s.die 0).acctcfg 63 = true ∧ (s.die 0).acctWriting = w ∧
        s.acctPlace 0 (s.die 0).acctSeq.toNat = some (2 ^ 30) ∧ bit (s.die (paDieKey (2 ^ 30))).hotcfg 63 = false ∧ (∀ i < 8, s.migOf (2 ^ 30 + 4096 * i) = none) ∧
        s.inContextTable (2 ^ 30) (2 ^ 15) = false) ∧
      (withDie { Die.reset with acctcfg := BitVec.ofNat 64 (2 ^ 63 + 1), acctbase := 1 }).acctPlace 0 0 = none) := by decide
/-- A command of slot 0 in flight, with the thread's record of it. -/
def flying (kind : CmdKind) (performed : Bool) (fault : Option FaultRec) (barrier : Option (Ptr × BitVec 32)) (faults : List FaultRec) : State :=
  { run { thread 0x100 0 [] [] with
      opens := [⟨1, 1, 5, .none, .x, false⟩], faults := faults, k := (Vector.replicate 8 ⟨0, 0⟩).set 1 ⟨5, 4⟩ } with
    cmds := [oneCommand kind performed fault barrier] }
theorem flying_disarmed : (flying (.fill 0 0) true none none []).disarmed := by unfold State.disarmed; decide
/-- A barrier object of two arrivals at offset 0x400 of SP2, at a generation and a count. -/
def barrierBytes (gen count : Nat) : List Nat := bytes 16 [(0, gen), (4, count), (8, 2)]
/-- A stream in v28 of a slot. -/
def streaming (write : Bool) (ready : List Vec) (used : Nat) : Stream := ⟨28, write, 1, 0, sp2 0, 2, 1, 256, 0, 0, false, core.winp.toList, used, ready, false⟩
theorem witness_EngineSteps_Completion :
    (∀ f ∈ [none, some FaultRec.zero], let s := flying (.fill 0 0) true f none [];
      s.cmd 1 = some (oneCommand (.fill 0 0) true f none) ∧ s.placeOf 1 = some (.slot 0 0) ∧
      ((s.threadAt 0 0).opens.filter fun z => z.ctr = 1) = [⟨1, 1, 5, .none, .x, false⟩]) ∧
    (flying (.fill 0 0) true none none []).disarmed ∧
    ((flying (.fill 0 0) true none none (List.replicate 4 FaultRec.zero)).threadAt 0 0).faults.length = 4 ∧
    (let c := oneCommand (.copy (sp2 0x100) (sp2 0)) false none none;
      let s := flying (.copy (sp2 0x100) (sp2 0)) false none none [];
      s.cmd 1 = some c ∧ cpRows c.cp = 1 ∧ (s.quietAt c.copyWho .load (sp2 0) (cpSrcXs c.cp) (cpRowBytes c.cp)).isSome = true ∧
      (s.quietAt c.copyWho .store (sp2 0x100) (cpDstXs c.cp) (cpRowBytes c.cp)).isSome = true) ∧
    (∀ x ∈ [(3, 0), (3, 1), (4, 0)], let c := oneCommand (.fill 0 0) true none (some (sp2 0x400, 3));
      let s := put (flying (.fill 0 0) true none (some (sp2 0x400, 3)) []) 0x400 (barrierBytes x.1 x.2);
      let word := fun (i : Nat) => leAt (s.readBytes clearKey (sp2Pa 0 0x400) 64) (4 * i) 4;
      s.cmd 1 = some c ∧ c.barrier = some (sp2 0x400, 3) ∧ s.quietAt c.copyWho .atomic (sp2 0x400) 0 64 = some [(sp2Pa 0 0x400, 0, 64)] ∧
      word 2 ≠ 0 ∧ zeroBytes (s.readBytes clearKey (sp2Pa 0 0x400) 64) 16 48 = true ∧ word 0 = x.1 ∧ word 1 = x.2) ∧
    (let x := streaming false [0, 0, 0] (0 - 0);
      let s := run { thread 0x100 0 [] [] with streams := [{ x with n0 := 4 }] };
      (s.threadAt 0 0).stream 28 = some { x with n0 := 4 } ∧ x.write = false ∧ x.ready.length < 4 ∧ x.used + x.ready.length < ({ x with n0 := 4 } : Stream).total ∧
      (s.quietAt (({ x with n0 := 4 } : Stream).who 0) .load (({ x with n0 := 4 } : Stream).chunkAt 3) 0 256).isSome = true) ∧
    (let x := streaming true [7] 2;
      let s := run { thread 0x100 0 [] [] with streams := [x] };
      (s.threadAt 0 0).stream 28 = some x ∧ x.write = true ∧ x.stopped = false ∧ x.ready = 7 :: [] ∧
      (s.quietAt (x.who 0) .store (x.chunkAt (x.used - x.ready.length)) x.xs.toNat 256).isSome = true) :=
  ⟨by decide, flying_disarmed, by decide, by decide, by decide, by decide, by decide⟩

/-- Two commands that name each other's core in an exchange. -/
def exchanges : State :=
  { base with cmds := [oneCommand (.tswap 31 (tileOf 2 8 32 64) 1) false none none,
      { oneCommand (.tswap 31 (tileOf 2 8 16 64) 0) false none none with id := 2, loc := 1 }] }
/-- A drain behind a product that names its tile. -/
def drains : State :=
  { base with cmds := [oneCommand (.mac false false false 0 0 0 (some (tileOf 2 8 32 64)) none false) false none none,
      { oneCommand (.tdrain 31 (tileOf 2 8 32 64) 0 0 false) false none none with id := 2 }] }
/-- A tree of one member, its root, for the team and rank 0. -/
def treed (parent : Bool) : State :=
  let s := flying (.coll 0 3 (sp2 0x100) (sp2 0)) false none none []
  { s with
    cmds := s.cmds.map fun c => { c with ni := (Vector.replicate 4 (0 : Ptr)).set 2 (BitVec.ofNat 80 (0x0A * 2 ^ 40 + 4)) }
    clusters := [(0, { Cluster.reset with trees := [⟨3, 0, 0, true, 0, []⟩] ++ if parent then [⟨3, 0, 1, false, 0, []⟩] else [] })] }
/-- The placement entry of a rank that is live in cluster 0. -/
def placementWord : Word := BitVec.ofNat 64 (1 * 2 ^ 26)
/-- An endpoint that is enabled, and a receive armed on it. -/
def endpoint (cmds : List Cmd) : State := { base with dies := [(0, { Die.reset with epcfg := BitVec.ofNat 64 (2 ^ 63) })], cmds := cmds }
def receive : Cmd := oneCommand (.ethRecv 0 (sp2 0) 64 0xFFFFFFFF (BitVec.ofNat 64 (2 ^ 63))) false none none
theorem witness_EngineSteps_Unit :
    (31 < 32 ∧ Memory.wf base.mem = true ∧ base.watch = none ∧ base.reconfiguring = false ∧ (flying (.tfill 31 (0, 0) 0 0 false) false none none []).cmd 1 =
      some (oneCommand (.tfill 31 (0, 0) 0 0 false) false none none)) ∧
    ((flying (.tdrain 31 (0, 0) 0 0 false) false none none []).cmd 1 = some (oneCommand (.tdrain 31 (0, 0) 0 0 false) false none none) ∧
      (flying (.tdrain 31 (0, 0) 0 0 false) false none none []).namedBefore (oneCommand (.tdrain 31 (0, 0) 0 0 false) false none none) (0, 0) = false ∧
      drains.namedBefore { oneCommand (.tdrain 31 (tileOf 2 8 32 64) 0 0 false) false none none with id := 2 } (tileOf 2 8 32 64) = true) ∧
    (exchanges.swapPartner 0 31 1 = exchanges.cmd 2 ∧ (exchanges.cmd 2).isSome = true ∧ (1 : Nat) ≠ 0 ∧ (2 : Nat) ≠ 1 ∧
      tilesAlike (tileOf 2 8 32 64) (tileOf 2 8 16 64) = false) ∧
    (let s := { inSlot 0 (thread 0x100 0 [] []) { core with dq := [1] } with cmds := [oneCommand (.mxZero 15) false none none] };
      s.nextQueue 0 0 = some (0, 1)) ∧
    (let c := { core with mxcapkey := 5, mxcapctl := 0 };
      let s := inSlot 0 (thread 0x100 0 [] []) c;
      s.coreThere 0 = true ∧ s.cutOff (locModule 0) (locModule 0) = false ∧ s.routePaused (locModule 0) (locModule 0) = false ∧ capabilityOk (s.core 0) 0 6 0 = false ∧ (s.core 0).dq.length < 8) ∧
    (let s := flying .stvMap false none none [];
      ∀ z ∈ s.cmds, z.id < 1 → z.performed = false → sameStv z (oneCommand .stvMap false none none) = false) ∧
    (let s := treed false;
      s.otherMembers 0 3 0 = [] ∧ s.treeFor 0 3 0 = some ⟨3, 0, 0, true, 0, []⟩ ∧ s.collOf 0 3 0 = s.cmd 1 ∧ (s.cmd 1).isSome = true ∧
      ∀ c ∈ s.cmds, (s.quietAt c.niWho .load (sp2 0) 0 (niCount c.ni * Float.fmtBytes (niFmt c.ni))).isSome = true ∧
        (s.quietAt c.niWho .store (sp2 0x100) 0 (niCount c.ni * Float.fmtBytes (niFmt c.ni))).isSome = true) ∧
    ((treed true).collDisagrees 0 3 0 = true ∧ (treed true).collOf 0 3 0 = (treed true).cmd 1) ∧
    (let s := flying (.sndz 0 0 true 0) false none none []; (s.teams.find? fun t => t.team = 0) = none) ∧
    (let key : Word := BitVec.ofNat 64 (2 ^ 63);
      bit ((endpoint []).die 0).epcfg 63 = true ∧ bit key 63 = true ∧ (endpoint []).receiveFor 0 9 5 key = none ∧ (9, 5) ∉ ((endpoint []).die 0).taken ∧
      (endpoint [receive]).receiveFor 0 9 5 key = some receive ∧ 64 ≤ 64 ∧ 64 ≤ receive.placed + (List.replicate 64 (0 : Byte)).length ∧
      ((endpoint [receive]).quietAt (receive.ethWho 0) .store (sp2 0 + (0 : Word).zeroExtend 80) 0 64).isSome = true) := by decide

/-- A translation held by the NI of cluster 0, by endpoint 0 and by the dispatcher of die 0, and memory where the placement table of team 0 is, and the table of the
one peer of endpoint 0. -/
def hitEntry : TlbEntry := ⟨0, 0x1000, 4096, BitVec.ofNat 64 (2 ^ 30 + 31), 0⟩
def placed (cmds : List Cmd) (mem : List Host.Cell) (cores : SMap Core) (fresh : Nat) (pend : List Event) : State :=
  { State.reset with
    cmds := cmds, mem := mem, cores := cores, fresh := fresh, pending := pend, keys := [(2 ^ 24, (0, 0))]
    dies := [(0, { Die.reset with epcfg := BitVec.ofNat 64 (2 ^ 63 + 2 ^ 32), epptb := 0x1000 })]
    teams := [⟨0, 0x1000, 0, 0, []⟩], tlbs := [(4, [hitEntry]), (6, [hitEntry]), (coreUnit (dispatcherLoc 0), [hitEntry])] }
def placedMem : List Host.Cell := (List.range 32).map fun i => (2 ^ 30 + i, if i = 3 then 4 else if i = 16 then 7 else if i = 17 then 1 else 0)
variable (cmds : List Cmd) (mem : List Host.Cell) (cores : SMap Core) (fresh : Nat) (pend : List Event)
def niZero : Who := niWho 0 0 false []
def ethZero (user : Bool) : Who := ethWho 0 0 user
/-- The readers, and the lengths that they read. -/
def reader (w : Who) : Prop := w = niZero ∨ w = ethZero false ∨ w = ethZero true ∨ w = dispatcherWho 0 0
def size_ (n : Nat) : Prop := n = 8 ∨ n = 32 ∨ n = 64
theorem placed_translate (w : Who) (hw : reader w) :
    translatePaged w .load 0x1000 (placed cmds mem cores fresh pend) = .ok ⟨2 ^ 30, 0, 4096, false⟩ (placed cmds mem cores fresh pend) := by
  have h0 : (placed cmds mem cores fresh pend).tlbErrors w.unit w.ctx 0x1000 = placed cmds mem cores fresh pend := rfl
  have h1 : tlbLookup ((placed cmds mem cores fresh pend).tlb w.unit) w.ctx 0x1000 = (some hitEntry, [hitEntry]) := by
    rcases hw with rfl | rfl | rfl | rfl <;> rfl
  have h3 : leafGrants hitEntry.pte w.user .load = true := by rcases hw with rfl | rfl | rfl | rfl <;> decide
  have h4 : leafPa hitEntry.pte 0x1000 = (2 ^ 30, 4096) := by decide
  have h5 : (placed cmds mem cores fresh pend).setTlb w.unit [hitEntry] = placed cmds mem cores fresh pend := by
    rcases hw with rfl | rfl | rfl | rfl <;> rfl
  simp only [translatePaged, bind, EStateM.bind, modify, modifyGet, MonadStateOf.modifyGet, EStateM.modifyGet, get, getThe,
    MonadStateOf.get, EStateM.get, h0, h1, h3, h4, h5, show hitEntry.slot = 0 from rfl, set, EStateM.set, pure, EStateM.pure, decide_true,
    Bool.true_or, Bool.true_and, if_true]
theorem one_granule (n : Nat) (hn : size_ n) : granules (2 ^ 30) n = [(2 ^ 30, 0, n)] := by rcases hn with rfl | rfl | rfl <;> decide
theorem placed_check (w : Who) (hw : reader w) (n : Nat) (hn : size_ n) : (placed cmds mem cores fresh pend).refusal w (2 ^ 30) n = none := by
  have h : (placed cmds mem cores fresh pend).execOnly (2 ^ 30) = false := by
    unfold State.execOnly; rw [show (decide (paKind (2 ^ 30) = 1)) = false by decide]; rfl
  have h0 : (placed cmds mem cores fresh pend).homePa = (placed [] [] [] 0 []).homePa := by
    funext x; unfold State.homePa; rfl
  have h1 : (placed cmds mem cores fresh pend).paThere = (placed [] [] [] 0 []).paThere := rfl
  have h2 : (placed cmds mem cores fresh pend).homeLost (2 ^ 30) = (placed [] [] [] 0 []).homeLost (2 ^ 30) := rfl
  have h3 : (placed cmds mem cores fresh pend).beyondHbm = (placed [] [] [] 0 []).beyondHbm := rfl
  have h4 : (placed cmds mem cores fresh pend).eccBad = (placed [] [] [] 0 []).eccBad := rfl
  have h5 : (placed cmds mem cores fresh pend).guarded (2 ^ 30) n = (placed [] [] [] 0 []).guarded (2 ^ 30) n := rfl
  have h6 : (placed cmds mem cores fresh pend).cutOff = (placed [] [] [] 0 []).cutOff := rfl
  have h7 : (placed cmds mem cores fresh pend).member = (placed [] [] [] 0 []).member := rfl
  unfold State.refusal State.homeCheck
  rw [one_granule n hn]
  simp only [List.findSome?_cons, List.findSome?_nil, State.checkAt]
  rw [h, h0, h1, h2, h3, h4, h5, h6, h7]
  rcases hn with rfl | rfl | rfl <;> rcases hw with rfl | rfl | rfl | rfl <;> decide
theorem placed_home (r : Option Loc) (n : Nat) (hn : size_ n) :
    (placed cmds mem cores fresh pend).homeRead r 0 (2 ^ 30) n = ((placed cmds mem cores fresh pend).readBytes clearKey (2 ^ 30) n, placed cmds mem cores fresh pend) := by
  have h1 : (placed cmds mem cores fresh pend).homePa (2 ^ 30) = 2 ^ 30 := by
    rw [show (placed cmds mem cores fresh pend).homePa (2 ^ 30) = (placed [] [] [] 0 []).homePa (2 ^ 30) from rfl]; decide
  have h2 : (placed cmds mem cores fresh pend).hotness r (2 ^ 30) n = placed cmds mem cores fresh pend := by
    have h : bit ((placed cmds mem cores fresh pend).die (paDieKey (2 ^ 30))).hotcfg 63 = false := by
      show bit ((placed [] [] [] 0 []).die (paDieKey (2 ^ 30))).hotcfg 63 = false; decide
    have h5 : (2 ^ 30 % 256 + n + 255) / 256 = 1 := by rcases hn with rfl | rfl | rfl <;> decide
    have h6 : (2 ^ 30 / 256 * 256 + 256 * 0 : Nat) = 2 ^ 30 := by decide
    unfold State.hotness
    rw [h5, show List.range 1 = [0] by rfl, List.foldl_cons, List.foldl_nil, h6]
    simp [-Nat.reducePow, State.hotUnit, h]
  have h3 : (placed cmds mem cores fresh pend).keyOf (paModule (2 ^ 30)) 0 = clearKey := rfl
  have h4 : (placed cmds mem cores fresh pend).errs = [] := rfl
  unfold State.homeRead
  rw [one_granule n hn]
  simp [-Nat.reducePow, State.readCuts, State.readAt, h1, h2, h3, State.eccCorrect, h4]
theorem placed_read (reg : Who → Piece → M (List Byte)) (w : Who) (hw : reader w) (n : Nat) (hn : size_ n) :
    readWith reg w 0x1000 n 0 (placed cmds mem cores fresh pend) =
      .ok ((placed cmds mem cores fresh pend).readBytes clearKey (2 ^ 30) n) (placed cmds mem cores fresh pend) := by
  have h5 : (0x1000 : Ptr) + BitVec.ofNat 80 0 = 0x1000 := by decide
  have ht : translate w .load 0x1000 (placed cmds mem cores fresh pend) = .ok ⟨2 ^ 30, 0, 4096, false⟩ (placed cmds mem cores fresh pend) := by
    unfold Machine.translate; rw [if_neg (by decide)]; exact placed_translate _ _ _ _ _ w hw
  have h3 : chunks 0 0x1000 (2 ^ 30) (min (n - 0) (max 1 4096)) = [(2 ^ 30, 0, n)] := by rcases hn with rfl | rfl | rfl <;> decide
  have h6 : min (n - 0) (max 1 4096) = n := by rcases hn with rfl | rfl | rfl <;> decide
  have hp : piece w .load 0x1000 0 n 0 (placed cmds mem cores fresh pend) = .ok ⟨0x1000, 0, n, 0, false, [(2 ^ 30, 0, n)]⟩ (placed cmds mem cores fresh pend) := by
    have h9 : (if (decide (w.path ≠ Path.c) && decide (paModule (2 ^ 30) ≠ locModule w.loc)) = true then
        min (min (n - 0) (max 1 4096)) (128 - 2 ^ 30 % 128) else min (n - 0) (max 1 4096)) = n := by
      rw [h6, show (128 - 2 ^ 30 % 128 : Nat) = 128 by decide]; split
      · rcases hn with rfl | rfl | rfl <;> rfl
      · rfl
    simp only [piece, bind, EStateM.bind, h5, ht, pure, EStateM.pure, h9]
    rw [h6] at h3
    rw [h3]
  have hc : checkPiece w ⟨0x1000, 0, n, 0, false, [(2 ^ 30, 0, n)]⟩ (placed cmds mem cores fresh pend) = .ok () (placed cmds mem cores fresh pend) := by
    simp only [checkPiece, bind, EStateM.bind, get, getThe, MonadStateOf.get, EStateM.get, State.refusalOf, placed_check _ _ _ _ _ w hw n hn, pure,
      EStateM.pure, State.watched, show (placed cmds mem cores fresh pend).watch = none from rfl, Bool.false_eq_true, if_false]
  have hr : readParts w 0 [(2 ^ 30, 0, n)] (placed cmds mem cores fresh pend) =
      .ok ((placed cmds mem cores fresh pend).readBytes clearKey (2 ^ 30) n) (placed cmds mem cores fresh pend) := by
    simp only [readParts, bind, EStateM.bind, get, getThe, MonadStateOf.get, EStateM.get, placed_home _ _ _ _ _ _ n hn, set, EStateM.set, pure, EStateM.pure,
      List.append_nil]
  have hi : (⟨0x1000, 0, n, 0, false, [(2 ^ 30, 0, n)]⟩ : Piece).inRegisters = false := by
    simp [-Nat.reducePow, Piece.inRegisters, show paKind (2 ^ 30) ≠ 2 by decide]
  have ha : ∀ act : M (List Byte), across w ⟨0x1000, 0, n, 0, false, [(2 ^ 30, 0, n)]⟩ 0 n act = act := by
    intro act
    have h : Piece.module ⟨0x1000, 0, n, 0, false, [(2 ^ 30, 0, n)]⟩ = locModule w.loc := by
      rw [show Piece.module ⟨0x1000, 0, n, 0, false, [(2 ^ 30, 0, n)]⟩ = paModule (2 ^ 30) from rfl]
      rcases hw with rfl | rfl | rfl | rfl <;> decide
    unfold across; rw [if_pos h]
  obtain ⟨m, rfl⟩ : ∃ m, n = m + 1 := ⟨n - 1, by rcases hn with rfl | rfl | rfl <;> rfl⟩
  have h7 : mapPieces w .load 0x1000 0 (m + 1) (fun p => do
      checkPiece w p
      across w p 0 p.len (if p.inRegisters then reg w p else readParts w p.slot p.parts)) m (0 + (m + 1)) (placed cmds mem cores fresh pend) =
      .ok [] (placed cmds mem cores fresh pend) := by
    cases m <;> simp [mapPieces, pure, EStateM.pure]
  simp only [readWith]
  rw [mapPieces]
  simp only [bind, EStateM.bind, Nat.zero_lt_succ, if_true, hp, hc, hi, ha, Bool.false_eq_true, if_false, hr]
  have h8 := h7
  simp only [bind] at h8
  simp only [h8, pure, EStateM.pure, List.append_nil]
theorem placed_placement : (placement 0 0 0).run (placed cmds mem cores fresh pend) =
    .ok (some (BitVec.ofNat 64 (ofBytes ((placed cmds mem cores fresh pend).readBytes clearKey (2 ^ 30) 8)))) (placed cmds mem cores fresh pend) := by
  have h1 : (placed cmds mem cores fresh pend).teams.find? (fun t => t.team = 0) = some ⟨0, 0x1000, 0, 0, []⟩ := rfl
  have h2 : (0x1000 : Word).zeroExtend 80 + BitVec.ofNat 80 (8 * (0 : BitVec 20).toNat) = (0x1000 : Ptr) := by decide
  simp only [placement, EStateM.run, bind, EStateM.bind, get, getThe, MonadStateOf.get, EStateM.get, h1, h2, attempt, pure,
    modify, modifyGet, MonadStateOf.modifyGet, EStateM.modifyGet,
    show ({ placed cmds mem cores fresh pend with watch := none } : State) = placed cmds mem cores fresh pend from rfl,
    show niWho 0 0 false [] = niZero from rfl, placed_read _ _ _ _ _ _ niZero (.inl rfl) 8 (.inl rfl)]
  rfl
/-- Endpoint 0 has one peer, of eight entropy values. -/
theorem witness_EndpointPath (k : Nat) (hk : k < 8) :
    ∃ u, (pathConfigured 0 k (bits ((placed [] placedMem [] fresh []).die 0).epcfg 47 32) 0).run (placed [] placedMem [] fresh []) = .ok true u := by
  have h1 : bits ((placed [] placedMem [] fresh []).die 0).epcfg 47 32 = 1 := by
    show bits ((placed [] [] [] 0 []).die 0).epcfg 47 32 = 1; decide
  have h2 : ∀ f, (placed [] placedMem [] f []).readBytes clearKey (2 ^ 30) 32 = (placed [] placedMem [] 0 []).readBytes clearKey (2 ^ 30) 32 := fun _ => rfl
  have h3 : leAt ((placed [] placedMem [] 0 []).readBytes clearKey (2 ^ 30) 32) 17 1 % 2 = 1 := by decide
  have h4 : leAt ((placed [] placedMem [] 0 []).readBytes clearKey (2 ^ 30) 32) 16 1 = 7 := by decide
  have h5 : ((0x1000 : Word).zeroExtend 80 + BitVec.ofNat 80 (32 * 0) : Ptr) = 0x1000 := by decide
  have hu : ∀ user f, memRead (ethWho 0 0#16 user) 0x1000 32 0 (placed [] placedMem [] f []) =
      .ok ((placed [] placedMem [] 0 []).readBytes clearKey (2 ^ 30) 32) (placed [] placedMem [] f []) := fun user f => by
    unfold memRead; rw [← h2 f]; exact placed_read _ _ _ _ _ _ _ (by cases user <;> simp [reader, ethZero]) 32 (.inr (.inl rfl))
  refine ⟨placed [] placedMem [] (fresh + 1) [], ?_⟩
  rw [h1]
  have h6 : ∀ f, ((placed [] placedMem [] f []).die 0).epcfg = BitVec.ofNat 64 (2 ^ 63 + 2 ^ 32) := fun _ => rfl
  have h7 : ∀ f, ((placed [] placedMem [] f []).die 0).epptb = 0x1000 := fun _ => rfl
  have h8 : (placed [] placedMem [] fresh []).choose 2 = (Config.freeChoice 2 fresh % 2, placed [] placedMem [] (fresh + 1) []) := rfl
  have h9 : BitVec.ofNat 16 (BitVec.ofNat 64 (2 ^ 63 + 2 ^ 32)).toNat = 0#16 := by decide
  have h10 : (!(bit (BitVec.ofNat 64 (2 ^ 63 + 2 ^ 32) : Word) 63) || decide (bits (BitVec.ofNat 64 (2 ^ 63 + 2 ^ 32) : Word) 47 32 ≤ 0)) = false := by decide
  simp only [pathConfigured, peerValues, ethEntry, EStateM.run, bind, EStateM.bind, get, getThe, MonadStateOf.get, EStateM.get, attempt,
    modifyGet, MonadStateOf.modifyGet, EStateM.modifyGet, h6, h7, h8, h9, h10, h5, hu, h3, h4, pure, EStateM.pure, Bool.false_eq_true, if_false,
    Nat.reduceAdd, hk, if_true, Nat.one_ne_zero]
/-- Endpoint 0, with the table of its one peer in module 1, behind a link whose reconfiguration is announced. -/
def farPeer : State :=
  { reroutes State.reset with
    dies := [(0, { Die.reset with epcfg := BitVec.ofNat 64 (2 ^ 63 + 2 ^ 32), epptb := 0x1000 })]
    tlbs := [(6, [⟨0, 0x1000, 4096, BitVec.ofNat 64 (2 ^ 54 + 2 ^ 30 + 31), 0⟩])] }
theorem witness_EndpointPath_held : ∃ u, (pathConfigured 0 3 (bits (farPeer.die 0).epcfg 47 32) 0).run farPeer = .error .stall u := by
  have h8 : farPeer.choose 2 = (Config.freeChoice 2 0 % 2, { farPeer with fresh := 1 }) := rfl
  have h : ∀ user, memRead (ethWho 0 0#16 user) 0x1000 32 0 { farPeer with fresh := 1 } = .error .stall { farPeer with fresh := 1 } := by
    intro user; cases user <;> rfl
  have h1 : bits (farPeer.die 0).epcfg 47 32 = 1 := by decide
  refine ⟨{ farPeer with fresh := 1 }, ?_⟩
  rw [h1]
  have h5 : ((0x1000 : Word).zeroExtend 80 + BitVec.ofNat 80 (32 * 0) : Ptr) = 0x1000 := by decide
  have h6 : (farPeer.die 0).epcfg = BitVec.ofNat 64 (2 ^ 63 + 2 ^ 32) := rfl
  have h7 : (farPeer.die 0).epptb = 0x1000 := rfl
  have h11 : (({ farPeer with fresh := 1 } : State).die 0).epcfg = BitVec.ofNat 64 (2 ^ 63 + 2 ^ 32) := rfl
  have h9 : BitVec.ofNat 16 (BitVec.ofNat 64 (2 ^ 63 + 2 ^ 32)).toNat = 0#16 := by decide
  have h10 : (!(bit (BitVec.ofNat 64 (2 ^ 63 + 2 ^ 32) : Word) 63) || decide (bits (BitVec.ofNat 64 (2 ^ 63 + 2 ^ 32) : Word) 47 32 ≤ 0)) = false := by decide
  simp only [pathConfigured, peerValues, ethEntry, EStateM.run, bind, EStateM.bind, get, getThe, MonadStateOf.get, EStateM.get, attempt,
    modifyGet, MonadStateOf.modifyGet, EStateM.modifyGet, h6, h7, h8, h9, h10, h11, h5, h, pure, Bool.false_eq_true, if_false]
/-- A sparse send of two values to rank 0. -/
def sparse : State := placed [oneCommand (.sndz 0 5 true 0) false none none] placedMem [] 0 []
theorem witness_EngineSteps_sndz :
    sparse.placedAt 0 0 0 placementWord ∧ sparse.cmd 1 = some (oneCommand (.sndz 0 5 true 0) false none none) ∧ entryState placementWord = 1 ∧
    sparse.cutOff 0 (locModule (entryLoc placementWord)) = false ∧ sparse.errs = [] ∧
    (entryRegion placementWord * 4096 + (0 : Word).toNat) % 2 = 0 ∧
    ∀ i ∈ (List.range 4).flatMap fun b => largestTwo Float.bf16 5 2 (b * 16) 16,
      sparse.refusal (oneCommand (.sndz 0 5 true 0) false none none).niWho (sp2Pa 0 (i * 2)) 2 = none ∧
      sparse.inContextTable (sp2Pa 0 (i * 2)) 2 = false := by
  refine ⟨?_, by decide⟩
  intro u hu h
  have hr : u.readBytes clearKey (2 ^ 30) 8 = sparse.readBytes clearKey (2 ^ 30) 8 :=
    List.map_congr_left fun i hi => h _ _ ((by decide : ∀ i < 8, paKind (2 ^ 30 + i) ≠ 1) i (by simpa using hi))
  have h := placed_placement sparse.cmds u.mem u.cores 0 []
  rw [show placed sparse.cmds u.mem u.cores 0 [] = u from hu.symm, hr] at h
  rw [h, show BitVec.ofNat 64 (ofBytes (sparse.readBytes clearKey (2 ^ 30) 8)) = placementWord by decide]

/-- Slot 3 of core 0 as told, with a parking slot of cluster 0, at time `now`. -/
def slot3 (t : Thread) (c : Core) (now : Nat) : State :=
  { inSlot 3 t c with clusters := [(0, { Cluster.reset with parkcfg := 1 })], now := now }
def forming : Thread := { thread 0x100 0 [] [] with forming := some ⟨4, some 31, 0, 0xFC⟩ }
theorem witness_ThreadSteps :
    (Memory.wf base.mem = true ∧ 4 < 5 ∧ 3 < 4 ∧ bit ((slot3 (thread 0x100 0 [] []) core 0).core 0).prectl 3 = false) ∧
    (let s := slot3 (thread 0x100 0 [] []) { core with prectl := 8 } 65536;
      s.forcedStopDue 0 3 = some 0 ∧ (s.threadAt 0 3).alloy = 0 ∧ (s.threadAt 0 3).forming = none ∧ (s.threadAt 0 3).buffer = [] ∧
      s.gbarOf (s.threadAt 0 3) = none ∧
      (slot3 (thread 0x100 0 [] []) { core with prectl := 8 } 65535).forcedStopDue 0 3 = none ∧
      0 < parkUsable (s.cluster 0).parkcfg ∧ s.parkedAt 0 0 = none ∧ s.reconfiguring = false ∧ parkUsable (base.cluster 0).parkcfg ≤ 0) ∧
    (((slot3 { thread 0x100 0 [] [] with st := .stopped } core 0).threadAt 0 3).st = .stopped ∧ (base.threadAt 0 0).st ≠ .stopped ∧
      (base.threadAt 0 0).st ≠ .free ∧ (base.threadAt 0 4).st = .free ∧ (base.core 0).diverted = false ∧ (base.threadAt 0 0).alloy = 0 ∧
      (base.threadAt 0 0).forming = none ∧ (base.threadAt 0 0).buffer = []) ∧
    (((slot3 forming core 4096).threadAt 0 3).forming = some ⟨4, some 31, 0, 0xFC⟩ ∧ (slot3 forming core 4096).groupFree 0 3 4 = true ∧
      ({ slot3 forming core 4096 with cores := (slot3 forming core 4096).cores ++ [(1, { core with threads := core.threads.set 0 (thread 0 0 [] []) })] } :
        State).groupFree 0 3 4 = false ∧
      0 + ((slot3 forming core 4096).core 0).altmo.toNat ≤ (slot3 forming core 4096).now ∧ (31 : BitVec 5) ≠ 0 ∧ bit forming.status 3 = false ∧ forming.st = .running) ∧
    (let s : State := { base with cores := [(0, { core with inbox := [{ inMsg false with header := 0x2001 + 2 * 2 ^ 15 }, inMsg false] }),
        (1, { Core.reset 1 with redirect := [⟨0, 0, 4, true⟩], inbox := [inMsg false] })] };
      (s.core 1).redirect = [⟨0, 0, 4, true⟩] ∧ (0 : Nat) ≠ 1 ∧
      ((s.core 0).inbox.filter fun x => membOf x.header = locCore 1 % 4 + 1).length = 1 ∧
      (s.core 1).inbox.length + ((s.core 0).inbox.filter fun x => membOf x.header = locCore 1 % 4 + 1).length < 64) ∧
    (∀ x ∈ (base.core 0).redirect, x.leaving = false) ∧
    (base.threadAt 0 1).st ≠ .running := by decide
/-- Slot 0 of core 0 waits at `idle.die p3, g4` on a word that holds `n`. -/
def waits (n : Nat) : State :=
  let s := put (run (thread 0x100 0 [] [(3, sp2 0)])) 0 [n]
  put1 s 0 0x100 [0x04, 0x1B, 0x03, 0x94]
theorem waits_word (n : Nat) (h : n < 2) : decodeWord ({ waits n with cur := .slot 0 0, ops := none } : State).word = .ok (.idle 3 3 4) := by
  obtain rfl | rfl : n = 0 ∨ n = 1 := by omega
  all_goals rfl
theorem witness_ThreadSteps_idle (n : Nat) (h : n < 2) :
    let here : State := { waits n with cur := .slot 0 0, ops := none }
    ((waits n).threadAt 0 0).st = .running ∧ ((waits n).threadAt 0 0).forming = none ∧
    ((waits n).threadAt 0 0).pc.toNat < ((waits n).core 0).exb.toNat ∧ decodeWord here.word = .ok (.idle 3 3 4) ∧ here.settled ∧
    (here.p (3 : BitVec 3)).toNat % 8 = 0 ∧ here.quietRead (here.p (3 : BitVec 3)) 0 8 = some (BitVec.ofNat 8 n :: List.replicate 7 0) ∧
    (ofBytes (BitVec.ofNat 8 n :: List.replicate 7 0) = (here.g 4).toNat ↔ n = 0) := by
  refine ⟨?_, ?_, ?_, waits_word n h, ⟨⟨0, 0, rfl, by decide, rfl⟩, ?_⟩, ?_⟩ <;> (obtain rfl | rfl : n = 0 ∨ n = 1 := by omega) <;> decide

/-- A descriptor of a launch of team 1 with one task, as placed for the dispatcher to read; and a limit that it breaks. -/
def launchBlock : List Byte := (List.range 64).map fun i => if i = 0 then 5 else if i = 8 then 1 else if i = 48 then 1 else 0
def launchMsg : InMsg := ⟨0, [0x2000, 0x1000], 0, 0, 0, 0, false, false, 0, none, none, 0, none⟩
def announced (b : List Byte) : State :=
  placed [] ((List.range 64).map fun i => (2 ^ 30 + i, b.getD i 0)) [(dispatcherLoc 0, { Core.reset (dispatcherLoc 0) with inbox := [launchMsg] })] 0 []
theorem announced_read (b : List Byte) (hb : (announced b).readBytes clearKey (2 ^ 30) 64 = b) (u : State)
    (hu : u = { (announced b) with cores := u.cores, pending := u.pending }) :
    (tryRead 0 launchMsg.ctx ((launchMsg.payload.getD 1 0).toNat / 64 * 64) 64).run u = .ok (some b) u := by
  have h1 : (launchMsg.payload.getD 1 0).toNat / 64 * 64 = 0x1000 := by decide
  have h2 : u = placed [] ((List.range 64).map fun i => (2 ^ 30 + i, b.getD i 0)) u.cores 0 u.pending := hu
  have h3 : u.readBytes clearKey (2 ^ 30) 64 = b := by rw [h2, ← hb]; rw [hb]; exact hb
  rw [h1]
  have h4 := placed_read [] ((List.range 64).map fun i => (2 ^ 30 + i, b.getD i 0)) u.cores 0 u.pending regReadPiece (dispatcherWho 0 0)
    (.inr (.inr (.inr rfl))) 64 (.inr (.inr rfl))
  rw [← h2, h3] at h4
  simp only [tryRead, memRead, EStateM.run, bind, EStateM.bind, attempt, show launchMsg.ctx = 0 from rfl,
    show (BitVec.ofNat 80 0x1000 : Ptr) = 0x1000 from rfl, h4, pure, EStateM.pure]
theorem witness_DispatcherSteps_inbox :
    (base.core (dispatcherLoc 0)).pickLaunch = none ∧
    ((announced launchBlock).core (dispatcherLoc 0)).pickLaunch = some launchMsg ∧
    ((announced launchBlock).readBytes clearKey (2 ^ 30) 64 = launchBlock ∧ launchLegal launchBlock = true) ∧
    ((announced (launchBlock.set 8 0)).readBytes clearKey (2 ^ 30) 64 = launchBlock.set 8 0 ∧ launchLegal (launchBlock.set 8 0) = false) ∧
    (base.teams.find? fun x => x.team = 1) = none ∧ 0 < 12 ∧ 11 ≠ 0 % 16 := by decide

/-- Team 1 of one task, at a queue that is enabled; a translation for the dispatcher to it. -/
def queued : Launch := ⟨0x1000, 0, 0, launchBlock⟩
def queueBytes (on : Bool) : List Byte := (List.range 64).map fun i => if i = 5 ∧ on then 1 else 0
def launches (on : Bool) : State :=
  { State.reset with
    mem := (List.range 64).map fun i => (2 ^ 30 + i, (queueBytes on).getD i 0), keys := [(2 ^ 24, (0, 0))]
    dies := [(0, { Die.reset with launches := [queued] })]
    tlbs := [(coreUnit (dispatcherLoc 0), [⟨0, 0x1000, 4096, BitVec.ofNat 64 (2 ^ 30 + 31), 0⟩])] }
theorem witness_DispatcherSteps_launch :
    (∀ on, ((launches on).die 0).launches = [queued] ∧
      (tryRead 0 queued.ctx (queued.qd.toNat / 64 * 64) 64).run (launches on) = .ok (some (queueBytes on)) (launches on)) ∧
    (leAt (queueBytes true) 5 1).testBit 0 = true ∧ (leAt (queueBytes false) 5 1).testBit 0 = false ∧ ldDep queued.block = false ∧
    ldTeam queued.block = 1 ∧ ldRegsz queued.block = 0 ∧ ldTsize queued.block = 1 :=
  ⟨fun on => by cases on <;> exact ⟨rfl, rfl⟩, by decide⟩
/-- Rank 0 of team 1 at core 0, and rank 1 at a core of die 1 under the same code. -/
def moveEntry : Word := BitVec.ofNat 64 (2 ^ 26)
def moved : Team := ⟨1, 0x1000, 0, 0, [(0, 2, false)]⟩
def overloads : State :=
  { State.reset with
    mem := (List.range 16).map fun i => (2 ^ 30 + i, if i = 3 ∨ i = 11 ∨ i = 14 then 4 else 0), keys := [(2 ^ 24, (0, 0))]
    cores := [(0, { Core.reset 0 with inbox := List.replicate 33 ⟨0, [], BitVec.ofNat 64 (2 ^ 32), 0, 0, 0, false, false, 0, none, none, 0, none⟩ })]
    dies := [(0, { Die.reset with tmigcfg := BitVec.ofNat 64 (2 ^ 63 + 0x2010), heard := [(1, 16)] })]
    teams := [moved]
    tlbs := [(niUnit (locClusterKey (dispatcherLoc 0)), [⟨0, 0x1000, 4096, BitVec.ofNat 64 (2 ^ 30 + 31), 0⟩])] }
theorem witness_DispatcherSteps_move :
    (overloads.teams.find? fun x => x.team = 1) = some moved ∧
    (placement (dispatcherLoc 0) 1 0).run overloads = .ok (some moveEntry) overloads ∧
    (teamCores 0 1 moved (entryLoc moveEntry)).run overloads = .ok [mkLoc 0 0 1 0 0] overloads ∧ entryState moveEntry = 1 ∧
    overloads.reconfiguring = false ∧ overloads.rankMoves 0 1 moved 0 (entryLoc moveEntry) = true ∧ overloads.parkedOfRank 1 0 = [] :=
  ⟨rfl, rfl, rfl, by decide⟩

theorem witness_StepRunsDecoded :
    (let s := put1 { base with turns := [.issue 0 0] } 0 0x100 [0x00, 0x28, 0x64, 0x04];
      let r := ({ s with turns := [] } : State);
      let u := r.turnOf 0 0;
      let v := (u.eccCorrect (sp1Pa 0 0x100) 4).spendExempt;
      s.turns = .issue 0 0 :: [] ∧ r.canIssue 0 0 = true ∧ u.pcMatch 0 0 = none ∧ u.fetchLoc 0 0 0x100 = 0 ∧
      u.pc.toNat < (u.core 0).exb.toNat ∧ u.eccBad (sp1Pa 0 0x100) 4 = false ∧
      (((List.range 4).map fun j => u.readByte clearKey (sp1Pa 0 (0x100 + j))) = [0x00, 0x28, 0x64, 0x04]) ∧
      v.awaitsUnit (.add 3 4 5) = false ∧ v.queues (.add 3 4 5) = false ∧ plainStore (.add 3 4 5) = false ∧
      u.thr.issuedAt u.pc = none ∧ ({ u.thr with issued := some (0x100, 0x04642800) } : Thread).issuedAt u.pc = some 0x04642800 ∧
      v.queuedUnits v.thr.uid = [] ∧ vectorMemory (.add 3 4 5) = false ∧ vectorMemory (.vld 0 1 0 0 0) = true ∧ plainStore (.st64 3 0 0 0 0) = true ∧ v.queues (.st64 3 0 0 0 0) = false) ∧
    (let s := { base with errs := [(sp1Pa 0 0x100, true)] };
      (s.turnOf 0 0).eccBad (sp1Pa 0 0x100) 4 = true) ∧
    (let s := { inSlot 0 (thread 0x100 0 [] []) { core with dq := [7] } with
        cmds := [{ oneCommand (.unit 0xA0221805 0x100 (Vector.replicate 32 0) 0 0) false none none with id := 7 }] };
      s.queuedUnits s.thr.uid = [0xA0221805] ∧ s.awaitsUnit (.vand 1 2 3 0 0) = false ∧ s.queues (.vand 1 2 3 0 0) = true ∧
      s.awaitsUnit (.sndz 0 1 0 0 0) = true ∧ s.awaitsUnit (.vld 0 1 0 0 0) = false ∧ s.queues (.vld 0 1 0 0 0) = false ∧ s.cr.dq ≠ [] ∧
      (s.enqueueForm (.vld 0 1 0 0 0)).isSome = false ∧ s.queuedBefore = true) ∧
    (let s := { inSlot 0 (thread 0x100 0 [] [(1, sp2 0)]) { core with dq := [7] } with
        cmds := [{ oneCommand (.mxHand 0) false none none with id := 7 }] };
      s.queuedBefore = false ∧ (s.enqueueForm (.vld 0 1 0 0 0)).isSome = true ∧
      (({ s with cores := [(0, { s.cr with winp := Vector.replicate 8 0 })] } : State).enqueueForm (.vld 0 1 0 0 0)).isSome = false) ∧
    (let s := slot3 (thread 0x100 0 [] []) { core with prectl := 8 } 65536;
      s.canIssue 0 3 = true ∧ s.forcedStopDue 0 3 ≠ none ∧ base.forcedStopDue 0 0 = none) ∧
    (let s := { inSlot 0 (thread 0x100 0 [] []) { core with pcm := core.pcm.set 3 (BitVec.ofNat 64 (2 ^ 63 + 0x100)) } with turns := [.issue 0 0] };
      ({ s with turns := [] } : State).canIssue 0 0 = true ∧
      (({ s with turns := [] } : State).turnOf 0 0).pcMatch 0 0 = some (3, BitVec.ofNat 64 (2 ^ 63 + 0x100))) ∧
    (let s := inSlot 0 (thread 0x8000 0 [] []) { core with exb := 0x8000 };
      (s.core 0).exb.toNat ≤ (s.turnOf 0 0).pc.toNat ∧ s.canIssue 0 0 = true) ∧
    base.canIssue 0 1 = false := by decide

theorem witness_DecodeEncode : (Instr.add 3 4 31).encoded = true ∧ (Instr.add 3 4 31).wellFormed = true := by decide
theorem witness_StepKeepsInvariant : base.Inv = true ∧ ∃ t, step base = .next t := ⟨by decide, _, rfl⟩
theorem witness_MemoryLaws : Memory.wf (put base 0 [1, 0, 2]).mem = true ∧ (65 : Nat) / 64 ≠ 63 / 64 := by decide

/-- A port of module 0 as told. -/
def linked (x : Link) : State := { base with modules := [(0, { Module.reset 0 with links := [(62, x)] })] }
/-- Two flits of a replay buffer, and LNKSTAT with a state, a width code and erased lanes. -/
def flit (n : Nat) : Flit := ⟨1, BitVec.ofNat 12 n, 0, 0, false, 0, []⟩
def link (st width erased : Nat) (retrain tuning : Option Nat) (ocs : Nat) : Link :=
  { (Module.reset 0).link 62 with
    stat := BitVec.ofNat 64 (st * 2 ^ 62 + width * 2 ^ 60 + erased * 2 ^ 52), retrain := retrain, tuning := tuning, ocs := ocs
    replay := [flit 7, flit 8], rxSeq := 5, key := 1 }
theorem witness_LinkSteps :
    (let x := link 2 0 0 none none 0;
      x.state = 2 ∧ x.waiting = [] ∧ x.replay = [flit 7] ++ flit 8 :: [] ∧ (flit 8).seq = 8 ∧ (∀ z ∈ [flit 7], z.seq ≠ 8) ∧
      (∀ z ∈ x.replay, z.seq ≠ 9) ∧ (6 : BitVec 12) ≠ x.rxSeq ∧ fabricPort 62 = true ∧ x.erased 7 = false ∧
      ((linked x).farEnd 0 62).erased 7 = false ∧ (linked x).healthy 0 62 ≤ x.lanes ∧
      x.lanes = 8 ∧ (linked x).healthy 0 62 = 8 ∧ globalPort 62 = true ∧ x.spareUsed = false ∧ x.ocs = 0 ∧ (linked x).port 0 62 = x) ∧
    (let x := link 2 0 1 none none 0; x.lanes = 8 ∧ (linked x).healthy 0 62 ≠ 8 ∧ (linked x).healthy 0 62 ≤ x.lanes ∧ x.erased 0 = true ∧ x.erased 1 = false) ∧
    (let x := link 2 1 0xF0 none none 0; x.lanes = 4 ∧ (linked x).healthy 0 62 ≤ x.lanes) ∧
    (let x := link 2 2 0xFC none none 0; x.lanes = 2 ∧ (linked x).healthy 0 62 ≤ x.lanes) ∧
    (fabricPort 126 = false ∧ 8 ≤ 8 ∧ (link 0 0 0 none none 0).state ≠ 2) ∧
    (∀ o ∈ [0, 1], let x := link 1 0 1 (some 4) none o;
      x.state ≠ 2 ∧ x.ocs < 2 ∧ x.waiting = [] ∧ x.retrain = some 4 ∧ ((linked x).module 0).bootFail = 0) := by decide
theorem witness_LinkSteps_trains :
    (let x := link 1 0 0 none none 0;
      let y := { x with wired := some (32, 64) };
      y.retrain = none ∧ y.state = 1 ∧ ((linked y).otherEnd 0 62 false).1 = some (32, 64) ∧ ((32, 64) : Nat × Nat) ≠ (0, 62) ∧ ((linked y).module 32).bootFail = 0 ∧
      widestFor (y.healthyWith ((linked y).port 32 64)) ≠ 0) ∧
    ((link 2 0 0x80 none (some 7) 0).tuning = some 7 ∧ (link 2 0 0 none none 0).tuning = none) ∧
    (let x := { link 2 0 0 none none 1 with replay := [], wired := some (32, 64) };
      let s : State := { base with modules := [(0, { Module.reset 0 with links := [(62, x)] }), (32, { Module.reset 32 with links := [(64, { x with wired := some (0, 62) })] })] };
      let y := s.port 0 62;
      let z := s.port y.peerModule y.peerPort;
      y.ocs = 1 ∧ y.replay = [] ∧ z.ocs ≠ 0 ∧ z.replay = []) ∧
    ((link 3 0 0 none none 2).ocs = 2 ∧ (link 3 0 0 none none 2).state ≠ 1 ∧ (link 1 0 0xFF none none 2).state = 1 ∧ (link 1 0 0xFF none none 2).ocs = 2 ∧
      widestFor ((link 1 0 0xFF none none 2).healthyWith (link 1 0 0xFF none none 2)) = 0 ∧
      (link 2 0 0 none none 3).ocs = 3 ∧ (link 2 0 0 none none 3).waiting = []) ∧
    (0 ∉ base.unreachable ∧ base.reqs = [] ∧ ({ base with now := 2500000 } : State).unrouted 0 = true ∧ (linked (link 2 0 0 none none 0)).unrouted 0 = false ∧
      0 ∈ ({ base with unreachable := [0] } : State).unreachable) ∧
    ({ oneCommand (.mxSend 0 0 0 0 0) false none none with loc := mkLoc 0 1 0 0 0, begun := true } : Cmd).lostSend 0 = true := by decide
/-- A global port whose circuit switch has moved finds an end in another group. -/
def switched : State := { base with domain := 33, modules := [(0, { Module.reset 0 with links := [(62, link 1 0 0 none none 2)] })] }
theorem witness_LinkSteps_moved :
    (switched.port 0 62).ocs = 2 ∧ (switched.port 0 62).state = 1 ∧
    ∃ a b u, switched.otherEnd 0 62 true = (some (a, b), u) ∧ (a, b) ≠ (0, 62) ∧ (switched.module a).bootFail = 0 ∧
      widestFor ((switched.port 0 62).healthyWith (switched.port a b)) ≠ 0 := by
  have hl : (switched.globalPeers 0).length = 64 := by decide
  have hall : ∀ e ∈ switched.globalPeers 0,
      e ≠ (0, 62) ∧ (switched.module e.1).bootFail = 0 ∧ widestFor ((switched.port 0 62).healthyWith (switched.port e.1 e.2)) ≠ 0 := by decide
  generalize hL : switched.globalPeers 0 = L at hl hall
  have hi : Config.freeChoice 64 switched.fresh % 64 < L.length := by rw [hl]; exact Nat.mod_lt _ (by decide)
  have he : L.isEmpty = false := by cases L with
    | nil => simp at hl
    | cons => rfl
  suffices h : ∃ u, switched.otherEnd 0 62 true = (some L[Config.freeChoice 64 switched.fresh % 64], u) by
    obtain ⟨u, h⟩ := h
    exact ⟨by decide, by decide, _, _, u, h, hall _ (List.getElem_mem hi)⟩
  refine ⟨{ switched with fresh := switched.fresh + 1 }, ?_⟩
  simp only [State.otherEnd, show globalPort 62 = true by decide, hL, he, Bool.not_true, Bool.and_false, Bool.false_eq_true, if_false, hl,
    State.choose, show ¬ 64 ≤ 1 by decide, List.getElem?_eq_getElem hi]

/-- Module 0 with a mailbox request that stands. -/
def asksHallmark (x : Module) (arg : List (Nat × Word)) : State :=
  { base with modules := [(0, { x with mbTaken := arg.foldl (fun v y => v.setIfInBounds y.1 y.2) x.mbTaken, mbstat := 2 })] }
theorem witness_TrustAndFailureSteps :
    (Memory.wf base.mem = true ∧ 4 < 5 ∧ (Module.reset 0).bootFail ≠ 1 ∧ (Module.reset 0).freeKeys ≠ [] ∧
      ({ Module.reset 0 with keys := (List.range 255).map fun i => (i, ⟨some 1, 1⟩) } : Module).freeKeys = [] ∧
      ({ Module.reset 0 with bootFail := 1 } : Module).bootFail = 1) ∧
    (∀ n ∈ [1, 2, 3, 4, 5], bits ((asksHallmark (Module.reset 0) [(0, BitVec.ofNat 64 n)]).module 0 |>.arg 0) 7 0 = n) ∧
    (let s := asksHallmark (Module.reset 0) [];
      (s.module 0).mbstat = 2 ∧ (base.module 0).mbstat ≠ 2 ∧ s.ctxInFlight 0 0 = false ∧ s.watch = none ∧ s.reconfiguring = false ∧
      (s.module 0).ctxtbl.toNat % 64 = 0 ∧ paModule (s.module 0).ctxtbl.toNat = 0 ∧ s.migOf (s.module 0).ctxtbl.toNat = none ∧
      s.migOf ((s.module 0).ctxtbl.toNat + 8) = none ∧
      ({ s with reqs := [⟨1, 1, 0, 0, 0, .read, 0, false, 0, [], true, false, false, none, 0, none, 0⟩] } : State).ctxInFlight 0 0 = true) ∧
    (bit ((asksHallmark (Module.reset 0) [(2, 1)]).module 0 |>.arg 16) 0 = true ∧
      bit ((asksHallmark (Module.reset 0) []).module 0 |>.arg 16) 0 = false ∧ 0 ∈ moduleClusters 0 ∧ base.holdsCluster 0 0 = true) ∧
    (let x := (asksHallmark (Module.reset 0) [(2, 5), (6, BitVec.ofNat 64 (2 ^ 30))]).module 0;
      (∃ o ∈ [16, 24, 32, 40], x.arg o ≠ 0) ∧ (x.arg 48).toNat = 2 ^ 30 ∧ ∀ o ∈ [16, 24, 32, 40], ((asksHallmark (Module.reset 0) []).module 0).arg o = 0) ∧
    (((asksHallmark (Module.reset 0) [(1, BitVec.ofNat 64 (2 ^ 30))]).module 0).arg 8).toNat = 2 ^ 30 ∧
    (∀ n ∈ [256 + 17088, 2048 + 17088], base.homeCheck false (2 ^ 30) n = none ∧ base.homeLost (2 ^ 30) n = false ∧
      base.inContextTable (2 ^ 30) n = false) ∧
    ((base.threadAt 0 0).st = .running ∧ (base.threadAt 0 1).st ≠ .running ∧ locKind 0 = 0 ∧ 63 < 64 ∧ 63 ∉ (base.die 0).retired ∧
      63 ∉ (base.die 0).gone) := by decide
theorem witness_TrustAndFailureSteps_host :
    (let s : State := { base with host := [(0, 0x80, 1)], modules := [(0, { Module.reset 0 with mbReq := (Module.reset 0).mbReq.setIfInBounds 0 5 })] };
      bit (1 : Word) 0 = true ∧ (s.module 0).mbstat ≠ 2 ∧ (s.module 0).bootFail ≠ 1 ∧
      (bits ((s.module 0).mbReq.getD 0 0) 7 0, Event.health 0) ∈
        [(1, Event.assign 0), (2, .retire 0), (3, .switch 0), (4, .quote 0), (5, .health 0)] ∧ s.host = [(0, 0x80, 1)]) ∧
    ({ base with host := [(0, 8 * 7, 9)] } : State).host = [(0, 8 * 7, 9)] ∧ 7 < 8 := by decide
theorem witness_TrustAndFailureSteps_takes (pa : Nat) : base.migOf pa = none := no_migration _ rfl _
theorem witness_TrustAndFailureSteps_retire : ∃ a b, base.contextEntry 0 0 = some (a, b) := ⟨_, _, rfl⟩
/-! ### Witnesses: paged space, refusals, traps and number formats -/

/-- Page 1 of the current context, held by core 0's TLB and dirty, in HBM of die 0. -/
def pageEntry : TlbEntry := ⟨0, 0x1000, 4096, BitVec.ofNat 64 (2 ^ 30 + 127), 0⟩
def paged : State := { run (thread 0x100 0 [(2, 1)] [(1, 0x1100)]) with tlbs := [(base.coreWho.unit, [pageEntry])] }
theorem paged_settled : paged.settled := ⟨⟨0, 0, rfl, by decide, rfl⟩, by decide, by decide, by decide, by decide, by decide, by decide⟩
theorem witness_LoadResults_paged :
    paged.settled ∧ paged.unbound ∧ ∀ k ∈ [AccessKind.load, .store], ∀ n ∈ [1, 2, 4, 8, 16, 256],
      paged.aligned (paged.p (1 : BitVec 3)) n ∧ ((paged.accessAt k (paged.p (1 : BitVec 3)) 0 n).map fun r => Memory.wf r.1.mem) = some true :=
  ⟨paged_settled, by unfold State.unbound; decide, fun k hk n hn => ⟨.inr (by decide), by revert k n; decide⟩⟩
theorem witness_OrderingResults_paged :
    ∀ n ∈ [1, 2, 4, 8], (paged.p (1 : BitVec 5)).toNat % n = 0 ∧ (paged.accessAt .load (paged.p (1 : BitVec 5)) 0 n).isSome = true ∧
      (paged.accessAt .store (paged.p (1 : BitVec 5)) 0 n).isSome = true := by decide
theorem witness_AtomicResults_paged :
    ∀ n ∈ [4, 8, 16], (paged.p (1 : BitVec 5)).toNat % n = 0 ∧
      (paged.accessAt .atomic (paged.p (1 : BitVec 5)) 0 n).map (fun r => r.2.2) = some [(2 ^ 30 + 0x100, 0, n)] := by decide

theorem witness_ControlFlowResults_refused :
    base.issuing ∧ handling.issuing ∧ (31 : BitVec 5) ≠ 0 ∧ handling.inh = true := ⟨base_issuing, run_issuing _, by decide⟩

theorem witness_TrapEntry_stops :
    let s := inSlot 0 (thread 0x100 0 [] []) { core with exb := 0x8000 };
    s.cur = .slot 0 0 ∧ 0 < 5 ∧ s.thr.alloy = 0 ∧ s.cr.exb.toNat ≤ s.cr.evec.toNat ∧ s.cr.exb.toNat ≤ s.cr.ovlv.toNat ∧
      (⟨0x08, 0, 0, 0, 0, false⟩ : TrapInfo).cause = 0x08 := by decide
theorem witness_TrapEntry_alloy :
    ∀ n ∈ [2, 4, 8], let s := inSlot 3 { thread 0x100 0 [] [] with alloy := n };
      s.cur = .slot 0 3 ∧ 3 < 5 ∧ s.thr.alloy = n := by decide

/-- Core 1 is disabled; core 1 holds another EXB. -/
def halfCluster : State := { base with clusters := [(0, { Cluster.reset with coremap := 1 })] }
theorem witness_AlloyResults_fails :
    (halfCluster.issuing ∧ halfCluster.inBody = false ∧ (1 : BitVec 2) ≠ 0 ∧ halfCluster.thr.alloy = 0 ∧ halfCluster.inh = false ∧
      ∃ m ∈ groupOf halfCluster.loc (2 ^ (1 : BitVec 2).toNat), halfCluster.coreThere m = false) ∧
    (∀ m ∈ groupOf base.loc (2 ^ (1 : BitVec 2).toNat), base.coreThere m = true) ∧
    ∃ m ∈ groupOf base.loc (2 ^ (1 : BitVec 2).toNat), (base.core m).exb ≠ base.cr.exb :=
  ⟨⟨⟨0, 0, rfl, by decide, rfl⟩, by decide⟩, by decide, by decide⟩

theorem witness_FloatLaws_specials :
    0 < (3 : Nat) ∧ ∀ f ∈ [Float.add 0, Float.mul, Float.div, Float.minMax false, Float.minMax true], f (.nan true) (.zero false) = (.nan false, 1) := by decide

/-- A code of each kind of format: a number, an infinity and a NaN where the kind has them. -/
theorem witness_FloatValues :
    (∀ c ∈ [0, 2, 4, 6], (Float.fmtOf c).map (·.kind) = some .nat) ∧ (∀ c ∈ [1, 3, 5, 7], (Float.fmtOf c).map (·.kind) = some .int) ∧
    (∀ c ∈ [8, 9, 0x0A, 0x0B], (Float.fmtOf c).map (·.kind) = some .ieee) ∧ (Float.fmtOf 0x11).map (·.kind) = some .signed8 ∧
    (Float.fmtOf 0x19).map (·.kind) = some .unsigned8 ∧
    (255 < 2 ^ 8 ∧ ¬ 128 < 2 ^ (8 - 1) ∧ 127 < 2 ^ (8 - 1)) ∧
    ((0x7BFF % 2 ^ 15) / 2 ^ 10 < 2 ^ 5 - 1 ∧ (0xFC00 % 2 ^ 15) / 2 ^ 10 = 2 ^ 5 - 1 ∧ 0xFC00 % 2 ^ 10 = 0 ∧ 0x7C01 % 2 ^ 10 ≠ 0) := by decide

/-- Binary16: half of the least subnormal number, and halfway beyond the largest number; a number given by its leading bits; a negative number
for an unsigned format. -/
theorem witness_FloatRounding :
    (Float.fmtOf 9 = some ⟨.ieee, 16, 5, 10, 15⟩ ∧ ¬ wholeFormat ⟨.ieee, 16, 5, 10, 15⟩) ∧
    (let f : Float.Fmt := ⟨.ieee, 16, 5, 10, 15⟩;
      (codeMagnitude f 0 ≤ number false 1 (-25) ∧ number false 1 (-25) < codeMagnitude f 1 ∧
        ¬ takesFurther 0 0 false (0 % 2 = 1) (codeMagnitude f 0) (number false 1 (-25)) (codeMagnitude f 1) ∧ 0 ≤ largestCode f false) ∧
      (codeMagnitude f 0x7BFF ≤ number false 65520 0 ∧ number false 65520 0 < codeMagnitude f 0x7C00 ∧
        takesFurther 0 0 false (0x7BFF % 2 = 1) (codeMagnitude f 0x7BFF) (number false 65520 0) (codeMagnitude f 0x7C00) ∧
        largestCode f false < 0x7C00) ∧
      (let v := number false (2 ^ 28 + 1) (-28);
        number false (2 ^ 26) (-26) < v ∧ v < number false (2 ^ 26 + 1) (-26) ∧ 2 ^ (f.frac + 16) ≤ 2 ^ 26 ∧
        codeMagnitude f 0x3C00 ≤ v ∧ v < codeMagnitude f 0x3C01 ∧
        takesFurther 2 0 false (0x3C00 % 2 = 1) (codeMagnitude f 0x3C00) v (codeMagnitude f 0x3C01))) ∧
    (let f : Float.Fmt := ⟨.unsigned8, 8, 7, 1, 64⟩;
      Float.fmtOf 0x1A = some f ∧ ¬ wholeFormat f ∧ codeMagnitude f 0 ≤ number false 1 (-200) ∧ number false 1 (-200) < codeMagnitude f 1 ∧
        ¬ takesFurther 1 0 true (0 % 2 = 1) (codeMagnitude f 0) (number false 1 (-200)) (codeMagnitude f 1)) ∧
    (Float.fmtOf 1 = some ⟨.int, 8, 0, 0, 0⟩ ∧ wholeFormat ⟨.int, 8, 0, 0, 0⟩ ∧ ((127 : Nat) : Rat) ≤ number false 255 (-1) ∧
      number false 255 (-1) < ((128 : Nat) : Rat) ∧ takesFurther 0 0 false (127 % 2 = 1) ((127 : Nat) : Rat) (number false 255 (-1)) ((128 : Nat) : Rat)) ∧
    (Float.fmtOf 5 = some ⟨.int, 32, 0, 0, 0⟩ ∧ 2 ^ 31 < 2 ^ 32) := by
  simp only [wholeFormat, takesFurther, reduceIte, Nat.reduceEqDiff]; decide +kernel

/-- Tables in HBM of die 0: the context of ASID 5 at 0x8050, and one table a level, the last of level `stop` with the entry `e`. -/
def tableAt (j : Nat) : Nat := 0x40000000 + j * 0x10000
def walkAddr : Ptr := BitVec.ofNat 80 (3 * 2 ^ 77 + 0x2345678)
def entryAt (j : Nat) : Nat := tableAt j + 8 * (if j = 5 then bits walkAddr 79 77 else walkAddr.toNat / 2 ^ (13 * j + 12) % 2 ^ 13)
def cells (pa n x : Nat) : List Host.Cell := (List.range n).map fun i => (pa + i, BitVec.ofNat 8 (x / 256 ^ i))
def translates (a : Nat) (stop : Nat) (e : Word) (tlb : List TlbEntry) (held : Bool) : State :=
  let s := { State.reset with
    modules := [(0, { Module.reset 0 with ctxtbl := 0x8000 })], domain := 4
    mem := (cells 0x8050 16 a).filter (fun c => c.2 ≠ 0) ++ (List.range 6).flatMap fun j =>
      if j = stop then cells (entryAt j) 8 e.toNat else if stop < j then cells (entryAt j) 8 (tableAt (j - 1) + 1) else []
    tlbs := [(base.coreWho.unit, tlb)] }
  if held then { s with walks := [(base.coreWho.quadrant, [⟨5, 2, walkAddr.toNat / walkSpan 2, BitVec.ofNat 64 (tableAt 1 + 1)⟩])] } else s
def contextWord : Nat := tableAt 5 + 1
def walker (user : Bool) : Who := { base.coreWho with ctx := 5, user := user }
def leafWord (flags : Nat) : Word := BitVec.ofNat 64 (2 ^ 34 + flags)
def held (flags size : Nat) : TlbEntry := ⟨5, walkAddr.toNat / size * size, size, leafWord flags, 0⟩
/-- The premises of a walk whose last entry is at level `lv`. -/
def walkBegins (s : State) (lv : Nat) (start : Nat) : Bool :=
  s.softs.isEmpty && s.errs.isEmpty && paModule (0x8000 + 16 * 5) = 0 && s.walkRead 0 255 0x8050 16 = some contextWord &&
  (match s.walkHit (walker false).quadrant 5 walkAddr with
    | some e => decide (e.level = start ∧ bits e.pte 63 16 * 2 ^ 16 = tableAt (start - 1))
    | none => decide (start = 6)) &&
  (List.range 6).all fun j => !(decide (lv ≤ j ∧ j < start)) || (paModule (entryAt j) = 0 && (j = lv ||
    (s.walkRead 0 0 (entryAt j) 8 = some (tableAt (j - 1) + 1) && !(malformed j (BitVec.ofNat 64 (tableAt (j - 1) + 1))))))
def lastRead (s : State) (lv : Nat) : Option Nat := s.walkRead 0 0 (entryAt lv) 8
theorem witness_TranslationResults_paged :
    (bits walkAddr 79 76 ≠ 0xF ∧ contextWord % 2 = 1 ∧ bits (BitVec.ofNat 64 contextWord : Word) 15 1 = 0) ∧
    (∀ x ∈ [(0, leafWord 0x1F), (0, leafWord 0x07), (0, leafWord 0x0F), (0, leafWord 0x19), (1, leafWord 0x71F), (3, 0), (5, 2 ^ 49 + 2 ^ 48 + 1)],
      let s := translates contextWord x.1 x.2 [] false; walkBegins s x.1 6 = true ∧ lastRead s x.1 = some x.2.toNat) ∧
    (let s := translates contextWord 1 (leafWord 0x71F) [] true; walkBegins s 1 2 = true) ∧
    (let s := translates contextWord 1 (BitVec.ofNat 64 (0x99F + 3 * 2 ^ 44)) [] false;
      walkBegins s 1 6 = true ∧ malformed 1 (BitVec.ofNat 64 (0x99F + 3 * 2 ^ 44)) = false ∧ s.domain < 0 + 2 ^ 3) := by decide
theorem witness_TranslationResults_stops :
    (let s := { translates 0 6 0 [] false with modules := [(0, { Module.reset 0 with ctxtbl := BitVec.ofNat 64 (2 ^ 37) })] };
      paModule (2 ^ 37 + 16 * 5) = 0 ∧ s.walkRead 0 255 (2 ^ 37 + 16 * 5) 16 = none) ∧
    (∀ a ∈ [0, 3], (translates a 6 0 [] false).walkRead 0 255 0x8050 16 = some a) ∧
    (let s := translates contextWord 0 (leafWord 0x1F) [] true;
      let t := { s with dies := [(0, { Die.reset with hbmsize := 0x40000000 })] };
      t.walkRead 0 255 0x8050 16 = some contextWord ∧ paModule (entryAt 1) = 0 ∧ t.walkRead 0 0 (entryAt 1) 8 = none) ∧
    (let s := translates contextWord 0 (leafWord 0x1F) [] false;
      entryAt 0 % 8 = 0 ∧ paKind (entryAt 0) ≤ 1 ∧ s.inContextTable (entryAt 0) 8 = false ∧ s.migOf (entryAt 0) = none ∧ Memory.wf s.mem = true ∧
        bit (s.die (paDieKey (entryAt 0))).hotcfg 63 = false) := by decide
/-- A page in a larger one, both held: the smaller serves a load; clean, it serves no store; in user mode, neither. -/
theorem witness_TranslationResults_tlb :
    let l := [held 0x2F 4096, held 0x7F (2 ^ 26)];
    let s := translates contextWord 0 (leafWord 0x1F) l false;
    s.softs = [] ∧ s.errs = [] ∧ s.tlb base.coreWho.unit = l ∧
      (∀ t ∈ l, t.ctx = 5 ∧ t.base ≤ walkAddr.toNat ∧ walkAddr.toNat < t.base + t.size) ∧ (held 0x2F 4096).size < (held 0x7F (2 ^ 26)).size ∧
      bit (held 0x2F 4096).pte 2 = true ∧ bit (held 0x2F 4096).pte 6 = false ∧ bit (held 0x2F 4096).pte 4 = false := by decide
/-- SP2 by a load. -/
theorem witness_TranslationResults_windows :
    (bits (sp2 (2 ^ 21 - 1)) 79 76 = 0xF ∧ bits (sp2 (2 ^ 21 - 1)) 61 60 = 2 ∧ bits (sp2 (2 ^ 21 - 1)) 53 50 = 0 ∧ bits (sp2 (2 ^ 21 - 1)) 49 21 = 0 ∧
      bits (sp2 (2 ^ 21 - 1)) 75 66 = 0 ∧ bits (sp2 (2 ^ 21 - 1)) 65 62 = 0 ∧ bits (sp2 (2 ^ 21 - 1)) 59 54 = 0) ∧
    base.placeThere 0 0 2 0 0 (2 ^ 21 - 1) = true ∧
    (bit (winpAll 2) 63 = true ∧ bits (winpAll 2) 59 58 = 2 ∧ bits (winpAll 2) 57 48 = 0 ∧ bits (winpAll 2) 37 34 = 0 ∧
      bits (winpAll 2) 29 24 = 0 ∧ bit (winpAll 2) 62 = true) := by decide
/-- A message window by a load; a core that is not there; a level that no register permits. -/
theorem witness_TranslationResults_refused :
    (bits (BitVec.ofNat 80 (15 * 2 ^ 76 + 2 ^ 49) : Ptr) 79 76 = 0xF ∧ bits (BitVec.ofNat 80 (15 * 2 ^ 76 + 2 ^ 49) : Ptr) 61 60 = 0 ∧
      bit (BitVec.ofNat 80 (15 * 2 ^ 76 + 2 ^ 49) : Ptr) 49 = true ∧ bits (BitVec.ofNat 80 (15 * 2 ^ 76 + 2 ^ 49) : Ptr) 35 6 = 0) ∧
    halfCluster.placeThere 0 0 1 0 1 0 = false ∧ bits (winpAll 0) 59 58 = 0 ∧ bits (winpAll 1) 59 58 = 1 ∧ bits (0 : Word) 59 58 = 0 := by
  decide
theorem core_permits : core.winp.toList = [winpAll 0, winpAll 1, winpAll 2, 0, 0, 0, 0, 0] := by rfl

/-- Homes that refuse: HBM beyond HBMSIZE; an SP1 below EXB; a parking slot and a heap, for a user access; an error. -/
def refuses : State :=
  { paged with
    dies := [(0, { Die.reset with hbmsize := 0x40000000 })]
    clusters := [(0, { Cluster.reset with parkcfg := 1, ovfcfg := BitVec.ofNat 64 (256 * 2 ^ 17 + 1) })] }
theorem witness_AccessTraps_homes :
    (∀ pa ∈ [2 ^ 30, sp1Pa 0 0x9000, sp2Pa 0 0, sp2Pa 0 (2 ^ 20)], pa % 4096 + 8 ≤ 4096 ∧ refuses.migOf pa = none ∧ refuses.cutOff 0 (paModule pa) = false ∧
      refuses.paThere pa 8 = true) ∧ refuses.paThere (sp1Pa 0 0xFFFC) 8 = false ∧
    (paKind (2 ^ 30) = 0 ∧ (refuses.die (paDieKey (2 ^ 30))).hbmsize.toNat < 2 ^ 30 % 2 ^ 48 + 8) ∧
    (paKind (sp1Pa 0 0x9000) = 1 ∧ sp1Pa 0 0x9000 % 2 ^ 48 / 2 ^ 46 = 1 ∧ sp1Pa 0 0x9000 % 2 ^ 36 < (refuses.core 0).exb.toNat) ∧
    (sp2Pa 0 0 % 2 ^ 48 / 2 ^ 46 = 2 ∧ 0 < parkUsable (refuses.cluster 0).parkcfg * 9216 ∧
      parkOff (refuses.cluster 0).parkcfg 0 ≤ 0 ∧ bits (refuses.cluster 0).ovfcfg 25 17 * 4096 = 2 ^ 20 ∧ 65536 * bits (refuses.cluster 0).ovfcfg 3 0 ≤ 2 ^ 20) ∧
    (let s := { paged with errs := [(sp2Pa 0 0x100 / 8, true)] }; s.errs ≠ []) := by decide
theorem witness_AccessTraps_refused :
    (paged.settled ∧ paged.unbound ∧ (1 : BitVec 2) ≠ 3 ∧ ∀ n ∈ [1, 2, 4, 8, 16, 256], paged.aligned (paged.p (1 : BitVec 3)) n ∧
      isMessageWindow (paged.p (1 : BitVec 3)) = false) ∧
    ((1 : BitVec 2).toNat ≤ 1 ∧ (paged.p (1 : BitVec 5)).toNat % 16 = 0 ∧ (30 : BitVec 5).toNat % 2 = 0 ∧ (6 : BitVec 3) ≠ 7 ∧ (5 : BitVec 3).toNat ≤ 5 ∧
      (∀ r ∈ paged.posted paged.thr.uid, r.scope ≠ some 5) ∧ paged.unsent paged.thr.uid = [] ∧ paged.cl.fails = []) ∧
    (∀ k ∈ [AccessKind.load, .store, .atomic], (match (translate refuses.coreWho k 0x1100).run refuses with
      | .ok t u => 256 ≤ t.limit && paModule t.pa = locModule refuses.loc && u.watch.isNone &&
          u.refusalOf refuses.coreWho (chunks 0 0x1100 t.pa 8) = some (0x09, 0x13)
      | .error _ _ => false) = true) ∧
    (match (translate base.coreWho .load (BitVec.ofNat 80 (15 * 2 ^ 76 + 3 * 2 ^ 60))).run base with
      | .error (.trap i) _ => i.cause = 0x09
      | _ => false) = true :=
  ⟨⟨paged_settled, by unfold State.unbound; decide, by decide, fun n hn => ⟨.inr (by decide), by decide⟩⟩, by decide, by decide, by decide⟩

theorem witness_RegisterWrites :
    (∀ o ∈ [0x200000080, 0x200000090, 0x2000000A0, 0x200000300 + 8 * 3, 0x200000400 + 8 * 4, 0x200000500, 0x200000508, 0x200000600, 0x200000700, 0x100000000,
        0x100000008, 0x100000010, 0x100000020, 0x100000028, 0x100000030, 0x800000000, 0x800010000 + 32 * 7, 0x800010008 + 32 * 7, 0x800020000, 0x800040000,
        0x800040008, 0xA00000000, 0xA00000008, 0xA00000010], regOff o = o ∧ paDieKey o % 16 < 8) ∧
    (ctrlAssigned 0x12 = true ∧ threadCtrl 0x12 = false ∧ regOff (0x200010000 + 8 * 0x12) = 0x200010000 + 8 * 0x12) ∧
    (3 < 4 ∧ 4 < 5 ∧ bits (0 : Word) 60 59 ∉ [1, 2] ∧ bit (0 : Word) 62 = false) ∧
    ctxAllowed (chooses.core 0).ctxalw (bits (2 : Word) 15 0) = true ∧ ctxAllowed (chooses.core 0).ctxalw (bits (6 : Word) 15 0) = false := by decide

/-! ### Witnesses: what commands write -/

/-- What a command of slot 0 that has not performed has around it. -/
def carries (s : State) (c : Cmd) : Prop :=
  Memory.wf s.mem = true ∧ s.cmd 1 = some c ∧ s.disarmed ∧ s.placeOf c.uid = some (.slot 0 0) ∧
    ((s.threadAt 0 0).opens.filter fun z => z.ctr = c.ctr) = [⟨1, 1, 5, .none, .x, false⟩] ∧ c.performed = false ∧ c.barrier = none
/-- A place of SP2. -/
def at2 (off n : Nat) : List (Nat × Nat × Nat) := [(sp2Pa 0 off, 0, n)]
/-- A command that has not performed, with its registers, in flight over some bytes of SP2. -/
def starting (c : Cmd) (l : List (Nat × List Nat)) : State :=
  l.foldl (fun s x => put s x.1 x.2) { flying c.kind false none none [] with cmds := [c] }
def rowsOf (n bytes stride : Nat) : Vector Ptr 5 :=
  (((Vector.replicate 5 (0 : Ptr)).set 0 (BitVec.ofNat 80 (n * 2 ^ 32 + bytes))).set 1 (BitVec.ofNat 80 stride)).set 2 (BitVec.ofNat 80 stride)
def copying (kind : CmdKind) (cp : Vector Ptr 5) : Cmd := { oneCommand kind false none none with cp := cp }
/-- Items that write apart, looked at one by one. -/
def itemsClear (n : Nat) (live : Nat → Bool) (dest from_ : Nat → List (Nat × Nat × Nat)) : Bool :=
  (List.range n).all fun i => (List.range n).all fun j => !(live i) || !(live j) || i == j ||
    (dest i).all fun x => (dest j ++ from_ j).all fun y => decide (x.1 + x.2.2 ≤ y.1) || decide (y.1 + y.2.2 ≤ x.1)
theorem itemsApart_of {n : Nat} {live : Nat → Bool} {L : Nat → Prop} {dest from_ : Nat → List (Nat × Nat × Nat)}
    (hl : ∀ i, L i → live i = true) (h : itemsClear n live dest from_ = true) : itemsApart n L dest from_ := by
  intro i hi j hj li lj hne
  simp only [itemsClear, List.all_eq_true, List.mem_range, Bool.or_eq_true, Bool.not_eq_true', beq_iff_eq, decide_eq_true_eq] at h
  have h := h i hi j hj
  simp only [hl i li, hl j lj, hne, Bool.true_eq_false, false_or] at h
  exact ⟨fun x hx y hy => h x hx y (List.mem_append_left _ hy), fun x hx y hy => h x hx y (List.mem_append_right _ hy)⟩
theorem witness_EngineEffects_copy :
    (let c := copying (.copy (sp2 0x100) (sp2 0)) (rowsOf 2 16 32);
      let s := starting c [];
      carries s c ∧ cpRows c.cp = 2 ∧ ∀ r ∈ ([0, 1] : List Nat),
        s.quietAt c.copyWho .load (addPtr (sp2 0) (r * cpSrcStride c.cp)) (cpSrcXs c.cp) (cpRowBytes c.cp) = some (at2 (32 * r) 16) ∧
        s.quietAt c.copyWho .store (addPtr (sp2 0x100) (r * cpDstStride c.cp)) (cpDstXs c.cp) (cpRowBytes c.cp) = some (at2 (0x100 + 32 * r) 16)) ∧
    itemsApart 2 (fun _ => True) (fun r => at2 (0x100 + 32 * r) 16) (fun r => at2 (32 * r) 16) ∧
    itemsApart 2 (fun _ => True) (fun r => at2 (0x100 + 32 * r) 16) (fun _ => []) :=
  ⟨by unfold carries State.disarmed; decide, itemsApart_of (live := fun _ => true) (fun _ _ => rfl) (by decide),
    itemsApart_of (live := fun _ => true) (fun _ _ => rfl) (by decide)⟩
/-- The row that index 1 names is moved, and the entry of all ones moves nothing. -/
def skipsOne : List Nat := bytes 8 [(0, 1), (4, 255), (5, 255), (6, 255), (7, 255)]
def indexedReady (kind : CmdKind) : Prop :=
  let c := copying kind (rowsOf 2 16 32)
  let s := starting c [(0x200, skipsOne)]
  carries s c ∧ cpAdd c.cp = false ∧ cpIndexBytes c.cp = 4 ∧
    (∀ r ∈ ([0, 1] : List Nat), s.quietAt c.copyWho .load (sp2 0x200 + BitVec.ofNat 80 (4 * r)) 0 4 = some (at2 (0x200 + 4 * r) 4)) ∧
    ofBytes (s.bytesAt (at2 0x200 4)) = 1 ∧ ofBytes (s.bytesAt (at2 0x204 4)) = 2 ^ (8 * 4) - 1 ∧
    ∀ z ∈ ([0, 1] : List Nat), s.quietAt c.copyWho .load (addPtr (sp2 0) (z * cpSrcStride c.cp)) 0 16 = some (at2 (32 * z) 16) ∧
      s.quietAt c.copyWho .store (addPtr (sp2 0x100) (z * cpDstStride c.cp)) 0 16 = some (at2 (0x100 + 32 * z) 16)
theorem witness_EngineEffects_rows :
    indexedReady (.rows (sp2 0x100) (sp2 0) (sp2 0x200)) ∧ indexedReady (.scat (sp2 0x100) (sp2 0) (sp2 0x200)) ∧
    itemsApart 2 (fun r => r = 0) (fun r => at2 (0x100 + 32 * r) 16) (fun r => at2 (0x200 + 4 * r) 4) ∧
    itemsApart 2 (fun r => r = 0) (fun r => at2 (0x100 + 32 * r) 16) (fun r => at2 (32 * r) 16) :=
  ⟨by unfold indexedReady carries State.disarmed; decide, by unfold indexedReady carries State.disarmed; decide,
    itemsApart_of (live := fun r => r == 0) (fun _ h => by simp [h]) (by decide),
    itemsApart_of (live := fun r => r == 0) (fun _ h => by simp [h]) (by decide)⟩
/-- One row of four elements of binary32 added. -/
theorem witness_EngineEffects_add :
    (let c := copying (.scat (sp2 0x100) (sp2 0) (sp2 0x200)) ((rowsOf 1 16 0).set 3 (BitVec.ofNat 80 (0x0A * 2 ^ 16 + 2 ^ 10)));
      let s := starting c [];
      carries s c ∧ cpRows c.cp = 1 ∧ cpAdd c.cp = true ∧ cpMode c.cp < 4 ∧ addFmt (cpFmt c.cp) = true ∧ Float.fmtOf (cpFmt c.cp) = some Float.f32 ∧
        s.quietAt c.copyWho .load (sp2 0x200) 0 4 = some (at2 0x200 4) ∧ ofBytes (s.bytesAt (at2 0x200 4)) ≠ 2 ^ 32 - 1 ∧
        s.quietAt c.copyWho .load (sp2 0) 0 16 = some (at2 0 16) ∧ 16 % 4 = 0 ∧ (sp2 0x100).toNat % 4 = 0 ∧
        (∀ j < 4, s.quietAt c.copyWho .atomic (sp2 0x100 + BitVec.ofNat 80 (4 * j)) 0 4 = some (at2 (0x100 + 4 * j) 4))) ∧
    ∀ i < 4, ∀ j < 4, i ≠ j → sp2Pa 0 (0x100 + 4 * i) + 4 ≤ sp2Pa 0 (0x100 + 4 * j) ∨ sp2Pa 0 (0x100 + 4 * j) + 4 ≤ sp2Pa 0 (0x100 + 4 * i) :=
  ⟨by unfold carries State.disarmed; decide, by decide⟩
/-- A tile of two rows of eight bf16 elements in SP2. -/
def smallTileAt (base : Nat) : Word × Word := (BitVec.ofNat 64 (2 ^ 63 + 2 ^ 61 + 2 * 2 ^ 59 + 8 * 2 ^ 51 + 2 ^ 40 + 7 * 2 ^ 32 + base), 2)
def smallTile : Word × Word := smallTileAt 0x1000
def tileReads (kind : CmdKind) (access : AccessKind) (inside outside : Nat) : Prop :=
  let c := oneCommand kind false none none
  let s := starting c []
  Memory.wf s.mem = true ∧ s.cmd 1 = some c ∧ c.performed = false ∧ s.watch = none ∧ s.reconfiguring = false ∧ s.namedBefore c smallTile = false ∧
    tileRows smallTile = 2 ∧ tileRowBytes smallTile = 16 ∧ tileCols smallTile = 8 ∧ Float.fmtBytes (tileFmt smallTile) = 2 ∧
    ∀ r ∈ ([0, 1] : List Nat), s.quietTile c.copyWho c.loc smallTile (tileBase smallTile + r * tilePitch smallTile) inside = some (at2 (0x1000 + 32 * r) inside) ∧
      s.quietAt c.copyWho access (addPtr (sp2 0) (r * (32 : Word).toInt)) 0 outside = some (at2 (32 * r) outside)
theorem witness_EngineEffects_tiles :
    tileReads (.tfill 31 smallTile (sp2 0) 32 false) .load 16 16 ∧ tileReads (.tfill 31 smallTile (sp2 0) 32 true) .load 16 9 ∧
    tileReads (.tdrain 31 smallTile (sp2 0) 32 false) .store 16 16 ∧ tileReads (.tdrain 31 smallTile (sp2 0) 32 true) .store 16 16 ∧
    itemsApart 2 (fun _ => True) (fun r => at2 (0x1000 + 32 * r) 16) (fun r => at2 (32 * r) 16) ∧
    itemsApart 2 (fun _ => True) (fun r => at2 (0x1000 + 32 * r) 16) (fun r => at2 (32 * r) 9) ∧
    itemsApart 2 (fun _ => True) (fun r => at2 (32 * r) 16) (fun r => at2 (0x1000 + 32 * r) 16) :=
  ⟨by unfold tileReads; decide, by unfold tileReads; decide, by unfold tileReads; decide, by unfold tileReads; decide,
    itemsApart_of (live := fun _ => true) (fun _ _ => rfl) (by decide), itemsApart_of (live := fun _ => true) (fun _ _ => rfl) (by decide),
    itemsApart_of (live := fun _ => true) (fun _ _ => rfl) (by decide)⟩
/-- Two cores exchange their tile 31. -/
def swapTile (l : Nat) : Word × Word := smallTileAt (0x1000 + 0x1000 * l)
def swapper (l : Nat) : Cmd := { oneCommand (.tswap 31 (swapTile l) (1 - l)) false none none with id := l + 1, loc := l }
def swapping : State := { flying .stvMap false none none [] with cmds := [swapper 0, swapper 1] }
theorem witness_EngineEffects_swap :
    (Memory.wf swapping.mem = true ∧ swapping.cmd 1 = some (swapper 0) ∧ (swapper 0).performed = false ∧ swapping.watch = none ∧
      swapping.swapPartner 0 31 1 = some (swapper 1) ∧ (swapper 1).id ≠ 1 ∧ swapping.cmd (swapper 1).id = some (swapper 1) ∧
      tilesAlike (swapTile 0) (swapTile 1) = true) ∧
    (∀ x ∈ [0, 1], ∀ l ∈ [0, 1], ∀ r ∈ [0, 1],
      swapping.quietTile (swapper x).copyWho l (swapTile l) (tileBase (swapTile l) + r * tilePitch (swapTile l)) 16 =
        some (at2 (0x1000 + 0x1000 * l + 32 * r) 16)) ∧
    itemsApart 4 (fun _ => True) (fun i => at2 (0x1000 + 0x1000 * (i / 2) + 32 * (i % 2)) 16) (fun _ => []) :=
  ⟨by decide, by decide, itemsApart_of (live := fun _ => true) (fun _ _ => rfl) (by decide)⟩
theorem witness_EngineEffects_sparse :
    64 % 8 = 0 ∧ (List.replicate 72 (0 : Byte)).length = 64 / 2 * 2 + 64 / 8 ∧ 15 < 64 / 4 ∧ 3 < 4 ∧ 1 < 2 := by decide
/-- Matrix registers: operands of a byte an element at SP2 offsets 0 and 0x1000, rows 32 bytes apart, and moves of two rows from row 30. -/
def mxRegs (fmt : Nat) : Vector Ptr 7 :=
  ((((((Vector.replicate 7 (0 : Ptr)).set 0 (sp2 0)).set 1 32).set 2 (sp2 0x1000)).set 3 32).set 4
    (BitVec.ofNat 80 (128 * 2 ^ 32 + fmt * 2 ^ 24 + 2 ^ 8 + 30))).set 5 (BitVec.ofNat 80 (2 ^ 33 + 2))
def mxCommand (kind : CmdKind) (mxfmt : Nat) : Cmd :=
  { oneCommand kind false none none with mx := mxRegs 0x0A, mxfmt := BitVec.ofNat 64 mxfmt, begun := true, mxsca := BitVec.ofNat 64 (2 ^ 61 + 0x2000),
                                          mxscb := BitVec.ofNat 64 (2 ^ 61 + 0x3000) }
theorem witness_MatrixEffects_elements :
    (mxAFmt 0x001 ≤ 1 ∧ mxBFmt 0x001 ≤ 1 ∧ Float.fmtOf (mxAFmt 0x001) = some ⟨.int, 8, 0, 0, 0⟩ ∧ Float.fmtOf (mxBFmt 0x001) = some ⟨.nat, 8, 0, 0, 0⟩ ∧
      ∀ u ∈ [255, 128, 127], u < 256) ∧
    (∃ f g, Float.fmtOf 1 = some f ∧ Float.fmtOf 0 = some g ∧
      (⟨[[255, 128].map (Float.unpack f false)], [[255, 3].map (Float.unpack g false)], [], []⟩ : Block).a[0]? = some ([255, 128].map (Float.unpack f false))) ∧
    (mxInteger 0x1111 = false ∧ Float.unpack Float.a36 false 0 = .fin false 0 (-153) false) :=
  ⟨by decide, ⟨_, _, rfl, rfl, rfl⟩, by decide⟩
theorem witness_MatrixEffects_operands :
    let c := mxCommand (.mac true false false 3 0 0 none none false) 0x1111;
    let s := starting c [];
    (Float.fmtOf (mxAFmt c.mxfmt)).map (·.bits) = some 8 ∧ (Float.fmtOf (mxBFmt c.mxfmt)).map (·.bits) = some 8 ∧
    (∀ i ∈ List.range 32, s.quietAt (c.pipeWho false) .load (addPtr (c.mx.get 0) ((0 + i : Nat) * sextInt 64 (c.mx.get 1).toNat + ((0 * 1 : Nat) : Int))) 0 32 =
        some (at2 (32 * i) 32) ∧
      s.quietAt (c.pipeWho true) .load (addPtr (c.mx.get 2) ((0 + i : Nat) * sextInt 64 (c.mx.get 3).toNat + ((0 * 1 : Nat) : Int))) 0 32 =
        some (at2 (0x1000 + 32 * i) 32) ∧
      s.quietAt (c.pipeWho false) .load (addPtr (BitVec.ofNat 80 (bits (c.mx.get 0) 79 64 * 2 ^ 64 + c.mxsca.toNat))
        ((0 + i : Nat) * sextInt 32 (bits (c.mx.get 5) 31 0) + ((0 * 2 : Nat) : Int))) 0 2 = some (at2 (0x2000 + 2 * i) 2)) ∧
    s.quietAt (c.pipeWho true) .load (addPtr (BitVec.ofNat 80 (bits (c.mx.get 2) 79 64 * 2 ^ 64 + c.mxscb.toNat))
        ((0 : Nat) * sextInt 32 (bits (c.mx.get 5) 63 32) + ((0 * 2 : Nat) : Int))) 0 64 = some (at2 0x3000 64) := by decide
theorem reads_of {r : EStateM.Result Stop State (List Block × Option FaultRec)} {s : State}
    (h : (match r with | .ok (_, none) u => decide (u = s) | _ => false) = true) : ∃ ks, r = .ok (ks, none) s := by
  split at h
  · exact ⟨_, by rw [of_decide_eq_true h]⟩
  · cases h
theorem witness_MatrixEffects_blocks :
    let c := mxCommand (.mac false false false 3 0 0 none none false) 0x1111;
    let s := starting c [];
    (carries s c ∧ c.begun = true ∧ s.softAt (.acc c.loc 3) = none ∧ SMap.rising 0 (s.core c.loc).accs = true ∧ mxMode c.mxfmt < 4) ∧
    ∃ ks, (readBlocks c false false 0 0 none none 1 0).run (s.mapCore c.loc fun x => x.setPart 3 false) = .ok (ks, none)
      (s.mapCore c.loc fun x => x.setPart 3 false) :=
  ⟨by unfold carries State.disarmed; decide, reads_of (by decide +kernel)⟩
theorem witness_MatrixEffects_moves :
    (∀ x ∈ [(CmdKind.mxLd 3 (sp2 0), AccessKind.load), (.mxSt 3 (sp2 0), .store)],
      let c := mxCommand x.1 0x1111;
      let s := starting c [];
      c.begun = true ∧ s.softAt (.acc c.loc 3) = none ∧ SMap.rising 0 (s.core c.loc).accs = true ∧ mxMode c.mxfmt < 4 ∧ mxFirstRow c.mx = 30 ∧
        mxRowsMoved c.mx = 2 ∧ moveFmt (mxDFmt c.mx) = true ∧ Float.fmtBytes (mxDFmt c.mx) = 4 ∧
        ∀ r ∈ ([0, 1] : List Nat), s.quietAt (c.pipeWho false) x.2 (addPtr (sp2 0) (r * mxStride c.mx)) (bits (c.mx.get 6) 10 8) 128 =
          some (at2 (128 * r) 128)) ∧
    carries (starting (mxCommand (.mxLd 3 (sp2 0)) 0x1111) []) (mxCommand (.mxLd 3 (sp2 0)) 0x1111) ∧
    carries (starting (mxCommand (.mxSt 3 (sp2 0)) 0x1111) []) (mxCommand (.mxSt 3 (sp2 0)) 0x1111) ∧
    itemsApart 2 (fun _ => True) (fun r => at2 (128 * r) 128) (fun _ => []) :=
  ⟨by decide, by unfold carries State.disarmed; decide, by unfold carries State.disarmed; decide,
    itemsApart_of (live := fun _ => true) (fun _ _ => rfl) (by decide)⟩
/-- A command at the head of core 0's dispatch queue. -/
def enqueued (kind : CmdKind) : State :=
  { inSlot 0 { thread 0x100 0 [] [] with opens := [⟨1, 1, 5, .none, .x, false⟩], k := (Vector.replicate 8 ⟨0, 0⟩).set 1 ⟨5, 4⟩ } { core with dq := [1] } with
    cmds := [{ mxCommand kind 0x1111 with begun := false }] }
theorem witness_MatrixEffects_queue :
    ((enqueued (.mxHand 3)).nextQueue 0 0 = some (0, 1) ∧ (enqueued (.mxHand 3)).reconfiguring = false ∧ (enqueued (.mxHand 3)).watch = none ∧
      (enqueued (.mxHand 3)).softAt (.acc 0 3) = none ∧ moveFmt 0x0A = true) ∧
    carries (enqueued (.mxHand 3)) { mxCommand (.mxHand 3) 0x1111 with begun := false } ∧
    (∀ kind ∈ [CmdKind.mxLd 3 (sp2 0), .mxSt 3 (sp2 0), .mac false false true 3 0 0 none none false], kind.overlaps = true ∧
      (enqueued kind).nextQueue 0 0 = some (0, 1)) ∧
    (Float.fmtOf 0x11 = some ⟨.signed8, 8, 7, 0, 64⟩ ∧ moveFmt 0x11 = true ∧ 127 < 2 ^ 8 ∧ 2 ^ 32 - 1 < 2 ^ 36) :=
  ⟨by decide, by unfold carries State.disarmed; decide, by decide, by decide⟩

/-! The swage commands: a map of three qubits at SP2 0x200 over amplitudes at 0x100. -/
def starMap : StvMap := ⟨7, 3, 0x0C, 1, 0, sp2 0x100, [2, 0, 1]⟩
def swaging (kind : CmdKind) : Cmd := { oneCommand kind false none none with stv := ((Vector.replicate 2 (0 : Ptr)).set 0 (sp2 0x200)).set 1 3 }
def swageState (kind : CmdKind) : State := starting (swaging kind) [(0x200, starMap.toBytes.map (·.toNat))]
def ampOf (y : Nat) : List (Nat × Nat × Nat) := at2 (0x100 + 8 * y) 8
def gatePlan : List Byte := (bytes 64 [(4, 1), (5, 1), (6, 1), (8, 0), (12, 1)]).map fun x => BitVec.ofNat 8 x
def swageReady (kind : CmdKind) : Prop :=
  let c := swaging kind
  let s := swageState kind
  Memory.wf s.mem = true ∧ s.cmd 1 = some c ∧ c.performed = false ∧ s.swageBehind c = false ∧ locModule (s.stvWho c).loc = locModule c.loc ∧
    s.member (locModule c.loc) = true ∧ s.quietAt (s.stvWho c) .load (sp2 0x200) 0 64 = some (at2 0x200 64) ∧
    s.quietAt (s.stvWho c) .store (sp2 0x200) 0 64 = some (at2 0x200 64) ∧ StvMap.ofBytes (s.bytesAt (at2 0x200 64)) = starMap ∧
    stvMapBad c (s.bytesAt (at2 0x200 64)) = false ∧
    (∀ y ∈ List.range 8, s.ampAt c starMap .load (starMap.index y) = some (ampOf y) ∧ s.ampAt c starMap .store (starMap.index y) = some (ampOf y)) ∧
    s.quietAt (s.stvWho c) .store (sp2 0x180) 0 8 = some (at2 0x180 8)
theorem witness_FabricEffects_swage :
    swageReady (.stvInit 7) ∧ swageReady (.stvSwap 0 2) ∧ swageReady (.stvGate gatePlan (List.replicate 32 0) 0x0C) ∧ swageReady (.stvProb (sp2 0x180) 5 1) ∧
    swageReady (.stvFix 5 1 0) ∧ swageReady (.stvNorm (sp2 0x180)) ∧ swageReady (.stvAmp (sp2 0x180) 7) ∧
    itemsApart 10 (fun _ => True) (fun y => if y < 8 then ampOf y else if y = 8 then at2 0x200 64 else at2 0x180 8) (fun _ => []) ∧
    (planOk gatePlan 3 = true ∧ tooFew starMap gatePlan = false) ∧
    (starMap.pos.length = 3 ∧ starMap.pos.Nodup ∧ starMap.local_ ≤ starMap.pos.getD 0 0 ∧ (2 : Nat) ∉ [0, 1] ∧ starMap.pos.getD 2 0 < starMap.local_ ∧
      ∀ z < 3, z ∉ [0] → starMap.pos.getD z 0 < starMap.local_ → starMap.pos.getD z 0 ≤ starMap.pos.getD 2 0) :=
  ⟨by unfold swageReady; decide, by unfold swageReady; decide, by unfold swageReady; decide, by unfold swageReady; decide, by unfold swageReady; decide,
    by unfold swageReady; decide, by unfold swageReady; decide, itemsApart_of (live := fun _ => true) (fun _ _ => rfl) (by decide), by decide, by decide⟩

/-! Transfers and replays, to the region of rank 0 in SP2 of cluster 0: an entry of all zeros names rank 0 and element 0, one of all ones is skipped. -/
def niRegs (fmt rwm1 cnt npart ctl : Nat) : Vector Ptr 4 :=
  ((((Vector.replicate 4 (0 : Ptr)).set 0 (sp2 0x180)).set 1 (sp2 0x140)).set 2 (BitVec.ofNat 80 (npart * 2 ^ 48 + fmt * 2 ^ 40 + rwm1 * 2 ^ 28 + cnt))).set 3
    (BitVec.ofNat 80 ctl)
def transferring (kind ctl : Nat) (hand : Option (List Nat)) (rwm1 : Nat) : Cmd :=
  { oneCommand (.transfer kind 0x1000 (sp2 0x40) none hand) false none none with ni := niRegs 0x0A rwm1 2 1 ctl }
/-- The second entry of the list at 0x140 is all ones, as is that of a list at 0x1040. -/
def skipCells : List Host.Cell := (List.range 8).map fun i => (sp2Pa 0 (0x148 + i), 255)
def carriedMem : List Host.Cell := placedMem ++ ((List.range 16).map fun i => (2 ^ 30 + 64 + i, if i < 8 then 0 else 255)) ++ skipCells
def carried (c : Cmd) : State := placed [c] carriedMem (starting c []).cores 0 []
theorem carried_placed (c : Cmd) : (carried c).placedAt 0 0 0 placementWord := by
  intro u hu h
  have hr : u.readBytes clearKey (2 ^ 30) 8 = (carried c).readBytes clearKey (2 ^ 30) 8 :=
    List.map_congr_left fun i hi => h _ _ ((by decide : ∀ i < 8, paKind (2 ^ 30 + i) ≠ 1) i (by simpa using hi))
  have hs : (carried c).readBytes clearKey (2 ^ 30) 8 = (placed [] carriedMem [] 0 []).readBytes clearKey (2 ^ 30) 8 := rfl
  have hp := placed_placement [c] u.mem u.cores 0 []
  rw [show placed [c] u.mem u.cores 0 [] = u from hu.symm, hr, hs] at hp
  rw [hp, show BitVec.ofNat 64 (ofBytes ((placed [] carriedMem [] 0 []).readBytes clearKey (2 ^ 30) 8)) = placementWord by decide]
theorem carried_far (c : Cmd) (w : Who) (k : AccessKind) (n : Nat) (ht : teamOf c.gtid = 0) (hl : c.loc = 0) (hw : locModule w.loc = 0) (hn : 0 < n ∧ n ≤ 16)
    (hr : (carried c).refusalOf w [(sp2Pa 0 0x1000, 0, n)] = none) (hc : (carried c).inContextTable (sp2Pa 0 0x1000) n = false) :
    (carried c).farAt c w 0 k false (sp2 0x40) 0x1000 0 0 n [(sp2Pa 0 0x1000, 0, n)] :=
  ⟨placementWord, 0x1000, by rw [ht]; exact carried_placed c, by decide, by decide, by rw [hw]; decide, rfl, rfl, by decide, hn.1, by omega, rfl, hr,
    by simp [hc]⟩
/-- The premises that a transfer of a kind, with or without a hand-off slot, shares with the others. -/
def transferReady (c : Cmd) (rwm1 n : Nat) : Prop :=
  carries (carried c) c ∧
  (niRwm1 c.ni = rwm1 ∧ niPart c.ni = 1 ∧ niCount c.ni = 2 ∧ Float.fmtBytes (niFmt c.ni) = 4 ∧ niGlb c.ni = false ∧ niMode c.ni < 4 ∧
    addFmt (niFmt c.ni) = true) ∧
  ((carried c).quietAt c.niWho .load (niList c.ni) 0 4 = some (at2 0x180 4) ∧ ofBytes ((carried c).bytesAt (at2 0x180 4)) = 0 ∧
    (carried c).quietAt c.niWho .load (niIdx c.ni) 0 8 = some (at2 0x140 8) ∧ ofBytes ((carried c).bytesAt (at2 0x140 8)) = 0 ∧
    (carried c).quietAt c.niWho .load (niIdx c.ni + 8) 0 8 = some (at2 0x148 8) ∧ ofBytes ((carried c).bytesAt (at2 0x148 8)) = 2 ^ 64 - 1) ∧
  ((carried c).quietAt c.niWho .load (sp2 0x40) 0 n = some (at2 0x40 n) ∧ (carried c).quietAt c.niWho .store (sp2 0x40) 0 4 = some (at2 0x40 4) ∧
    (carried c).refusalOf c.niWho [(sp2Pa 0 0x1000, 0, n)] = none ∧ (carried c).inContextTable (sp2Pa 0 0x1000) n = false)
theorem witness_FabricEffects_transfers :
    transferReady (transferring 1 0 none 0) 0 8 ∧ transferReady (transferring 1 64 (some [1, 2]) 0) 0 8 ∧ transferReady (transferring 2 0 none 0) 0 4 ∧
    transferReady (transferring 3 0 none 0) 0 4 ∧ transferReady (transferring 4 32 none 0) 0 4 ∧ transferReady (transferring 5 0 none 1) 1 8 ∧
    transferReady (transferring 5 64 (some [1, 2, 3, 4]) 1) 1 8 ∧
    (∀ kind ctl rwm1 hand k n, 0 < n → n ≤ 16 → (carried (transferring kind ctl hand rwm1)).refusalOf (transferring kind ctl hand rwm1).niWho
        [(sp2Pa 0 0x1000, 0, n)] = none → (carried (transferring kind ctl hand rwm1)).inContextTable (sp2Pa 0 0x1000) n = false →
      (carried (transferring kind ctl hand rwm1)).farAt (transferring kind ctl hand rwm1) (transferring kind ctl hand rwm1).niWho 0 k false (sp2 0x40)
        0x1000 0 0 n [(sp2Pa 0 0x1000, 0, n)]) ∧
    itemsApart 2 (fun i => i = 0) (fun _ => at2 0x1000 8) (fun _ => at2 0x40 8) ∧ itemsApart 2 (fun i => i = 0) (fun _ => at2 0x40 4) (fun _ => at2 0x1000 4) ∧
    sp2Pa 0 0x1000 % 4 = 0 :=
  ⟨⟨by unfold carries State.disarmed; decide, by decide, by decide, by decide⟩,
    ⟨by unfold carries State.disarmed; decide, by decide, by decide, by decide⟩,
    ⟨by unfold carries State.disarmed; decide, by decide, by decide, by decide⟩,
    ⟨by unfold carries State.disarmed; decide, by decide, by decide, by decide⟩,
    ⟨by unfold carries State.disarmed; decide, by decide, by decide, by decide⟩,
    ⟨by unfold carries State.disarmed; decide, by decide, by decide, by decide⟩,
    ⟨by unfold carries State.disarmed; decide, by decide, by decide, by decide⟩,
    fun _ _ _ _ k n h1 h2 hr hc => carried_far _ _ k n (show teamOf 0 = 0 by decide) rfl (show locModule 0 = 0 by decide) ⟨h1, h2⟩ hr hc,
    itemsApart_of (live := fun i => i == 0) (fun _ h => by simp [h]) (by decide), itemsApart_of (live := fun i => i == 0) (fun _ h => by simp [h]) (by decide),
    by decide⟩
/-- A replay of an entry of a kind whose list of two entries lies in page 1. -/
def replaying (kind rwm1 list : Nat) : Cmd :=
  oneCommand (.treplay 0 ⟨0, 1, kind, 0x0A, false, false, 2, rwm1, 0, sp2 0x40, 0, 0x1000, list, 1, 1, [0], 0x1000, 64, 0, false⟩ 0 0x0A 0 0) false none none
def replayReady (c : Cmd) : Prop :=
  carries (carried c) c ∧
  ((carried c).quietAt (c.tapeWho 0) .atomic (sp2 0x40) 0 4 = some (at2 0x40 4) ∧ (carried c).quietAt (c.tapeWho 0) .atomic (sp2 0x44) 0 4 = some (at2 0x44 4) ∧
    (carried c).quietAt (c.tapeWho 0) .load (sp2 0x40) 0 4 = some (at2 0x40 4) ∧ (sp2 0x40 + 0).toNat % 4 = 0) ∧
  ((carried c).refusalOf (c.tapeWho 0) [(sp2Pa 0 0x1000, 0, 4)] = none ∧ (carried c).inContextTable (sp2Pa 0 0x1000) 4 = false)
theorem witness_FabricEffects_replays :
    (replayReady (replaying 1 0 0) ∧ replayReady (replaying 2 0 1) ∧ replayReady (replaying 3 0 1) ∧ replayReady (replaying 4 0 1) ∧ replayReady (replaying 5 1 1)) ∧
    ((0 : Nat) % 8 < 4 ∧ Float.fmtOf 0x0A = some Float.f32 ∧ replayFmt 0x0A = true ∧ (0x1000 : Word).zeroExtend 80 + BitVec.ofNat 80 (64 * 1) = (0x1040 : Ptr)) ∧
    (∀ kind rwm1 list k, (carried (replaying kind rwm1 list)).refusalOf ((replaying kind rwm1 list).tapeWho 0) [(sp2Pa 0 0x1000, 0, 4)] = none →
      (carried (replaying kind rwm1 list)).inContextTable (sp2Pa 0 0x1000) 4 = false →
      (carried (replaying kind rwm1 list)).farAt (replaying kind rwm1 list) ((replaying kind rwm1 list).tapeWho 0) 0 k false (sp2 0x40) 0x1000 0 0 4
        [(sp2Pa 0 0x1000, 0, 4)]) ∧
    placesApart (at2 0x40 4) (at2 0x44 4) ∧ placesApart (at2 0x40 4) (at2 0x1000 4) :=
  ⟨⟨⟨by unfold carries State.disarmed; decide, by decide, by decide⟩, ⟨by unfold carries State.disarmed; decide, by decide, by decide⟩,
      ⟨by unfold carries State.disarmed; decide, by decide, by decide⟩, ⟨by unfold carries State.disarmed; decide, by decide, by decide⟩,
      ⟨by unfold carries State.disarmed; decide, by decide, by decide⟩⟩, by decide,
    fun _ _ _ k hr hc => carried_far _ _ k 4 (show teamOf 0 = 0 by decide) rfl (show locModule (0 * 16) = 0 by decide) (by decide) hr hc, by unfold placesApart; decide, by unfold placesApart; decide⟩
theorem list_of {r : EStateM.Result Stop State (List Byte)} {s : State}
    (h : (match r with | .ok b u => decide (leAt b 0 8 = 0 ∧ leAt b 8 8 = 2 ^ 64 - 1) && decide (u = s) | _ => false) = true) :
    ∃ lb, leAt lb 0 8 = 0 ∧ leAt lb 8 8 = 2 ^ 64 - 1 ∧ r = .ok lb s := by
  split at h
  · simp only [Bool.and_eq_true, decide_eq_true_eq] at h
    exact ⟨_, h.1.1, h.1.2, by rw [h.2]⟩
  · cases h
/-- The list that such a replay reads: one entry that is live and one that is not. -/
theorem witness_FabricEffects_list : ∀ kind ∈ [2, 3, 4], ∃ lb, leAt lb 0 8 = 0 ∧ leAt lb 8 8 = 2 ^ 64 - 1 ∧
    (memRead ((replaying kind 0 1).tapeWho 0) 0x1040 16 0).run (carried (replaying kind 0 1)) = .ok lb (carried (replaying kind 0 1)) := by
  intro k hk
  simp only [List.mem_cons, List.not_mem_nil, or_false] at hk
  rcases hk with rfl | rfl | rfl <;> exact list_of (by decide +kernel)
theorem witness_FabricEffects_status : [0, 65].Nodup ∧ (∀ p ∈ [0, 65], p < 66) ∧ [0, 65] ≠ ([] : List Nat) := by decide
/-- A list laid down: the entry, and nothing to write where there is no entry. -/
theorem witness_FabricEffects_lays :
    let s := { base with clusters := [(0, { Cluster.reset with tape := [⟨0, 1, 2, 8, false, false, 2, 0, 0, 0, 0, 0, 1, 1, 0, [], 0xFC0, 64, 0, true⟩] })] };
    (∀ x ∈ [0, 2 ^ 64 - 1], x < 2 ^ 64) ∧ [0, 2 ^ 64 - 1].length ≤ niCount (transferring 2 0 none 0).ni ∧
    ((s.cluster (locClusterKey 0)).tape.find? fun z => z.slot = 0 && z.gen = 1).isSome = true := by decide
/-! ### Single steps, with results worked out by hand from the rules named -/

/-- The state after the one step in which slot 0 runs a word. -/
noncomputable def after (s : State) (w : Nat) : State :=
  match step (s.withFetchWord 32 w) with
  | .next t => t
  | _ => s
/-- The state after a word's instruction alone, its store performed (log 80). -/
noncomputable def ran (s : State) (w : BitVec 32) : State :=
  match decodeWord w with
  | .ok i => match exec i s with
    | .next t => t
    | _ => s
  | .error _ => s
noncomputable def reg (s : State) (r : Fin 32) : Word := (s.threadAt 0 0).g.get r

/-- R224, R225, R226, R229: a sum that wraps, a source that is the destination, the spec's examples of `movi`, the rounding of a
quotient towards zero. -/
theorem test_add_wraps : reg (after (run (thread 0x100 0 [(4, BitVec.allOnes 64), (5, 1)] [])) 0x04642800) 3 = 0 := by decide
theorem test_addi_onto_itself : reg (after (run (thread 0x100 0 [(3, 5)] [])) 0x08630008) 3 = 13 := by decide
theorem test_movi_sign : reg (after base 0x1870FFFF) 3 = 0xFFFFFFFFFFFFFFFF := by decide
theorem test_movi_start : reg (after base 0x18A5003F) 5 = 0x3F00000 := by decide
theorem test_slti_is_signed : reg (after (run (thread 0x100 0 [(4, BitVec.ofInt 64 (-6))] [])) 0x20644FFB) 3 = 1 := by decide
theorem test_divn : reg (after (run (thread 0x100 0 [(7, BitVec.ofInt 64 (-1)), (8, 2)] [])) 0x24C74005) 6 = 0x7FFFFFFFFFFFFFFF := by decide
theorem test_sext32 : reg (after (run (thread 0x100 0 [(4, 0x80000000)] [])) 0x0464002A) 3 = 0xFFFFFFFF80000000 := by decide
/-- R231: a negative offset reaches the whole 80-bit pointer. -/
theorem test_padd : ((after (run (thread 0x100 0 [(4, BitVec.ofInt 64 (-1))] [])) 0x28612000).threadAt 0 0).p.get 3 = BitVec.allOnes 80 := by
  decide

/-- R232, R236, R237: 1 + 1 in binary64, 1 < 2, the spec's example of a conversion. -/
theorem test_fadd : reg (after (run (thread 0x100 0 [(4, 0x3FF0000000000000), (5, 0x3FF0000000000000)] [])) 0x2C642839) 3 = 0x4000000000000000 := by
  decide
theorem test_fcmp : reg (after (run (thread 0x100 0 [(4, 0x3FF0000000000000), (5, 0x4000000000000000)] [])) 0x2C642A09) 3 = 1 := by decide
theorem test_fcvt : reg (after (run (thread 0x100 0 [(4, 0x3FC0)] [])) 0x2C641278) 3 = 0x3FC00000 := by decide

/-- R240, R241, R242: a branch taken and not, a call with its link. -/
theorem test_beq_taken : ((after base 0x80040002).threadAt 0 0).pc = 0x108 := by decide
theorem test_bltn_not_taken : ((after base 0x810A6FFC).threadAt 0 0).pc = 0x104 := by decide
theorem test_call : reg (after base 0x88000010) 31 = 0x104 ∧ ((after base 0x88000010).threadAt 0 0).pc = 0x140 := by decide

/-- R268, R269: a load little-endian, a store of one byte, an update after the access. -/
theorem test_ld : reg (ran (put (points 0) 0 [1, 2, 0, 0, 0, 0, 0, 0x80]) 0x48840000) 4 = 0x8000000000000201 := by decide
theorem test_st8 :
    (ran (run (thread 0x100 0 [(4, 0x1FF)] [(2, sp2 0)])) 0x50880003).readBytes clearKey (sp2Pa 0 2) 4 = [0, 0xFF, 0, 0] := by decide
theorem test_post_update : ((ran (run (thread 0x100 0 [] [(3, sp2 0)])) 0x420D0001).threadAt 0 0).p.get 3 = sp2 4 := by decide
/-- R12: without permission the access traps, cause 0x09 outcome 0, the address saved. -/
theorem test_window_permission :
    let t := (after (inSlot 0 (thread 0x100 0 [] [(1, sp2 8)]) { core with winp := Vector.replicate 8 0 }) 0x48840000).threadAt 0 0
    t.pc = 0x8000 ∧ t.ecause = 0x09 ∧ t.eaddr = 0x2000000000000008 ∧ t.epc = BitVec.ofNat 64 (0xF000 * 2 ^ 48 + 0x100) := by decide

/-- R272, R273: an atomic returns the old value and stores the sum; `cas` that does not match stores nothing. -/
theorem test_amo_add :
    let t := after (put (run (thread 0x100 0 [(5, 3)] [(4, sp2 0)])) 0 [4]) 0x70642820
    reg t 3 = 4 ∧ t.readByte clearKey (sp2Pa 0 0) = 7 := by decide
theorem test_cas_fails :
    let t := after (put (run (thread 0x100 0 [(6, 5), (7, 9)] [(2, sp2 0)])) 0 [4]) 0x70C23CA0
    reg t 6 = 4 ∧ t.readByte clearKey (sp2Pa 0 0) = 4 := by decide
/-- R278: `waitk` holds the thread while C is below. -/
theorem test_waitk_holds : ((after counts 0x7C000061).threadAt 0 0).pc = 0x104 ∧
    ((after counts 0x7C000062).threadAt 0 0).pc = 0x100 := by decide

/-- R244, R252, R254: lanes of 32 bits; a predicate bound; the lanes counted. -/
def lanes (x : Nat) : Vec := BitVec.ofNat 2048 (((List.range 64).map fun i => (x + i) * 2 ^ (32 * i)).sum)
theorem test_vadd : lane (((after (run { thread 0x100 0 [] [] with v := ((Vector.replicate 32 (0 : Vec)).set 2 (lanes 1)).set 3 (lanes 0xFFFFFFC0) })
    0xA0221805).threadAt 0 0).v.get 1) 4 63 = 63 := by decide
theorem test_vwidth : reg (after base 0xAC6000C2) 3 = 64 := by decide
theorem test_vbound :
    let q := ((after (run (thread 0x100 0 [(4, 62), (5, 64)] [])) 0xA82428E2).threadAt 0 0).q.get 1
    q = 0xFF := by decide

/-- R376, R380, R382, R383, R203: traps and the return from one. -/
theorem test_trap :
    let t := (after user 0x94000005).threadAt 0 0
    t.pc = 0x8000 ∧ t.epc = 0x100 ∧ t.ecause = 0x0514 ∧ t.status = 0x6 := by decide
theorem test_eret :
    let t := (after (run { thread 0x100 6 [] [] with epc := 0x206 }) 0x94020000).threadAt 0 0
    t.pc = 0x204 ∧ t.status = 0x3 := by decide
theorem test_eret_privileged : ((after user 0x94020000).threadAt 0 0).ecause = 0x03 := by decide
theorem test_zero_word : ((after base 0).threadAt 0 0).ecause = 0x01 := by decide
theorem test_reserved_field : ((after base 0x0464082A).threadAt 0 0).ecause = 0x0202 ∧ ((after base 0x0464082A).threadAt 0 0).eaddr = 0x0464082A := by
  decide
/-- R52, R206: at or beyond EXB the thread takes OVERLAY; `crr` of VW's register reads 2,048. -/
theorem test_overlay : ∃ t, step { inSlot 0 (thread 0x8000 0 [] []) { core with exb := 0x8000, evec := 0x400 } with turns := [.issue 0 0] } = .next t ∧
    (t.threadAt 0 0).ecause = 0x08 ∧ (t.threadAt 0 0).pc = 0x400 := ⟨_, rfl, by decide⟩
theorem test_crr : reg (after base 0x90600160) 3 = 2048 := by decide
/-- R287: the spec's `rpt g5, #3`: three words from the next, counted by g5. -/
theorem test_rpt :
    ((after (run (thread 0x100 0 [(5, 2)] [])) 0x98051802).threadAt 0 0).status = BitVec.ofNat 64 (5 * 2 ^ 27 + 3 * 2 ^ 22 + 0x41 * 2 ^ 8) := by decide
/-- R392, R393: forming in a handler fails with status 2. -/
theorem test_alloy_in_handler : reg (after handling 0xD8004802) 9 = 2 := by decide
/-- R301, R334: a task's rank; a message on its way to a neighbour. -/
theorem test_tid : reg (after (run { thread 0x100 0 [] [] with gtid := BitVec.ofNat 64 (7 * 2 ^ 12 + 3) }) 0xD4228000) 10 = 7 := by decide
theorem test_snd : ((after (let s := beside 0; s.mapThreadAt 0 0 fun t => { t with g := t.g.set 4 1 }) 0xC40114C2).msgs.map (·.target)) = [1] := by decide

end Sys2Proof.Tests
end

section
/-! PROOFS. What reset leaves: what reading each unit of the machine gives right after reset. -/

open Sys2Proof.Machine

namespace Sys2Proof.Machine

/-! ### The units: reset lists none, so each reads as its own reset value -/

@[simp] theorem State.core_reset (l : Loc) : State.reset.core l = Core.reset l := rfl
@[simp] theorem State.cluster_reset (k : Nat) : State.reset.cluster k = Cluster.reset := rfl
@[simp] theorem State.die_reset (k : Nat) : State.reset.die k = Die.reset := rfl
@[simp] theorem State.module_reset (m : Nat) : State.reset.module m = Module.reset m := rfl
@[simp] theorem Module.link_reset (m p : Nat) : (Module.reset m).link p = Link.reset := rfl

/-- A number within the vector reads an entry, one beyond it the value given for that: here both are the same. -/
theorem getD_replicate_self {α : Type} (n k : Nat) (a : α) : (Vector.replicate n a).getD k a = a := by
  unfold Vector.getD Array.getD
  split
  · simp only [Vector.toArray_replicate, Array.getInternal_eq_getElem, Array.getElem_replicate]
  · rfl

/-- A register file that holds one value throughout reads it in every place (proved from core Lean alone). -/
theorem get_replicate_self {α : Type} {n : Nat} (a : α) (i : Fin n) : (Vector.replicate n a).get i = a :=
  Vector.getElem_replicate i.isLt

@[simp] theorem Core.thread_reset (l : Loc) (k : Nat) : (Core.reset l).thread k = Thread.reset := getD_replicate_self 5 k _
@[simp] theorem State.threadAt_reset (l : Loc) (k : Nat) : State.reset.threadAt l k = Thread.reset := Core.thread_reset l k
@[simp] theorem State.tile_reset (l : Loc) (n : Nat) : State.reset.tile l n = (0, 0) := getD_replicate_self 32 n _
@[simp] theorem Die.slotOf_reset (n : Nat) : Die.reset.slotOf n = ⟨0, 0, 0, 0⟩ := getD_replicate_self 8 n _

/-! ### Registers of several fields, and memory -/

/-- R429: INTV is 1,000 µs, EN is off and the ring has no records. -/
theorem Die.acctcfg_reset :
    bits Die.reset.acctcfg 41 32 = 1000 ∧ bit Die.reset.acctcfg 63 = false ∧ bits Die.reset.acctcfg 15 0 = 0 := by decide

/-- R424: DIEMASK has every die, nothing is retired, spare in use or unreplaced, and REPLACE is clear. -/
theorem Module.health_reset (m : Nat) :
    bits (Module.reset m).health 51 40 = 0xFFF ∧ bits (Module.reset m).health 39 0 = 0 ∧ bit (Module.reset m).health 63 = false := by
  rw [show (Module.reset m).health = 0xFFF0000000000 from rfl]
  decide

/-- Logs 6, 16: the table of contexts starts where the physical addresses of the module do. -/
theorem Module.ctxtbl_reset (m : Nat) : (Module.reset m).ctxtbl.toNat = m * 2 ^ 54 % 2 ^ 64 := BitVec.toNat_ofNat ..

/-- R48: a scratchpad reads zero under every key, since no byte of memory is listed. -/
theorem State.readByte_reset_pad (key : Nat × Nat) {pa : Nat} (h : paKind pa = 1) : State.reset.readByte key pa = 0 :=
  calc State.reset.readByte key pa
    _ = (blank pa).getD 0 := State.readByte_pad _ key pa h
    _ = 0 := by simp only [blank, h, if_true, Option.getD_some]

end Sys2Proof.Machine

/-- Settles O50: each unit reads as its own reset value, and every register of the statement is then read there. -/
theorem resetState : Obligations.ResetState := by
  unfold Obligations.ResetState
  refine ⟨?threads, ?cores, ?clusters, ?dies, ?modules, fun key _ => State.readByte_reset_pad key,
    rfl, rfl, rfl, rfl, rfl, rfl, rfl, rfl, rfl, rfl, rfl, rfl⟩
  case threads =>
    intro l k
    rw [State.threadAt_reset]
    exact ⟨rfl, rfl, rfl, fun r => ⟨get_replicate_self 0 r, get_replicate_self 0 r⟩,
      fun r => ⟨get_replicate_self 0 r, get_replicate_self 0 r, get_replicate_self (⟨0, 0⟩ : Counter) r⟩, rfl, rfl, rfl,
      get_replicate_self 0, get_replicate_self 0, get_replicate_self 0, get_replicate_self 0, rfl, rfl, rfl, rfl, rfl, rfl⟩
  case cores =>
    intro l
    rw [State.core_reset]
    exact ⟨rfl, rfl, rfl, rfl, rfl, rfl, rfl, get_replicate_self 0, get_replicate_self 0, rfl, rfl, rfl, rfl, rfl, rfl,
      State.tile_reset l⟩
  case clusters =>
    intro ck
    rw [State.cluster_reset]
    exact ⟨rfl, rfl, rfl, rfl, rfl, rfl, rfl⟩
  case dies =>
    intro dk
    rw [State.die_reset]
    obtain ⟨hinterval, hoff, hnrec⟩ := Die.acctcfg_reset
    exact ⟨rfl, rfl, rfl, rfl, hinterval, hoff, hnrec, rfl, fun i _ => Die.slotOf_reset i, rfl, rfl, rfl, rfl⟩
  case modules =>
    intro m
    rw [State.module_reset]
    obtain ⟨hdies, hfailed, hreplace⟩ := Module.health_reset m
    exact ⟨hdies, hfailed, hreplace, rfl, Module.ctxtbl_reset m, rfl, rfl, rfl, rfl, rfl,
      fun p => congrArg Link.state (Module.link_reset m p)⟩

end
